-- ==== Sys2Proof/Word.lean ====
section
/-! DEFINITION. The word types of the Kyokor instruction set: R4 (bit numbering, little-endian memory, 64-bit
instruction words), R25 and R44 (256-byte vectors, 256-bit masks, the 12 KiB register space). -/

namespace Sys2Proof

/-- A 64-bit register, address or instruction word (R4, R85). -/
abbrev Word := BitVec 64

/-- One byte of memory (R4). -/
abbrev Byte := BitVec 8

/-- The 256 bytes of a vector register, lane 0 in the low bits (R4, R44). -/
abbrev VecBits := BitVec 2048

/-- The 256 bits of a mask register, bit `j` for byte lane `j` (R44). -/
abbrev MaskBits := BitVec 256

/-- The 12 KiB register space of a context block, byte 0 in the low bits (R40, R44). -/
abbrev RegSpace := BitVec 98304

/-- One bit for each 8-byte granule of the register space (R40, R48). -/
abbrev GranuleBits := BitVec 1536

end Sys2Proof
end

