-- ==== Sys2Proof/Syntax.lean ====
section
/-! DEFINITION. The syntax of the Kyokor instruction set and of the device's own steps: one constructor of `Instr`
for each row of spec/opcode_table.json. Field codes follow R93 to R99, forms R85 to R92. Rows that are no
instruction word (engine actions, scheduler actions, fabric and host events) carry what the event names. -/

namespace Sys2Proof

/-- Element types (R93); `untyped` is TYPE 15. -/
inductive ElemType where
  | i8 | i16 | i32 | i64 | n8 | n16 | n32 | n64
  | f32 | f16 | bf16 | e4m3 | e5m2 | e2m1 | e8m0 | untyped
  deriving DecidableEq, Repr

/-- Operand width of the scalar families: TYPE 2 or 3 (R119). -/
inductive SWidth where
  | w32 | w64
  deriving DecidableEq, Repr

/-- Formats that `li` accepts: TYPE 3, 8, 9, 10 (R124). -/
inductive LiKind where
  | i64 | f32 | f16 | bf16
  deriving DecidableEq, Repr

/-- Rounding modes (R94). -/
inductive Rounding where
  | rne | rz | rp | rm | rna | rs | ro
  deriving DecidableEq, Repr

/-- Conditions of `cmp` and `cmpi` (R121). -/
inductive Cond where
  | eq | ne | lt | ge | ltn | gen
  deriving DecidableEq, Repr

/-- Conditions of `vcmp` and `vfcmp` (R167); `uo` and `or` belong to `vfcmp` alone. -/
inductive VCond where
  | eq | ne | lt | ge | le | gt | uo | or
  deriving DecidableEq, Repr

/-- Conditions of `br` (R90, R126). -/
inductive BrCond where
  | eqz | nez | ltz | gez | gtz | lez
  deriving DecidableEq, Repr

/-- Ordering field ORD (R95). -/
inductive MemOrd where
  | rlx | acq | rel | sc
  deriving DecidableEq, Repr

/-- Scopes (R96). -/
inductive Scope where
  | thr | gang | die | dev | grp | sys
  deriving DecidableEq, Repr

/-- Address spaces (R60). -/
inductive Space where
  | glob | sp | cw | cx
  deriving DecidableEq, Repr

/-- Source formats of `vcvtq` (f32, f16, bf16) and of `vcvtd` (e4m3, e5m2, e2m1): the SRC sub-field (R217). -/
inductive SrcSel where
  | s0 | s1 | s2
  deriving DecidableEq, Repr

/-- Variants of `tlbi` (R148). -/
inductive TlbiKind where
  | range | asid | all
  deriving DecidableEq, Repr

/-- Element width of `cfill` (R258). -/
inductive FillWidth where
  | n8 | n16 | n32 | n64
  deriving DecidableEq, Repr

/-- A scalar register number (R99). -/
abbrev SReg := BitVec 6
/-- A vector field: 0 to 31 name v0 to v31, 32 is `lq`, 33 is `sq` (R99). -/
abbrev VReg := BitVec 6
/-- A mask register number (R99). -/
abbrev KReg := BitVec 3

/-- The memory operand of form M (R88, R20). -/
structure MemOp where
  base  : SReg
  index : SReg
  off   : BitVec 16
  ord   : MemOrd
  scope : Scope
  evict : BitVec 3
  space : Space
  deriving DecidableEq, Repr

/-- The operand fields that every atomic of form MA shares (R89, R180). -/
structure AtomOp where
  ty    : ElemType
  dst   : SReg
  addr  : SReg
  src   : SReg
  ord   : MemOrd
  scope : Scope
  evict : BitVec 3
  space : Space
  nr    : Bool
  deriving DecidableEq, Repr

/-- The optional parts that the walking graph instructions share: PREG, ST and PROG (R278, R292). -/
structure GraphOpt where
  preg : SReg
  st   : Bool
  prog : Bool
  deriving DecidableEq, Repr

/-- A place in the device's threads: task instance, linear gang index and rank (R27, R28, R42). -/
structure ThreadId where
  task : Nat
  gang : Nat
  rank : Nat
  deriving DecidableEq, Repr

/-- A trap cause as its code names it (R325). -/
inductive Cause where
  | illegal | regRange | rdInv | uniDiv | align | page | prot | ctxPage | remoteUnsup | remoteTimeout
  | dataErr | brk | watch | step | trapi | arith | deposit | priv | engine | queue | addr
  deriving DecidableEq, Repr

/-- What a remote agent answers instead of data (R369, R372): a cause, its DETAIL, and whether the target met a table
fault, which it answers as a page fault (R314). -/
structure RemoteFail where
  cause  : Cause
  detail : Nat
  deriving DecidableEq, Repr

/-- The read-modify-write that an atomic performs (R181). -/
inductive AtomKind where
  | add | and | or | xor | min | max | minn | maxn | swp | cas | inc | dec | fadd | fmin | fmax
  deriving DecidableEq, Repr

/-- A graph object as `gsend` carries it: sender VA, words of its image, and its type's fingerprint (R300). -/
structure SentObject where
  va          : Word
  image       : List Word
  fingerprint : Word
  deriving DecidableEq, Repr

/-- What a frame carries beyond its head (R386: the rest of the payload belongs to the operation). -/
inductive Payload where
  | loadReq (tag : Nat) (va : Word) (bytes : Nat) (fetches : Bool)
  | loadAns (tag : Nat) (data : List Byte)
  | lineAns (tag : Nat) (code : Nat) (data : List Byte)
  | loadFail (tag : Nat) (why : RemoteFail)
  | store (va : Word) (data : List Byte) (flush : Bool)
  | atomic (tag : Nat) (kind : AtomKind) (ty : ElemType) (va : Word) (b c : Word) (nr flush : Bool)
  | atomicAns (tag : Nat) (old : Word) (next : BitVec 16) (fails : List (BitVec 16 × RemoteFail))
  | atomicFail (tag : Nat) (why : RemoteFail) (next : BitVec 16) (fails : List (BitVec 16 × RemoteFail))
  | ack (next : BitVec 16) (fails : List (BitVec 16 × RemoteFail))
  | resend (next : BitVec 16)
  | mldrReq (tag rank : Nat) (va : Word)
  | mldrAns (tag rank : Nat) (data : List Byte)
  | mldrFail (tag rank : Nat) (detail : Nat)
  | graphOpen (tag : Nat) (intake : Nat)
  | graphObject (tag : Nat) (obj : SentObject)
  | graphClose (tag : Nat) (root : Word)
  | graphAbort (tag : Nat) (code detail : Nat)
  | graphAnswer (tag : Nat) (code detail progress : Nat)
  | handOverReq (asid : Nat) (va : Word) (size : Nat)
  | handOverData (asid : Nat) (va : Word) (data : List Byte)
  | handOverRefused (asid : Nat) (va : Word)
  | barrierReport (level : Nat) (job : BitVec 16) (phase : BitVec 32)
  | ackRequest
  deriving DecidableEq, Repr

/-- A frame: the head flit's fields (R386) and what it carries. `op` is the code of R386. -/
structure Frame where
  lane      : Nat
  hops      : Nat
  body      : Nat
  dst       : BitVec 16
  src       : BitVec 16
  op        : Nat
  core      : BitVec 16
  seq       : BitVec 16
  job       : BitVec 16
  gen       : BitVec 8
  rsv       : BitVec 8
  forwarded : Bool
  payload   : Payload
  deriving DecidableEq, Repr

/-- The join record that each link direction exchanges (R383). -/
structure JoinData where
  device : BitVec 16
  port   : Nat
  minor  : Nat
  tmo    : Nat
  deriving DecidableEq, Repr

/-- A flit as it arrives: its control word (R385), its payload after the bytes of a frame's head, and the laser feeds over whose
wavelengths its words were dealt (R382). -/
structure Flit where
  word : Word
  rest : List Byte
  live : BitVec 4
  deriving DecidableEq, Repr

/-- An idle or link-control flit: the flit, the live feeds of the restripe marker that it answers, if it answers one (R391), and whether
it reports a lost token (R393). -/
structure FlitControl where
  flit      : Flit
  realigned : Option (BitVec 4)
  tokenLost : Bool
  deriving DecidableEq, Repr

/-- A flit of a packet that arrives at a link, and, of a head flit, the frame that it begins (R385 to R387). -/
structure Arrival where
  flit  : Flit
  frame : Frame
  deriving DecidableEq, Repr

/-- How a PCI Express completion answers a device request (R201, R373). -/
inductive PcieAnswer where
  | data (bytes : List Byte)
  | refused
  | fault (cause : Cause)
  deriving DecidableEq, Repr

/-- An instruction of the set, or one step of the device: one constructor per row of the opcode table. -/
inductive Instr where
  -- major 0x10, scalar register (R119, R120)
  | add (w : SWidth) (d a b : SReg)
  | sub (w : SWidth) (d a b : SReg)
  | mul (w : SWidth) (d a b : SReg)
  | mulh (w : SWidth) (d a b : SReg)
  | mulhn (w : SWidth) (d a b : SReg)
  | div (w : SWidth) (d a b : SReg)
  | divn (w : SWidth) (d a b : SReg)
  | rem (w : SWidth) (d a b : SReg)
  | remn (w : SWidth) (d a b : SReg)
  | and (w : SWidth) (d a b : SReg)
  | or (w : SWidth) (d a b : SReg)
  | xor (w : SWidth) (d a b : SReg)
  | andn (w : SWidth) (d a b : SReg)
  | shl (w : SWidth) (d a b : SReg)
  | shr (w : SWidth) (d a b : SReg)
  | sar (w : SWidth) (d a b : SReg)
  | rol (w : SWidth) (d a b : SReg)
  | min (w : SWidth) (d a b : SReg)
  | max (w : SWidth) (d a b : SReg)
  | minn (w : SWidth) (d a b : SReg)
  | maxn (w : SWidth) (d a b : SReg)
  | clz (w : SWidth) (d a : SReg)
  | ctz (w : SWidth) (d a : SReg)
  | pop (w : SWidth) (d a : SReg)
  | sel (w : SWidth) (d a b c : SReg)
  | cmp (w : SWidth) (cond : Cond) (d a b : SReg)
  -- major 0x11, scalar immediate (R123, R124)
  | li (kind : LiKind) (d : SReg) (imm : BitVec 32)
  | lih (d a : SReg) (imm : BitVec 32)
  | addi (w : SWidth) (d a : SReg) (imm : BitVec 32)
  | andi (w : SWidth) (d a : SReg) (imm : BitVec 32)
  | ori (w : SWidth) (d a : SReg) (imm : BitVec 32)
  | xori (w : SWidth) (d a : SReg) (imm : BitVec 32)
  | shli (w : SWidth) (d a : SReg) (imm : BitVec 32)
  | shri (w : SWidth) (d a : SReg) (imm : BitVec 32)
  | sari (w : SWidth) (d a : SReg) (imm : BitVec 32)
  | cmpi (w : SWidth) (cond : Cond) (d a : SReg) (imm : BitVec 32)
  | adr (d : SReg) (imm : BitVec 32)
  -- major 0x20, vector integer (R158, R159)
  | vadd (ty : ElemType) (z : Bool) (k : KReg) (d a b : VReg)
  | vsub (ty : ElemType) (z : Bool) (k : KReg) (d a b : VReg)
  | vmul (ty : ElemType) (z : Bool) (k : KReg) (d a b : VReg)
  | vmulh (ty : ElemType) (z : Bool) (k : KReg) (d a b : VReg)
  | vand (ty : ElemType) (z : Bool) (k : KReg) (d a b : VReg)
  | vor (ty : ElemType) (z : Bool) (k : KReg) (d a b : VReg)
  | vxor (ty : ElemType) (z : Bool) (k : KReg) (d a b : VReg)
  | vandn (ty : ElemType) (z : Bool) (k : KReg) (d a b : VReg)
  | vshl (ty : ElemType) (z : Bool) (k : KReg) (d a b : VReg)
  | vshr (ty : ElemType) (z : Bool) (k : KReg) (d a b : VReg)
  | vsar (ty : ElemType) (z : Bool) (k : KReg) (d a b : VReg)
  | vmin (ty : ElemType) (z : Bool) (k : KReg) (d a b : VReg)
  | vmax (ty : ElemType) (z : Bool) (k : KReg) (d a b : VReg)
  | vabs (ty : ElemType) (z : Bool) (k : KReg) (d a : VReg)
  | vneg (ty : ElemType) (z : Bool) (k : KReg) (d a : VReg)
  | vadds (ty : ElemType) (z : Bool) (k : KReg) (d a b : VReg)
  | vsubs (ty : ElemType) (z : Bool) (k : KReg) (d a b : VReg)
  -- major 0x21, vector float (R161, R162)
  | vfadd (ty : ElemType) (r : Rounding) (k : KReg) (d a b : VReg)
  | vfsub (ty : ElemType) (r : Rounding) (k : KReg) (d a b : VReg)
  | vfmul (ty : ElemType) (r : Rounding) (k : KReg) (d a b : VReg)
  | vfma (ty : ElemType) (r : Rounding) (k : KReg) (d a b c : VReg)
  | vfms (ty : ElemType) (r : Rounding) (k : KReg) (d a b c : VReg)
  | vfnma (ty : ElemType) (r : Rounding) (k : KReg) (d a b c : VReg)
  | vfmin (ty : ElemType) (r : Rounding) (k : KReg) (d a b : VReg)
  | vfmax (ty : ElemType) (r : Rounding) (k : KReg) (d a b : VReg)
  | vfabs (ty : ElemType) (k : KReg) (d a : VReg)
  | vfneg (ty : ElemType) (k : KReg) (d a : VReg)
  | vfdiv (ty : ElemType) (r : Rounding) (k : KReg) (d a b : VReg)
  | vfsqrt (ty : ElemType) (r : Rounding) (k : KReg) (d a : VReg)
  | vfrcp (ty : ElemType) (r : Rounding) (k : KReg) (d a : VReg)
  | vfrsq (ty : ElemType) (r : Rounding) (k : KReg) (d a : VReg)
  | vfexp2 (ty : ElemType) (r : Rounding) (k : KReg) (d a : VReg)
  | vflog2 (ty : ElemType) (r : Rounding) (k : KReg) (d a : VReg)
  | vfscale (ty : ElemType) (r : Rounding) (k : KReg) (d a b : VReg)
  -- major 0x22, movement, reduction and scan (R164 to R166)
  | vmov (z : Bool) (k : KReg) (d a : VReg)
  | vbcast (ty : ElemType) (z : Bool) (k : KReg) (d : VReg) (a : SReg)
  | vins (ty : ElemType) (z : Bool) (k : KReg) (d : VReg) (a b : SReg)
  | vext (ty : ElemType) (d : SReg) (a : VReg) (b : SReg)
  | vperm (ty : ElemType) (z : Bool) (k : KReg) (d a b : VReg)
  | vslide (ty : ElemType) (z : Bool) (k : KReg) (d a : VReg) (b : SReg)
  | vzip (ty : ElemType) (z hi : Bool) (k : KReg) (d a b : VReg)
  | vunzip (ty : ElemType) (z odd : Bool) (k : KReg) (d a b : VReg)
  | vsel (ty : ElemType) (z : Bool) (k : KReg) (d a b : VReg) (c : KReg)
  | vcomp (ty : ElemType) (z : Bool) (k : KReg) (d a : VReg)
  | vexpd (ty : ElemType) (z : Bool) (k : KReg) (d a : VReg)
  | vredsum (ty : ElemType) (r : Rounding) (k : KReg) (d : SReg) (a : VReg)
  | vredmax (ty : ElemType) (k : KReg) (d : SReg) (a : VReg)
  | vredmin (ty : ElemType) (k : KReg) (d : SReg) (a : VReg)
  | vscan (ty : ElemType) (r : Rounding) (z : Bool) (k : KReg) (d a : VReg)
  -- major 0x23, compare and masks (R167 to R169)
  | vcmp (ty : ElemType) (cond : VCond) (z : Bool) (k d : KReg) (a b : VReg)
  | vfcmp (ty : ElemType) (cond : VCond) (z : Bool) (k d : KReg) (a b : VReg)
  | vfclass (ty : ElemType) (z : Bool) (k d : KReg) (a : VReg) (b : SReg)
  | kand (d a b : KReg)
  | kor (d a b : KReg)
  | kxor (d a b : KReg)
  | knot (d a : KReg)
  | kmov (d a : KReg)
  | kpop (ty : ElemType) (d : SReg) (a : KReg)
  | kfirst (ty : ElemType) (d : SReg) (a : KReg)
  | kset (ty : ElemType) (d : KReg) (a : SReg)
  | kget (d : SReg) (a : KReg) (b : SReg)
  -- major 0x24, conversion (R217 to R221)
  | vcvt (td ts : ElemType) (r : Rounding) (nsat : Bool) (part : BitVec 3) (k : KReg) (d a : VReg)
  | vcvtq (td : ElemType) (src : SrcSel) (r : Rounding) (nsat : Bool) (part : BitVec 3) (k : KReg) (d a : VReg) (b : SReg)
  | vcvtd (td : ElemType) (src : SrcSel) (r : Rounding) (part : BitVec 3) (k : KReg) (d a : VReg) (b : SReg)
  | vpack (td : ElemType) (k : KReg) (d a b : VReg)
  | vunpack (td : ElemType) (part : BitVec 3) (k : KReg) (d a : VReg)
  -- majors 0x40 to 0x42, memory (R170 to R178)
  | ld (ty : ElemType) (m : MemOp) (d : SReg)
  | st (ty : ElemType) (m : MemOp) (d : SReg)
  | vld (ty : ElemType) (m : MemOp) (k : KReg) (d : VReg)
  | vst (ty : ElemType) (m : MemOp) (k : KReg) (d : VReg)
  | vlds (ty : ElemType) (m : MemOp) (k : KReg) (d : VReg)
  | vsts (ty : ElemType) (m : MemOp) (k : KReg) (d : VReg)
  | vgat (ty : ElemType) (m : MemOp) (k : KReg) (d : VReg)
  | vsca (ty : ElemType) (m : MemOp) (k : KReg) (d : VReg)
  | vldb (ty : ElemType) (m : MemOp) (k : KReg) (d : VReg)
  | pf (m : MemOp)
  | cwb (m : MemOp) (d : SReg)
  | cinv (m : MemOp) (d : SReg)
  | czero (m : MemOp) (d : SReg)
  | qstat (d : SReg)
  -- major 0x50, atomics (R180, R181)
  | aadd (o : AtomOp)
  | aand (o : AtomOp)
  | aor (o : AtomOp)
  | axor (o : AtomOp)
  | amin (o : AtomOp)
  | amax (o : AtomOp)
  | aminn (o : AtomOp)
  | amaxn (o : AtomOp)
  | aswp (o : AtomOp)
  | acas (o : AtomOp) (c : SReg)
  | ainc (o : AtomOp)
  | adec (o : AtomOp)
  | afadd (o : AtomOp)
  | afmin (o : AtomOp)
  | afmax (o : AtomOp)
  -- major 0x51, fences and barrier words (R183 to R185)
  | fence (ord : MemOrd) (scope : Scope)
  | binit (m : MemOp) (d : SReg)
  | bar (m : MemOp) (d : SReg)
  | bara (m : MemOp) (d : SReg)
  | barw (m : MemOp) (d : SReg)
  | bstat (m : MemOp) (d : SReg)
  -- major 0x60, control (R126 to R128)
  | bra (off : BitVec 33)
  | br (cond : BrCond) (a : SReg) (off : BitVec 33)
  | brany (a : KReg) (off : BitVec 33)
  | brall (a : KReg) (off : BitVec 33)
  | jr (a : SReg)
  | call (d : SReg) (off : BitVec 33)
  | callr (d a : SReg)
  | ret (a : SReg)
  | brk (imm : BitVec 32)
  | trap (imm : BitVec 32)
  -- major 0x70, threads and domains (R130 to R142)
  | spawn (d a : SReg) (port : BitVec 6)
  | yield
  | retire
  | wait (all : Bool) (count : BitVec 3) (d : SReg) (a : VReg) (b : SReg)
  | gbar
  | dbar (level : BitVec 32)
  | elect (d : SReg)
  | gget (d a : SReg) (b : BitVec 6)
  | gput (d : BitVec 6) (a b : SReg)
  | tnow (d : SReg)
  -- major 0xB0, system (R144 to R152, R307)
  | mfsr (d : SReg) (idx : BitVec 32)
  | mtsr (a : SReg) (idx : BitVec 32)
  | tlbi (kind : TlbiKind) (a b : SReg)
  | tlbsync
  | pgmig (d a b : SReg)
  | spsplit (a : SReg)
  | thalt (d a : SReg)
  | tresume (d a : SReg)
  | trapret
  | snap (d : SReg)
  | bset (m : MemOp) (d : SReg)
  | agset (d a b : SReg)
  -- hints and forms of a group (R104, R109 to R117)
  | nop (bits : BitVec 60)
  | uni (i : Instr)
  | rep (count : BitVec 16) (sd sa sb sc : BitVec 6) (i : Instr)
  | imx (hi : BitVec 32) (i : Instr)
  | uniPosting (task gang : Nat)
  -- major 0x80, matrix (R228, R240 to R243) and the engine's commands (R225 to R237)
  | mxcmd (d : SReg) (a : VReg)
  | mxgeom (a b c : SReg)
  | mxsub (d : VReg)
  | mxstat (d : SReg)
  | mxflag (d : SReg)
  | mma (core : Nat)
  | mmaz (core : Nat)
  | mmas (core : Nat)
  | bload (core : Nat)
  | cstore (core : Nat)
  | matrixCzero (core : Nat)
  -- major 0x88, copy engine (R245, R256 to R269)
  | cpy (d a b c : SReg) (dsp ssp : Space) (evict : BitVec 3) (f : Bool)
  | cpy2d (d a b : SReg) (c : VReg) (dsp ssp : Space) (evict : BitVec 3) (f : Bool)
  | cpyc (d a : SReg) (limit : BitVec 16)
  | cmcast (d a : SReg) (b : VReg) (mask : BitVec 8) (evict : BitVec 3)
  | cfill (d a b c : SReg) (dsp : Space) (width : FillWidth) (evict : BitVec 3) (f : Bool)
  | stash (d a b c : SReg) (count : BitVec 16)
  | resto (d a b c : SReg) (count : BitVec 16) (f32 : Bool)
  | xpand (d a : SReg) (resume : Bool)
  -- major 0x90, graphs (R278, R280, R292, R299, R303)
  | gcopy (d a b c nreg : SReg) (o : GraphOpt)
  | gsend (d a b c : SReg) (o : GraphOpt)
  | gcmp (d a b c : SReg) (o : GraphOpt)
  | ghash (d a b : SReg) (c : VReg) (o : GraphOpt)
  | gfree (d a b c nreg : SReg) (o : GraphOpt)
  | gcount (d a b nreg : SReg) (o : GraphOpt)
  | gintake (d a : SReg) (index : BitVec 6) (mbox : BitVec 3)
  | gtype (d a b : SReg)
  -- major 0xA0, fabric (R360, R374 to R380)
  | rfence (d : SReg)
  | rstat (d a : SReg)
  | mldr (d a : SReg) (b c : VReg) (group : BitVec 8)
  | mst (d a b : SReg) (c : VReg) (group : BitVec 8) (sectors : BitVec 7) (f : Bool)
  | agrd (d a b : SReg)
  -- steps of the engines (R249, R229, R50)
  | engineUnit (core : Nat)
  | matrixCommandStart (core : Nat)
  | deferredContextWrite (cbase : Word)
  -- steps of the ports and the scheduler (R33 to R37, R66, R73, R74, R82, R135, R331)
  | cardOwnershipWatch (port : Nat)
  | portCardConsume (port : Nat)
  | gangPlace
  | timeSlice (core : Nat)
  | priorityAging (task gang : Nat)
  | clusterReservation
  | preemption
  | idleGangPark
  | gangParkComplete (task gang : Nat)
  | retirementEffect (t : ThreadId)
  | waitTimeout (t : ThreadId)
  | trapNotice (asid : Nat)
  -- steps of translation and migration (R323, R320)
  | walkFill (n : Nat)
  | migrationComplete (n : Nat)
  -- frames that arrive for this device, and the endpoints' timers (R361, R365 to R371, R300, R320, R139)
  | loadRequest (f : Frame)
  | loadAnswer (f : Frame)
  | storeFrame (f : Frame)
  | atomicFrame (f : Frame)
  | atomicAnswer (f : Frame)
  | streamAcknowledgement (f : Frame)
  | resendRequest (f : Frame)
  | mldrRead (f : Frame)
  | mldrAnswer (f : Frame)
  | graphTransfer (f : Frame)
  | migrationHandOver (f : Frame)
  | domainBarrierReport (f : Frame)
  | ackTimer (src : BitVec 16) (core : BitVec 16)
  | streamResend (core : Nat) (dev : BitVec 16)
  | streamLost (core : Nat) (dev : BitVec 16)
  | remoteLoadTimeout (tag : Nat)
  | mldrRankTimeout (tag rank : Nat)
  | cpycOwnershipTimeout (core : Nat)
  | gsendTimeout (tag : Nat)
  | intakePauseExpiry (index : Nat)
  -- steps of the routers and links (R383, R385 to R393)
  | frameRoute (port lane : Nat) (arrival : Option Arrival)
  | nak (link : Nat) (seq : BitVec 12)
  | nakRepeat (link : Nat)
  | linkRetrainRetry (link : Nat) (trained : Bool)
  | joinRecord (link : Nat) (rec : JoinData)
  | laserFeedLost (braid feed : Nat)
  | restripeMarker (braid : Nat) (live : BitVec 4)
  | deadlockSuspect (port lane : Nat)
  | recoveryToken (gen : Nat) (tmo : Nat)
  | tokenReissue
  -- the host and the management complex (R65, R66, R202, R349 to R357, R373, R385)
  | sphead (port : Nat) (head : Word)
  | spctlPark (port : Nat)
  | spctlHold (port : Nat) (hold : Bool)
  | fencectlFence (unit : Nat)
  | fencectlDrain (unit : Nat)
  | fencectlReturn (unit : Nat)
  | drainComplete (unit : Nat)
  | featlock
  | fwctlOpen
  | fwctlAct (len : BitVec 32) (commit : Bool)
  | firmwareActivationEnd
  | snaptrig
  | snapshotLatch
  | powerGood
  | patrolScrub (line : Nat)
  | hostWrite (pa : Nat) (data : List Byte)
  | hostRead (pa : Nat) (bytes : Nat)
  | registerWrite (off : Nat) (value : Word)
  | recalibrationComplete (unit : Nat)
  | pcieCompletion (tag : Nat) (answer : PcieAnswer)
  | idleFlit (link : Nat) (ctl : FlitControl)
  deriving DecidableEq, Repr

end Sys2Proof
end

