-- ==== Sys2Proof/Machine/Fields.lean ====
section
/-! DEFINITION. The encoding tables: field codes (R90, R93 to R98), the layouts of forms A, I, M, MA, B and X (R85 to
R91), each instruction's own form with its fields (R101 and the Encoding line of its entry), the class of each register
field (R99), and what each entry accepts. -/

namespace Sys2Proof

/-! ## Field codes -/

/-- TYPE (R93). -/
def ElemType.code : ElemType → BitVec 4
  | .i8 => 0 | .i16 => 1 | .i32 => 2 | .i64 => 3 | .n8 => 4 | .n16 => 5 | .n32 => 6 | .n64 => 7
  | .f32 => 8 | .f16 => 9 | .bf16 => 10 | .e4m3 => 11 | .e5m2 => 12 | .e2m1 => 13 | .e8m0 => 14 | .untyped => 15

/-- The type a TYPE code names (R93). -/
def ElemType.ofCode (c : BitVec 4) : ElemType :=
  match c.toNat with
  | 0 => .i8 | 1 => .i16 | 2 => .i32 | 3 => .i64 | 4 => .n8 | 5 => .n16 | 6 => .n32 | 7 => .n64
  | 8 => .f32 | 9 => .f16 | 10 => .bf16 | 11 => .e4m3 | 12 => .e5m2 | 13 => .e2m1 | 14 => .e8m0 | _ => .untyped

/-- Bits of one element (R93); untyped vectors are governed by byte lanes (R164). -/
def ElemType.width : ElemType → Nat
  | .i8 | .n8 | .e4m3 | .e5m2 | .e8m0 | .untyped => 8
  | .i16 | .n16 | .f16 | .bf16 => 16
  | .i32 | .n32 | .f32 => 32
  | .i64 | .n64 => 64
  | .e2m1 => 4

/-- Bytes of one element of a type that memory instructions accept. -/
def ElemType.bytes (t : ElemType) : Nat := t.width / 8

/-- Elements of a 256-byte vector (R93). -/
def ElemType.lanes (t : ElemType) : Nat := 2048 / t.width

/-- TYPE 0 to 3 (R93). -/
def ElemType.signed : ElemType → Bool
  | .i8 | .i16 | .i32 | .i64 => true
  | _ => false

/-- TYPE 0 to 7 (R93). -/
def ElemType.isInt : ElemType → Bool
  | .i8 | .i16 | .i32 | .i64 | .n8 | .n16 | .n32 | .n64 => true
  | _ => false

/-- TYPE 8 to 10 (R93). -/
def ElemType.isFloat : ElemType → Bool
  | .f32 | .f16 | .bf16 => true
  | _ => false

/-- TYPE 0 to 12 or 14: what movement, memory and mask-count instructions accept (R164, R169 to R171). -/
def ElemType.movable : ElemType → Bool
  | .e2m1 | .untyped => false
  | _ => true

/-- TYPE 2 or 3 for the scalar families (R119). -/
def SWidth.code : SWidth → BitVec 4
  | .w32 => 2 | .w64 => 3
def SWidth.ofCode (c : BitVec 4) : Option SWidth :=
  match c.toNat with
  | 2 => some .w32 | 3 => some .w64 | _ => none
/-- The operand width in bits (R120). -/
def SWidth.bits : SWidth → Nat
  | .w32 => 32 | .w64 => 64

/-- TYPE of `li` (R124). -/
def LiKind.code : LiKind → BitVec 4
  | .i64 => 3 | .f32 => 8 | .f16 => 9 | .bf16 => 10
def LiKind.ofCode (c : BitVec 4) : Option LiKind :=
  match c.toNat with
  | 3 => some .i64 | 8 => some .f32 | 9 => some .f16 | 10 => some .bf16 | _ => none

/-- RND as a rounding mode (R94). -/
def Rounding.code : Rounding → BitVec 4
  | .rne => 0 | .rz => 1 | .rp => 2 | .rm => 3 | .rna => 4 | .rs => 5 | .ro => 6
def Rounding.ofCode (c : BitVec 4) : Option Rounding :=
  match c.toNat with
  | 0 => some .rne | 1 => some .rz | 2 => some .rp | 3 => some .rm | 4 => some .rna | 5 => some .rs | 6 => some .ro
  | _ => none

/-- Conditions of `cmp` and `cmpi` (R121). -/
def Cond.code : Cond → BitVec 3
  | .eq => 0 | .ne => 1 | .lt => 2 | .ge => 3 | .ltn => 4 | .gen => 5
def Cond.ofCode (c : BitVec 3) : Option Cond :=
  match c.toNat with
  | 0 => some .eq | 1 => some .ne | 2 => some .lt | 3 => some .ge | 4 => some .ltn | 5 => some .gen | _ => none

/-- Conditions of `vcmp` and `vfcmp` (R167). -/
def VCond.code : VCond → BitVec 3
  | .eq => 0 | .ne => 1 | .lt => 2 | .ge => 3 | .le => 4 | .gt => 5 | .uo => 6 | .or => 7
def VCond.ofCode (c : BitVec 3) : VCond :=
  match c.toNat with
  | 0 => .eq | 1 => .ne | 2 => .lt | 3 => .ge | 4 => .le | 5 => .gt | 6 => .uo | _ => .or

/-- COND of `br` (R90). -/
def BrCond.code : BrCond → BitVec 3
  | .eqz => 1 | .nez => 2 | .ltz => 3 | .gez => 4 | .gtz => 5 | .lez => 6
def BrCond.ofCode (c : BitVec 3) : Option BrCond :=
  match c.toNat with
  | 1 => some .eqz | 2 => some .nez | 3 => some .ltz | 4 => some .gez | 5 => some .gtz | 6 => some .lez | _ => none

/-- ORD (R95). -/
def MemOrd.code : MemOrd → BitVec 2
  | .rlx => 0 | .acq => 1 | .rel => 2 | .sc => 3
def MemOrd.ofCode (c : BitVec 2) : MemOrd :=
  match c.toNat with
  | 0 => .rlx | 1 => .acq | 2 => .rel | _ => .sc

/-- SCOPE (R96). -/
def Scope.code : Scope → BitVec 3
  | .thr => 0 | .gang => 1 | .die => 2 | .dev => 3 | .grp => 4 | .sys => 5
def Scope.ofCode (c : BitVec 3) : Option Scope :=
  match c.toNat with
  | 0 => some .thr | 1 => some .gang | 2 => some .die | 3 => some .dev | 4 => some .grp | 5 => some .sys | _ => none

/-- SPACE (R60, R98). -/
def Space.code : Space → BitVec 2
  | .glob => 0 | .sp => 1 | .cw => 2 | .cx => 3
def Space.ofCode (c : BitVec 2) : Space :=
  match c.toNat with
  | 0 => .glob | 1 => .sp | 2 => .cw | _ => .cx

/-- SRC of the MX conversions (R219, R220). -/
def SrcSel.code : SrcSel → BitVec 2
  | .s0 => 0 | .s1 => 1 | .s2 => 2
def SrcSel.ofCode (c : BitVec 2) : Option SrcSel :=
  match c.toNat with
  | 0 => some .s0 | 1 => some .s1 | 2 => some .s2 | _ => none
/-- The source type of `vcvtq` (R219). -/
def SrcSel.wide : SrcSel → ElemType
  | .s0 => .f32 | .s1 => .f16 | .s2 => .bf16
/-- The source type of `vcvtd` (R220). -/
def SrcSel.narrow : SrcSel → ElemType
  | .s0 => .e4m3 | .s1 => .e5m2 | .s2 => .e2m1

/-- Variants of `tlbi` (R148). -/
def TlbiKind.code : TlbiKind → BitVec 4
  | .range => 0 | .asid => 1 | .all => 2
def TlbiKind.ofCode (c : BitVec 4) : Option TlbiKind :=
  match c.toNat with
  | 0 => some .range | 1 => some .asid | 2 => some .all | _ => none

/-- Width field of `cfill` (R258). -/
def FillWidth.code : FillWidth → BitVec 2
  | .n8 => 0 | .n16 => 1 | .n32 => 2 | .n64 => 3
def FillWidth.ofCode (c : BitVec 2) : FillWidth :=
  match c.toNat with
  | 0 => .n8 | 1 => .n16 | 2 => .n32 | _ => .n64

/-- A mask register number as a 6-bit field, and read back from one (R99). -/
def KReg.field (k : KReg) : BitVec 6 := 0#3 ++ k
def KReg.ofField (f : BitVec 6) : KReg := f.extractLsb' 0 3

/-! ## Forms -/

/-- MAJOR, bits [63:56] (R85). -/
def majorOf (w : Word) : Nat := (w.extractLsb' 56 8).toNat
/-- MINOR, bits [55:51] (R85). -/
def minorOf (w : Word) : Nat := (w.extractLsb' 51 5).toNat

/-- Form A (R86). -/
structure FormA where
  d : BitVec 6
  a : BitVec 6
  b : BitVec 6
  c : BitVec 6
  k : BitVec 3
  ty : BitVec 4
  rnd : BitVec 4
  deriving DecidableEq, Repr

/-- Form I (R87). -/
structure FormI where
  d : BitVec 6
  a : BitVec 6
  ty : BitVec 4
  k : BitVec 3
  imm : BitVec 32
  deriving DecidableEq, Repr

/-- Form M (R88). -/
structure FormM where
  d : BitVec 6
  a : BitVec 6
  b : BitVec 6
  ord : BitVec 2
  scope : BitVec 3
  evict : BitVec 3
  k : BitVec 3
  space : BitVec 2
  ty : BitVec 4
  off : BitVec 16
  deriving DecidableEq, Repr

/-- Form MA (R89). -/
structure FormMA where
  d : BitVec 6
  a : BitVec 6
  b : BitVec 6
  ord : BitVec 2
  scope : BitVec 3
  evict : BitVec 3
  space : BitVec 2
  ty : BitVec 4
  c : BitVec 6
  nr : Bool
  deriving DecidableEq, Repr

/-- Form B (R90). -/
structure FormB where
  d : BitVec 6
  a : BitVec 6
  cond : BitVec 3
  off : BitVec 33
  deriving DecidableEq, Repr

/-- Form X (R91). -/
structure FormX where
  d : BitVec 6
  a : BitVec 6
  b : BitVec 6
  c : BitVec 6
  cmd : BitVec 24
  deriving DecidableEq, Repr

def unpackA (w : Word) : FormA :=
  { d := w.extractLsb' 45 6, a := w.extractLsb' 39 6, b := w.extractLsb' 33 6, c := w.extractLsb' 27 6,
    k := w.extractLsb' 24 3, ty := w.extractLsb' 20 4, rnd := w.extractLsb' 16 4 }
def unpackI (w : Word) : FormI :=
  { d := w.extractLsb' 45 6, a := w.extractLsb' 39 6, ty := w.extractLsb' 35 4, k := w.extractLsb' 32 3,
    imm := w.extractLsb' 0 32 }
def unpackM (w : Word) : FormM :=
  { d := w.extractLsb' 45 6, a := w.extractLsb' 39 6, b := w.extractLsb' 33 6, ord := w.extractLsb' 31 2,
    scope := w.extractLsb' 28 3, evict := w.extractLsb' 25 3, k := w.extractLsb' 22 3, space := w.extractLsb' 20 2,
    ty := w.extractLsb' 16 4, off := w.extractLsb' 0 16 }
def unpackMA (w : Word) : FormMA :=
  { d := w.extractLsb' 45 6, a := w.extractLsb' 39 6, b := w.extractLsb' 33 6, ord := w.extractLsb' 31 2,
    scope := w.extractLsb' 28 3, evict := w.extractLsb' 25 3, space := w.extractLsb' 20 2, ty := w.extractLsb' 16 4,
    c := w.extractLsb' 10 6, nr := w.getLsbD 9 }
def unpackB (w : Word) : FormB :=
  { d := w.extractLsb' 45 6, a := w.extractLsb' 39 6, cond := w.extractLsb' 36 3, off := w.extractLsb' 0 33 }
def unpackX (w : Word) : FormX :=
  { d := w.extractLsb' 45 6, a := w.extractLsb' 39 6, b := w.extractLsb' 33 6, c := w.extractLsb' 27 6,
    cmd := w.extractLsb' 0 24 }

/-- The memory operand that a form M word carries; none for a SCOPE of 6 or 7. -/
def FormM.memOp (f : FormM) : Option MemOp := do
  let scope ← Scope.ofCode f.scope
  some { base := f.a, index := f.b, off := f.off, ord := MemOrd.ofCode f.ord, scope := scope, evict := f.evict,
         space := Space.ofCode f.space }

/-- The operands that a form MA word carries; none for a SCOPE of 6 or 7. -/
def FormMA.atomOp (f : FormMA) : Option AtomOp := do
  let scope ← Scope.ofCode f.scope
  some { ty := ElemType.ofCode f.ty, dst := f.d, addr := f.a, src := f.b, ord := MemOrd.ofCode f.ord, scope := scope,
         evict := f.evict, space := Space.ofCode f.space, nr := f.nr }

/-- An instruction's word as its form lays it out: MAJOR, MINOR and the form's fields. -/
inductive Form where
  | a (major minor : Nat) (f : FormA)
  | i (major minor : Nat) (f : FormI)
  | m (major minor : Nat) (f : FormM)
  | ma (major minor : Nat) (f : FormMA)
  | b (major minor : Nat) (f : FormB)
  | x (major minor : Nat) (f : FormX)
  | hint (bits : BitVec 60)
  deriving DecidableEq, Repr

/-- The word of a form (R85 to R91); every bit that the form names no field for is 0 (R102). -/
def Form.pack : Form → Word
  | .a maj mnr f => BitVec.ofNat 8 maj ++ BitVec.ofNat 5 mnr ++ f.d ++ f.a ++ f.b ++ f.c ++ f.k ++ f.ty ++ f.rnd ++ 0#16
  | .i maj mnr f => BitVec.ofNat 8 maj ++ BitVec.ofNat 5 mnr ++ f.d ++ f.a ++ f.ty ++ f.k ++ f.imm
  | .m maj mnr f => BitVec.ofNat 8 maj ++ BitVec.ofNat 5 mnr ++ f.d ++ f.a ++ f.b ++ f.ord ++ f.scope ++ f.evict ++ f.k
      ++ f.space ++ f.ty ++ f.off
  | .ma maj mnr f => BitVec.ofNat 8 maj ++ BitVec.ofNat 5 mnr ++ f.d ++ f.a ++ f.b ++ f.ord ++ f.scope ++ f.evict ++ 0#3
      ++ f.space ++ f.ty ++ f.c ++ BitVec.ofBool f.nr ++ 0#9
  | .b maj mnr f => BitVec.ofNat 8 maj ++ BitVec.ofNat 5 mnr ++ f.d ++ f.a ++ f.cond ++ 0#3 ++ f.off
  | .x maj mnr f => BitVec.ofNat 8 maj ++ BitVec.ofNat 5 mnr ++ f.d ++ f.a ++ f.b ++ f.c ++ 0#3 ++ f.cmd
  | .hint bits => 0xE#4 ++ bits

def formA (maj mnr : Nat) (d a b c : BitVec 6) (k : BitVec 3) (ty rnd : BitVec 4) : Form := .a maj mnr ⟨d, a, b, c, k, ty, rnd⟩
def formI (maj mnr : Nat) (d a : BitVec 6) (ty : BitVec 4) (k : BitVec 3) (imm : BitVec 32) : Form :=
  .i maj mnr ⟨d, a, ty, k, imm⟩
def formB (maj mnr : Nat) (d a : BitVec 6) (cond : BitVec 3) (off : BitVec 33) : Form := .b maj mnr ⟨d, a, cond, off⟩
def formX (maj mnr : Nat) (d a b c : BitVec 6) (cmd : BitVec 24) : Form := .x maj mnr ⟨d, a, b, c, cmd⟩
def formM (maj mnr : Nat) (ty : BitVec 4) (d : BitVec 6) (k : BitVec 3) (m : MemOp) : Form :=
  .m maj mnr ⟨d, m.base, m.index, m.ord.code, m.scope.code, m.evict, k, m.space.code, ty, m.off⟩
/-- An atomic's form; with NR the D field is 0 (R89). -/
def formMA (mnr : Nat) (o : AtomOp) (c : BitVec 6) : Form :=
  .ma 0x50 mnr ⟨o.dst, o.addr, o.src, o.ord.code, o.scope.code, o.evict, o.space.code, o.ty.code, c, o.nr⟩

/-- A sub-field of CMD that starts at bit `o`. -/
def cmdAt {n : Nat} (x : BitVec n) (o : Nat) : BitVec 24 := x.zeroExtend 24 <<< o
/-- A one-bit variant in RND bit 0 (R164). -/
def bit3 (b : Bool) : BitVec 3 := 0#2 ++ BitVec.ofBool b
/-- RND of `vscan`: a rounding mode for floats, Z for integers (R155, R166). -/
def scanRnd (ty : ElemType) (r : Rounding) (z : Bool) : BitVec 4 :=
  if ty.isFloat then r.code else BitVec.ofBool z ++ 0#3
def scanRounding (ty : ElemType) (rnd : BitVec 4) : Option Rounding :=
  if ty.isFloat then Rounding.ofCode rnd else some .rne
def scanZ (ty : ElemType) (rnd : BitVec 4) : Bool := if ty.isFloat then false else rnd.getLsbD 3

/-- The form and fields of each instruction (R101, and the Encoding line of each entry). An event of the device, and a
prefixed group, has none of its own. -/
def Instr.form : Instr → Option Form
  | .add w d a b => some (formA 0x10 0 d a b 0 0 w.code 0)
  | .sub w d a b => some (formA 0x10 1 d a b 0 0 w.code 0)
  | .mul w d a b => some (formA 0x10 2 d a b 0 0 w.code 0)
  | .mulh w d a b => some (formA 0x10 3 d a b 0 0 w.code 0)
  | .mulhn w d a b => some (formA 0x10 4 d a b 0 0 w.code 0)
  | .div w d a b => some (formA 0x10 5 d a b 0 0 w.code 0)
  | .divn w d a b => some (formA 0x10 6 d a b 0 0 w.code 0)
  | .rem w d a b => some (formA 0x10 7 d a b 0 0 w.code 0)
  | .remn w d a b => some (formA 0x10 8 d a b 0 0 w.code 0)
  | .and w d a b => some (formA 0x10 9 d a b 0 0 w.code 0)
  | .or w d a b => some (formA 0x10 10 d a b 0 0 w.code 0)
  | .xor w d a b => some (formA 0x10 11 d a b 0 0 w.code 0)
  | .andn w d a b => some (formA 0x10 12 d a b 0 0 w.code 0)
  | .shl w d a b => some (formA 0x10 13 d a b 0 0 w.code 0)
  | .shr w d a b => some (formA 0x10 14 d a b 0 0 w.code 0)
  | .sar w d a b => some (formA 0x10 15 d a b 0 0 w.code 0)
  | .rol w d a b => some (formA 0x10 16 d a b 0 0 w.code 0)
  | .min w d a b => some (formA 0x10 17 d a b 0 0 w.code 0)
  | .max w d a b => some (formA 0x10 18 d a b 0 0 w.code 0)
  | .minn w d a b => some (formA 0x10 19 d a b 0 0 w.code 0)
  | .maxn w d a b => some (formA 0x10 20 d a b 0 0 w.code 0)
  | .clz w d a => some (formA 0x10 21 d a 0 0 0 w.code 0)
  | .ctz w d a => some (formA 0x10 22 d a 0 0 0 w.code 0)
  | .pop w d a => some (formA 0x10 23 d a 0 0 0 w.code 0)
  | .sel w d a b c => some (formA 0x10 24 d a b c 0 w.code 0)
  | .cmp w cond d a b => some (formA 0x10 25 d a b 0 0 w.code (0#1 ++ cond.code))
  | .li kind d imm => some (formI 0x11 0 d 0 kind.code 0 imm)
  | .lih d a imm => some (formI 0x11 1 d a 3 0 imm)
  | .addi w d a imm => some (formI 0x11 2 d a w.code 0 imm)
  | .andi w d a imm => some (formI 0x11 3 d a w.code 0 imm)
  | .ori w d a imm => some (formI 0x11 4 d a w.code 0 imm)
  | .xori w d a imm => some (formI 0x11 5 d a w.code 0 imm)
  | .shli w d a imm => some (formI 0x11 6 d a w.code 0 imm)
  | .shri w d a imm => some (formI 0x11 7 d a w.code 0 imm)
  | .sari w d a imm => some (formI 0x11 8 d a w.code 0 imm)
  | .cmpi w cond d a imm => some (formI 0x11 9 d a w.code cond.code imm)
  | .adr d imm => some (formI 0x11 10 d 0 3 0 imm)
  | .vadd ty z k d a b => some (formA 0x20 0 d a b 0 k ty.code (BitVec.ofBool z ++ (0#3 : BitVec 3)))
  | .vsub ty z k d a b => some (formA 0x20 1 d a b 0 k ty.code (BitVec.ofBool z ++ (0#3 : BitVec 3)))
  | .vmul ty z k d a b => some (formA 0x20 2 d a b 0 k ty.code (BitVec.ofBool z ++ (0#3 : BitVec 3)))
  | .vmulh ty z k d a b => some (formA 0x20 3 d a b 0 k ty.code (BitVec.ofBool z ++ (0#3 : BitVec 3)))
  | .vand ty z k d a b => some (formA 0x20 4 d a b 0 k ty.code (BitVec.ofBool z ++ (0#3 : BitVec 3)))
  | .vor ty z k d a b => some (formA 0x20 5 d a b 0 k ty.code (BitVec.ofBool z ++ (0#3 : BitVec 3)))
  | .vxor ty z k d a b => some (formA 0x20 6 d a b 0 k ty.code (BitVec.ofBool z ++ (0#3 : BitVec 3)))
  | .vandn ty z k d a b => some (formA 0x20 7 d a b 0 k ty.code (BitVec.ofBool z ++ (0#3 : BitVec 3)))
  | .vshl ty z k d a b => some (formA 0x20 8 d a b 0 k ty.code (BitVec.ofBool z ++ (0#3 : BitVec 3)))
  | .vshr ty z k d a b => some (formA 0x20 9 d a b 0 k ty.code (BitVec.ofBool z ++ (0#3 : BitVec 3)))
  | .vsar ty z k d a b => some (formA 0x20 10 d a b 0 k ty.code (BitVec.ofBool z ++ (0#3 : BitVec 3)))
  | .vmin ty z k d a b => some (formA 0x20 11 d a b 0 k ty.code (BitVec.ofBool z ++ (0#3 : BitVec 3)))
  | .vmax ty z k d a b => some (formA 0x20 12 d a b 0 k ty.code (BitVec.ofBool z ++ (0#3 : BitVec 3)))
  | .vabs ty z k d a => some (formA 0x20 13 d a 0 0 k ty.code (BitVec.ofBool z ++ (0#3 : BitVec 3)))
  | .vneg ty z k d a => some (formA 0x20 14 d a 0 0 k ty.code (BitVec.ofBool z ++ (0#3 : BitVec 3)))
  | .vadds ty z k d a b => some (formA 0x20 15 d a b 0 k ty.code (BitVec.ofBool z ++ (0#3 : BitVec 3)))
  | .vsubs ty z k d a b => some (formA 0x20 16 d a b 0 k ty.code (BitVec.ofBool z ++ (0#3 : BitVec 3)))
  | .vfadd ty r k d a b => some (formA 0x21 0 d a b 0 k ty.code r.code)
  | .vfsub ty r k d a b => some (formA 0x21 1 d a b 0 k ty.code r.code)
  | .vfmul ty r k d a b => some (formA 0x21 2 d a b 0 k ty.code r.code)
  | .vfma ty r k d a b c => some (formA 0x21 3 d a b c k ty.code r.code)
  | .vfms ty r k d a b c => some (formA 0x21 4 d a b c k ty.code r.code)
  | .vfnma ty r k d a b c => some (formA 0x21 5 d a b c k ty.code r.code)
  | .vfmin ty r k d a b => some (formA 0x21 6 d a b 0 k ty.code r.code)
  | .vfmax ty r k d a b => some (formA 0x21 7 d a b 0 k ty.code r.code)
  | .vfabs ty k d a => some (formA 0x21 8 d a 0 0 k ty.code 0)
  | .vfneg ty k d a => some (formA 0x21 9 d a 0 0 k ty.code 0)
  | .vfdiv ty r k d a b => some (formA 0x21 10 d a b 0 k ty.code r.code)
  | .vfsqrt ty r k d a => some (formA 0x21 11 d a 0 0 k ty.code r.code)
  | .vfrcp ty r k d a => some (formA 0x21 12 d a 0 0 k ty.code r.code)
  | .vfrsq ty r k d a => some (formA 0x21 13 d a 0 0 k ty.code r.code)
  | .vfexp2 ty r k d a => some (formA 0x21 14 d a 0 0 k ty.code r.code)
  | .vflog2 ty r k d a => some (formA 0x21 15 d a 0 0 k ty.code r.code)
  | .vfscale ty r k d a b => some (formA 0x21 16 d a b 0 k ty.code r.code)
  | .vmov z k d a => some (formA 0x22 0 d a 0 0 k 15 (BitVec.ofBool z ++ (0#3 : BitVec 3)))
  | .vbcast ty z k d a => some (formA 0x22 1 d a 0 0 k ty.code (BitVec.ofBool z ++ (0#3 : BitVec 3)))
  | .vins ty z k d a b => some (formA 0x22 2 d a b 0 k ty.code (BitVec.ofBool z ++ (0#3 : BitVec 3)))
  | .vext ty d a b => some (formA 0x22 3 d a b 0 0 ty.code 0)
  | .vperm ty z k d a b => some (formA 0x22 4 d a b 0 k ty.code (BitVec.ofBool z ++ (0#3 : BitVec 3)))
  | .vslide ty z k d a b => some (formA 0x22 5 d a b 0 k ty.code (BitVec.ofBool z ++ (0#3 : BitVec 3)))
  | .vzip ty z h k d a b => some (formA 0x22 6 d a b 0 k ty.code (BitVec.ofBool z ++ (bit3 h : BitVec 3)))
  | .vunzip ty z h k d a b => some (formA 0x22 7 d a b 0 k ty.code (BitVec.ofBool z ++ (bit3 h : BitVec 3)))
  | .vsel ty z k d a b c => some (formA 0x22 8 d a b (KReg.field c) k ty.code (BitVec.ofBool z ++ (0#3 : BitVec 3)))
  | .vcomp ty z k d a => some (formA 0x22 9 d a 0 0 k ty.code (BitVec.ofBool z ++ (0#3 : BitVec 3)))
  | .vexpd ty z k d a => some (formA 0x22 10 d a 0 0 k ty.code (BitVec.ofBool z ++ (0#3 : BitVec 3)))
  | .vredsum ty r k d a => some (formA 0x22 11 d a 0 0 k ty.code r.code)
  | .vredmax ty k d a => some (formA 0x22 12 d a 0 0 k ty.code 0)
  | .vredmin ty k d a => some (formA 0x22 13 d a 0 0 k ty.code 0)
  | .vscan ty r z k d a => some (formA 0x22 14 d a 0 0 k ty.code (scanRnd ty r z))
  | .vcmp ty cond z k d a b => some (formA 0x23 0 (KReg.field d) a b 0 k ty.code (BitVec.ofBool z ++ (cond.code : BitVec 3)))
  | .vfcmp ty cond z k d a b => some (formA 0x23 1 (KReg.field d) a b 0 k ty.code (BitVec.ofBool z ++ (cond.code : BitVec 3)))
  | .vfclass ty z k d a b => some (formA 0x23 2 (KReg.field d) a b 0 k ty.code (BitVec.ofBool z ++ (0#3 : BitVec 3)))
  | .kand d a b => some (formA 0x23 3 (KReg.field d) (KReg.field a) (KReg.field b) 0 0 15 0)
  | .kor d a b => some (formA 0x23 4 (KReg.field d) (KReg.field a) (KReg.field b) 0 0 15 0)
  | .kxor d a b => some (formA 0x23 5 (KReg.field d) (KReg.field a) (KReg.field b) 0 0 15 0)
  | .knot d a => some (formA 0x23 6 (KReg.field d) (KReg.field a) 0 0 0 15 0)
  | .kmov d a => some (formA 0x23 7 (KReg.field d) (KReg.field a) 0 0 0 15 0)
  | .kpop ty d a => some (formA 0x23 8 d (KReg.field a) 0 0 0 ty.code 0)
  | .kfirst ty d a => some (formA 0x23 9 d (KReg.field a) 0 0 0 ty.code 0)
  | .kset ty d a => some (formA 0x23 10 (KReg.field d) a 0 0 0 ty.code 0)
  | .kget d a b => some (formA 0x23 11 d (KReg.field a) b 0 0 15 0)
  | .vcvt ty ts r nsat part k d a => some (formA 0x24 0 d a (0#2 ++ ts.code) ((0#2 : BitVec 2) ++ BitVec.ofBool nsat ++ part) k ty.code r.code)
  | .vcvtq ty src r nsat part k d a b => some (formA 0x24 1 d a b ((src.code : BitVec 2) ++ BitVec.ofBool nsat ++ part) k ty.code r.code)
  | .vcvtd ty src r part k d a b => some (formA 0x24 2 d a b ((src.code : BitVec 2) ++ BitVec.ofBool false ++ part) k ty.code r.code)
  | .vpack ty k d a b => some (formA 0x24 3 d a b 0 k ty.code 0)
  | .vunpack ty part k d a => some (formA 0x24 4 d a 0 ((0#2 : BitVec 2) ++ BitVec.ofBool false ++ part) k ty.code 0)
  | .ld ty m d => some (formM 0x40 0 ty.code d 0 m)
  | .st ty m d => some (formM 0x40 1 ty.code d 0 m)
  | .vld ty m k d => some (formM 0x41 0 ty.code d k m)
  | .vst ty m k d => some (formM 0x41 1 ty.code d k m)
  | .vlds ty m k d => some (formM 0x41 2 ty.code d k m)
  | .vsts ty m k d => some (formM 0x41 3 ty.code d k m)
  | .vgat ty m k d => some (formM 0x41 4 ty.code d k m)
  | .vsca ty m k d => some (formM 0x41 5 ty.code d k m)
  | .vldb ty m k d => some (formM 0x41 6 ty.code d k m)
  | .pf m => some (formM 0x42 0 15 0 0 m)
  | .cwb m d => some (formM 0x42 1 15 d 0 m)
  | .cinv m d => some (formM 0x42 2 15 d 0 m)
  | .czero m d => some (formM 0x42 3 15 d 0 m)
  | .qstat d => some (formA 0x42 4 d 0 0 0 0 15 0)
  | .aadd o => some (formMA 0 o 0)
  | .aand o => some (formMA 1 o 0)
  | .aor o => some (formMA 2 o 0)
  | .axor o => some (formMA 3 o 0)
  | .amin o => some (formMA 4 o 0)
  | .amax o => some (formMA 5 o 0)
  | .aminn o => some (formMA 6 o 0)
  | .amaxn o => some (formMA 7 o 0)
  | .aswp o => some (formMA 8 o 0)
  | .acas o c => some (formMA 9 o c)
  | .ainc o => some (formMA 10 o 0)
  | .adec o => some (formMA 11 o 0)
  | .afadd o => some (formMA 12 o 0)
  | .afmin o => some (formMA 13 o 0)
  | .afmax o => some (formMA 14 o 0)
  | .fence ord scope => some (.m 0x51 0 ⟨0, 0, 0, ord.code, scope.code, 0, 0, 0, 15, 0⟩)
  | .binit m d => some (formM 0x51 1 15 d 0 m)
  | .bar m d => some (formM 0x51 2 15 d 0 m)
  | .bara m d => some (formM 0x51 3 15 d 0 m)
  | .barw m d => some (formM 0x51 4 15 d 0 m)
  | .bstat m d => some (formM 0x51 5 15 d 0 m)
  | .bra off => some (formB 0x60 0 0 0 0 off)
  | .br cond a off => some (formB 0x60 1 0 a cond.code off)
  | .brany a off => some (formB 0x60 2 0 (KReg.field a) 0 off)
  | .brall a off => some (formB 0x60 3 0 (KReg.field a) 0 off)
  | .jr a => some (formA 0x60 4 0 a 0 0 0 15 0)
  | .call d off => some (formB 0x60 5 d 0 0 off)
  | .callr d a => some (formA 0x60 6 d a 0 0 0 15 0)
  | .ret a => some (formA 0x60 7 0 a 0 0 0 15 0)
  | .brk imm => some (formI 0x60 8 0 0 15 0 imm)
  | .trap imm => some (formI 0x60 9 0 0 15 0 imm)
  | .spawn d a port => some (formX 0x70 0 d a 0 0 (port.zeroExtend 24))
  | .yield => some (formA 0x70 1 0 0 0 0 0 15 0)
  | .retire => some (formA 0x70 2 0 0 0 0 0 15 0)
  | .wait all count d a b => some (formA 0x70 3 d a b 0 0 15 (BitVec.ofBool all ++ (count : BitVec 3)))
  | .gbar => some (formA 0x70 4 0 0 0 0 0 15 0)
  | .dbar imm => some (formI 0x70 5 0 0 15 0 imm)
  | .elect d => some (formA 0x70 6 d 0 0 0 0 15 0)
  | .gget d a b => some (formA 0x70 7 d a b 0 0 15 0)
  | .gput d a b => some (formA 0x70 8 d a b 0 0 15 0)
  | .tnow d => some (formA 0x70 9 d 0 0 0 0 15 0)
  | .mxcmd d a => some (formX 0x80 0 d a 0 0 0)
  | .mxgeom a b c => some (formA 0x80 1 0 a b c 0 15 0)
  | .mxsub d => some (formA 0x80 2 d 0 0 0 0 15 0)
  | .mxstat d => some (formA 0x80 3 d 0 0 0 0 15 0)
  | .mxflag d => some (formA 0x80 4 d 0 0 0 0 15 0)
  | .cpy d a b c dsp ssp evict f => some (formX 0x88 0 d a b c (cmdAt dsp.code 0 ||| cmdAt ssp.code 2 ||| cmdAt evict 4 ||| cmdAt (BitVec.ofBool f) 7))
  | .cpy2d d a b c dsp ssp evict f => some (formX 0x88 1 d a b c (cmdAt dsp.code 0 ||| cmdAt ssp.code 2 ||| cmdAt evict 4 ||| cmdAt (BitVec.ofBool f) 7))
  | .cpyc d a n => some (formX 0x88 2 d a 0 0 (cmdAt n 0))
  | .cmcast d a b mask evict => some (formX 0x88 3 d a b 0 (cmdAt mask 0 ||| cmdAt evict 8))
  | .cfill d a b c dsp width evict f => some (formX 0x88 4 d a b c (cmdAt dsp.code 0 ||| cmdAt width.code 2 ||| cmdAt evict 4 ||| cmdAt (BitVec.ofBool f) 7))
  | .stash d a b c n => some (formX 0x88 5 d a b c (cmdAt n 0))
  | .resto d a b c n f32 => some (formX 0x88 6 d a b c (cmdAt n 0 ||| cmdAt (BitVec.ofBool f32) 16))
  | .xpand d a resume => some (formX 0x88 7 d a 0 0 (cmdAt (BitVec.ofBool resume) 0))
  | .gcopy d a b c nreg o => some (formX 0x90 0 d a b c (cmdAt nreg 8 ||| cmdAt o.preg 0 ||| cmdAt (BitVec.ofBool o.st) 6 ||| cmdAt (BitVec.ofBool o.prog) 7))
  | .gsend d a b c o => some (formX 0x90 1 d a b c (cmdAt o.preg 0 ||| cmdAt (BitVec.ofBool o.st) 6 ||| cmdAt (BitVec.ofBool o.prog) 7))
  | .gcmp d a b c o => some (formX 0x90 2 d a b c (cmdAt o.preg 0 ||| cmdAt (BitVec.ofBool o.st) 6 ||| cmdAt (BitVec.ofBool o.prog) 7))
  | .ghash d a b c o => some (formX 0x90 3 d a b c (cmdAt o.preg 0 ||| cmdAt (BitVec.ofBool o.st) 6 ||| cmdAt (BitVec.ofBool o.prog) 7))
  | .gfree d a b c nreg o => some (formX 0x90 4 d a b c (cmdAt nreg 8 ||| cmdAt o.preg 0 ||| cmdAt (BitVec.ofBool o.st) 6 ||| cmdAt (BitVec.ofBool o.prog) 7))
  | .gcount d a b nreg o => some (formX 0x90 5 d a b 0 (cmdAt nreg 8 ||| cmdAt o.preg 0 ||| cmdAt (BitVec.ofBool o.st) 6 ||| cmdAt (BitVec.ofBool o.prog) 7))
  | .gintake d a index mbox => some (formX 0x90 6 d a 0 0 (cmdAt index 0 ||| cmdAt mbox 6))
  | .gtype d a b => some (formX 0x90 7 d a b 0 0)
  | .rfence d => some (formA 0xA0 0 d 0 0 0 0 15 0)
  | .rstat d a => some (formA 0xA0 1 d a 0 0 0 15 0)
  | .mldr d a b c group => some (formX 0xA0 2 d a b c (cmdAt group 0))
  | .mst d a b c group sectors f => some (formX 0xA0 3 d a b c (cmdAt group 0 ||| cmdAt sectors 8 ||| cmdAt (BitVec.ofBool f) 15))
  | .agrd d a b => some (formA 0xA0 4 d a b 0 0 15 0)
  | .mfsr d imm => some (formI 0xB0 0 d 0 15 0 imm)
  | .mtsr a imm => some (formI 0xB0 1 0 a 15 0 imm)
  | .tlbi kind a b => some (formA 0xB0 2 0 a b 0 0 15 kind.code)
  | .tlbsync => some (formA 0xB0 3 0 0 0 0 0 15 0)
  | .pgmig d a b => some (formX 0xB0 4 d a b 0 0)
  | .spsplit a => some (formA 0xB0 5 0 a 0 0 0 15 0)
  | .thalt d a => some (formA 0xB0 6 d a 0 0 0 15 0)
  | .tresume d a => some (formA 0xB0 7 d a 0 0 0 15 0)
  | .trapret => some (formA 0xB0 8 0 0 0 0 0 15 0)
  | .snap d => some (formA 0xB0 9 d 0 0 0 0 15 0)
  | .bset m d => some (formM 0xB0 10 15 d 0 m)
  | .agset d a b => some (formA 0xB0 11 d a b 0 0 15 0)
  | .nop bits => some (.hint bits)
  | .uni _ | .rep _ _ _ _ _ _ | .imx _ _
  | .uniPosting _ _ | .mma _ | .mmaz _ | .mmas _ | .bload _ | .cstore _ | .matrixCzero _ | .engineUnit _
  | .matrixCommandStart _ | .deferredContextWrite _ | .cardOwnershipWatch _ | .portCardConsume _ | .gangPlace
  | .timeSlice _ | .priorityAging _ _ | .clusterReservation | .preemption | .idleGangPark | .gangParkComplete _ _
  | .retirementEffect _ | .waitTimeout _ | .trapNotice _ | .walkFill _ | .migrationComplete _ | .loadRequest _
  | .loadAnswer _ | .storeFrame _ | .atomicFrame _ | .atomicAnswer _ | .streamAcknowledgement _ | .resendRequest _
  | .mldrRead _ | .mldrAnswer _ | .graphTransfer _ | .migrationHandOver _ | .domainBarrierReport _ | .ackTimer _ _
  | .streamResend _ _ | .streamLost _ _ | .remoteLoadTimeout _ | .mldrRankTimeout _ _ | .cpycOwnershipTimeout _
  | .gsendTimeout _ | .intakePauseExpiry _ | .frameRoute _ _ _ | .nak _ _ | .nakRepeat _ | .linkRetrainRetry _ _
  | .joinRecord _ _ | .laserFeedLost _ _ | .restripeMarker _ _ | .deadlockSuspect _ _ | .recoveryToken _ _
  | .tokenReissue | .sphead _ _ | .spctlPark _ | .spctlHold _ _ | .fencectlFence _ | .fencectlDrain _
  | .fencectlReturn _ | .drainComplete _ | .featlock | .fwctlOpen | .fwctlAct _ _ | .firmwareActivationEnd
  | .snaptrig | .snapshotLatch | .powerGood | .patrolScrub _ | .hostWrite _ _ | .hostRead _ _ | .registerWrite _ _
  | .recalibrationComplete _ | .pcieCompletion _ _ | .idleFlit _ _ => none

/-! ## Register classes -/

/-- What a register field holds (R99): nothing, a scalar, a vector v0 to v31, one that may also be `lq`, one that may
also be `sq`, a mask, a plain number (a mailbox, R142), or a code that is no register (R217). -/
inductive RClass where
  | unused | scalar | vec | vecIn | vecOut | mask | number | code
  deriving DecidableEq, Repr

/-- The classes of the fields D, A, B and C. -/
structure Slots where
  d : RClass
  a : RClass
  b : RClass
  c : RClass
  deriving DecidableEq, Repr

/-- The class that each entry gives its register fields. -/
def Instr.classes : Instr → Slots
  | .add _ _ _ _ | .sub _ _ _ _ | .mul _ _ _ _ | .mulh _ _ _ _ | .mulhn _ _ _ _ | .div _ _ _ _ | .divn _ _ _ _
  | .rem _ _ _ _ | .remn _ _ _ _ | .and _ _ _ _ | .or _ _ _ _ | .xor _ _ _ _ | .andn _ _ _ _ | .shl _ _ _ _
  | .shr _ _ _ _ | .sar _ _ _ _ | .rol _ _ _ _ | .min _ _ _ _ | .max _ _ _ _ | .minn _ _ _ _ | .maxn _ _ _ _
  | .cmp _ _ _ _ _ | .ld _ _ _ | .st _ _ _ | .aadd _ | .aand _ | .aor _ | .axor _ | .amin _ | .amax _ | .aminn _
  | .amaxn _ | .aswp _ | .ainc _ | .adec _ | .afadd _ | .afmin _ | .afmax _ | .binit _ _ | .bar _ _ | .bara _ _
  | .barw _ _ | .bstat _ _ | .gcount _ _ _ _ _ | .gtype _ _ _ | .agrd _ _ _ | .pgmig _ _ _ | .agset _ _ _ => ⟨.scalar, .scalar, .scalar, .unused⟩
  | .clz _ _ _ | .ctz _ _ _ | .pop _ _ _ | .lih _ _ _ | .addi _ _ _ _ | .andi _ _ _ _ | .ori _ _ _ _ | .xori _ _ _ _
  | .shli _ _ _ _ | .shri _ _ _ _ | .sari _ _ _ _ | .cmpi _ _ _ _ _ | .cwb _ _ | .cinv _ _ | .czero _ _ | .callr _ _
  | .spawn _ _ _ | .cpyc _ _ _ | .xpand _ _ _ | .gintake _ _ _ _ | .rstat _ _ | .thalt _ _ | .tresume _ _
  | .bset _ _ => ⟨.scalar, .scalar, .unused, .unused⟩
  | .sel _ _ _ _ _ | .acas _ _ | .cpy _ _ _ _ _ _ _ _ | .cfill _ _ _ _ _ _ _ _ | .stash _ _ _ _ _
  | .resto _ _ _ _ _ _ | .gcopy _ _ _ _ _ _ | .gsend _ _ _ _ _ | .gcmp _ _ _ _ _ | .gfree _ _ _ _ _ _ => ⟨.scalar, .scalar, .scalar, .scalar⟩
  | .li _ _ _ | .adr _ _ | .qstat _ | .call _ _ | .elect _ | .tnow _ | .mxstat _ | .mxflag _ | .rfence _ | .mfsr _ _
  | .snap _ => ⟨.scalar, .unused, .unused, .unused⟩
  | .vadd _ _ _ _ _ _ | .vsub _ _ _ _ _ _ | .vmul _ _ _ _ _ _ | .vmulh _ _ _ _ _ _ | .vand _ _ _ _ _ _
  | .vor _ _ _ _ _ _ | .vxor _ _ _ _ _ _ | .vandn _ _ _ _ _ _ | .vshl _ _ _ _ _ _ | .vshr _ _ _ _ _ _
  | .vsar _ _ _ _ _ _ | .vmin _ _ _ _ _ _ | .vmax _ _ _ _ _ _ | .vadds _ _ _ _ _ _ | .vsubs _ _ _ _ _ _
  | .vfadd _ _ _ _ _ _ | .vfsub _ _ _ _ _ _ | .vfmul _ _ _ _ _ _ | .vfmin _ _ _ _ _ _ | .vfmax _ _ _ _ _ _
  | .vfdiv _ _ _ _ _ _ | .vfscale _ _ _ _ _ _ | .vperm _ _ _ _ _ _ | .vzip _ _ _ _ _ _ _ | .vunzip _ _ _ _ _ _ _
  | .vpack _ _ _ _ _ => ⟨.vecOut, .vecIn, .vecIn, .unused⟩
  | .vabs _ _ _ _ _ | .vneg _ _ _ _ _ | .vfabs _ _ _ _ | .vfneg _ _ _ _ | .vfsqrt _ _ _ _ _ | .vfrcp _ _ _ _ _
  | .vfrsq _ _ _ _ _ | .vfexp2 _ _ _ _ _ | .vflog2 _ _ _ _ _ | .vmov _ _ _ _ | .vcomp _ _ _ _ _ | .vexpd _ _ _ _ _
  | .vscan _ _ _ _ _ _ => ⟨.vecOut, .vecIn, .unused, .unused⟩
  | .vfma _ _ _ _ _ _ _ | .vfms _ _ _ _ _ _ _ | .vfnma _ _ _ _ _ _ _ => ⟨.vecOut, .vecIn, .vecIn, .vecIn⟩
  | .vbcast _ _ _ _ _ => ⟨.vecOut, .scalar, .unused, .unused⟩
  | .vins _ _ _ _ _ _ | .vst _ _ _ _ | .vsts _ _ _ _ => ⟨.vecOut, .scalar, .scalar, .unused⟩
  | .vext _ _ _ _ => ⟨.scalar, .vecIn, .scalar, .unused⟩
  | .vslide _ _ _ _ _ _ => ⟨.vecOut, .vecIn, .scalar, .unused⟩
  | .vsel _ _ _ _ _ _ _ => ⟨.vecOut, .vecIn, .vecIn, .mask⟩
  | .vredsum _ _ _ _ _ | .vredmax _ _ _ _ | .vredmin _ _ _ _ => ⟨.scalar, .vecIn, .unused, .unused⟩
  | .vcmp _ _ _ _ _ _ _ | .vfcmp _ _ _ _ _ _ _ => ⟨.mask, .vecIn, .vecIn, .unused⟩
  | .vfclass _ _ _ _ _ _ => ⟨.mask, .vecIn, .scalar, .unused⟩
  | .kand _ _ _ | .kor _ _ _ | .kxor _ _ _ => ⟨.mask, .mask, .mask, .unused⟩
  | .knot _ _ | .kmov _ _ => ⟨.mask, .mask, .unused, .unused⟩
  | .kpop _ _ _ | .kfirst _ _ _ => ⟨.scalar, .mask, .unused, .unused⟩
  | .kset _ _ _ => ⟨.mask, .scalar, .unused, .unused⟩
  | .kget _ _ _ => ⟨.scalar, .mask, .scalar, .unused⟩
  | .vcvt _ _ _ _ _ _ _ _ => ⟨.vecOut, .vecIn, .code, .code⟩
  | .vcvtq _ _ _ _ _ _ _ _ _ | .vcvtd _ _ _ _ _ _ _ _ => ⟨.vecOut, .vecIn, .scalar, .code⟩
  | .vunpack _ _ _ _ _ => ⟨.vecOut, .vecIn, .unused, .code⟩
  | .vld _ _ _ _ | .vlds _ _ _ _ | .vldb _ _ _ _ => ⟨.vecIn, .scalar, .scalar, .unused⟩
  | .vgat _ _ _ _ => ⟨.vecIn, .scalar, .vec, .unused⟩
  | .vsca _ _ _ _ => ⟨.vecOut, .scalar, .vec, .unused⟩
  | .pf _ | .tlbi _ _ _ => ⟨.unused, .scalar, .scalar, .unused⟩
  | .fence _ _ | .bra _ | .brk _ | .trap _ | .yield | .retire | .gbar | .dbar _ | .tlbsync | .trapret => ⟨.unused, .unused, .unused, .unused⟩
  | .br _ _ _ | .jr _ | .ret _ | .mtsr _ _ | .spsplit _ => ⟨.unused, .scalar, .unused, .unused⟩
  | .brany _ _ | .brall _ _ => ⟨.unused, .mask, .unused, .unused⟩
  | .wait _ _ _ _ _ => ⟨.scalar, .vec, .scalar, .unused⟩
  | .gget _ _ _ => ⟨.scalar, .scalar, .number, .unused⟩
  | .gput _ _ _ => ⟨.number, .scalar, .scalar, .unused⟩
  | .mxcmd _ _ => ⟨.scalar, .vec, .unused, .unused⟩
  | .mxgeom _ _ _ => ⟨.unused, .scalar, .scalar, .scalar⟩
  | .mxsub _ => ⟨.vec, .unused, .unused, .unused⟩
  | .cpy2d _ _ _ _ _ _ _ _ | .ghash _ _ _ _ _ | .mst _ _ _ _ _ _ _ => ⟨.scalar, .scalar, .scalar, .vec⟩
  | .cmcast _ _ _ _ _ => ⟨.scalar, .scalar, .vec, .unused⟩
  | .mldr _ _ _ _ _ => ⟨.scalar, .scalar, .vec, .vec⟩
  | .nop _ | .uni _ | .rep _ _ _ _ _ _ | .imx _ _
  | .uniPosting _ _ | .mma _ | .mmaz _ | .mmas _ | .bload _ | .cstore _ | .matrixCzero _ | .engineUnit _
  | .matrixCommandStart _ | .deferredContextWrite _ | .cardOwnershipWatch _ | .portCardConsume _ | .gangPlace
  | .timeSlice _ | .priorityAging _ _ | .clusterReservation | .preemption | .idleGangPark | .gangParkComplete _ _
  | .retirementEffect _ | .waitTimeout _ | .trapNotice _ | .walkFill _ | .migrationComplete _ | .loadRequest _
  | .loadAnswer _ | .storeFrame _ | .atomicFrame _ | .atomicAnswer _ | .streamAcknowledgement _ | .resendRequest _
  | .mldrRead _ | .mldrAnswer _ | .graphTransfer _ | .migrationHandOver _ | .domainBarrierReport _ | .ackTimer _ _
  | .streamResend _ _ | .streamLost _ _ | .remoteLoadTimeout _ | .mldrRankTimeout _ _ | .cpycOwnershipTimeout _
  | .gsendTimeout _ | .intakePauseExpiry _ | .frameRoute _ _ _ | .nak _ _ | .nakRepeat _ | .linkRetrainRetry _ _
  | .joinRecord _ _ | .laserFeedLost _ _ | .restripeMarker _ _ | .deadlockSuspect _ _ | .recoveryToken _ _
  | .tokenReissue | .sphead _ _ | .spctlPark _ | .spctlHold _ _ | .fencectlFence _ | .fencectlDrain _
  | .fencectlReturn _ | .drainComplete _ | .featlock | .fwctlOpen | .fwctlAct _ _ | .firmwareActivationEnd
  | .snaptrig | .snapshotLatch | .powerGood | .patrolScrub _ | .hostWrite _ _ | .hostRead _ _ | .registerWrite _ _
  | .recalibrationComplete _ | .pcieCompletion _ _ | .idleFlit _ _ => ⟨.unused, .unused, .unused, .unused⟩

/-- The numbers of a class (R99). -/
def RClass.has : RClass → BitVec 6 → Bool
  | .vec, n => n < 32
  | .vecIn, n => n ≤ 32
  | .vecOut, n => n < 32 || n == 33
  | .mask, n => n < 8
  | _, _ => true

/-- The fields D, A, B and C as a word holds them; fields that the form lacks are 0. -/
structure RegNums where
  d : BitVec 6
  a : BitVec 6
  b : BitVec 6
  c : BitVec 6
  deriving DecidableEq, Repr

def Form.regs : Form → RegNums
  | .a _ _ f => ⟨f.d, f.a, f.b, f.c⟩
  | .i _ _ f => ⟨f.d, f.a, 0, 0⟩
  | .m _ _ f => ⟨f.d, f.a, f.b, 0⟩
  | .ma _ _ f => ⟨f.d, f.a, f.b, f.c⟩
  | .b _ _ f => ⟨f.d, f.a, 0, 0⟩
  | .x _ _ f => ⟨f.d, f.a, f.b, f.c⟩
  | .hint _ => ⟨0, 0, 0, 0⟩

/-- The register numbers that an instruction names. -/
def Instr.regs (i : Instr) : RegNums := ((Instr.form i).map Form.regs).getD ⟨0, 0, 0, 0⟩

/-- Every field lies in its class (R99). -/
def Slots.ok (s : Slots) (r : RegNums) : Bool := s.d.has r.d && s.a.has r.a && s.b.has r.b && s.c.has r.c

/-- The bits of a word where a mask field can exceed its class: bits [5:3] of the field (R99). -/
def Slots.maskBits (s : Slots) : Word :=
  let at' (c : RClass) (o : Nat) : Word := if c = .mask then (0b111000#64 <<< o) else 0
  at' s.d 45 ||| at' s.a 39 ||| at' s.b 33 ||| at' s.c 27

/-! ## What each entry accepts -/

/-- ORD and SPACE of an access through a memory operand (R95, R98): reads take no release, writes no acquire, and only
SPACE 0 takes an ordering. -/
def MemOp.okLoad (m : MemOp) : Bool := m.ord != .rel && (m.space == .glob || m.ord == .rlx)
def MemOp.okStore (m : MemOp) : Bool := m.ord != .acq && (m.space == .glob || m.ord == .rlx)
/-- A barrier word's operand (R184, R185, R188). -/
def MemOp.okBarrier (m : MemOp) (also : MemOrd) : Bool :=
  m.evict == 0 && m.space != .cx && (m.ord == .rlx || (m.ord == also && m.space == .glob))
/-- A range operand of the cache operations and `bset`, which use no B (R178, R146). -/
def MemOp.okRange (m : MemOp) : Bool := m.ord == .rlx && m.index == 0

/-- ORD, SPACE and NR of an atomic (R180, R95). -/
def AtomOp.ok (o : AtomOp) : Bool :=
  o.space != .cx && (o.space == .glob || o.ord == .rlx) && (!o.nr || (o.ord != .acq && o.dst == 0))
def AtomOp.intTy (o : AtomOp) : Bool := o.ty == .i32 || o.ty == .i64 || o.ty == .n32 || o.ty == .n64

/-- The codes that each entry accepts in TYPE, RND, ORD, SPACE and its variants, beyond those that the syntax itself
excludes (R103 step 7). -/
def Instr.codesOk : Instr → Bool
  | .vadd t .. | .vsub t .. | .vmul t .. | .vmulh t .. | .vand t .. | .vor t .. | .vxor t .. | .vandn t .. | .vshl t ..
  | .vshr t .. | .vsar t .. | .vmin t .. | .vmax t .. | .vadds t .. | .vsubs t .. => t.isInt
  | .vabs t .. | .vneg t .. => t.signed
  | .vfadd t .. | .vfsub t .. | .vfmul t .. | .vfma t .. | .vfms t .. | .vfnma t .. | .vfmin t .. | .vfmax t ..
  | .vfabs t .. | .vfneg t .. | .vfdiv t .. | .vfsqrt t .. | .vfrcp t .. | .vfrsq t .. | .vfexp2 t .. | .vflog2 t ..
  | .vfscale t .. => t.isFloat
  | .vbcast t .. | .vins t .. | .vext t .. | .vperm t .. | .vslide t .. | .vzip t .. | .vunzip t .. | .vsel t ..
  | .vcomp t .. | .vexpd t .. => t.movable
  | .vredsum t r _ _ _ => t.isFloat || (t.isInt && r == .rne)
  | .vredmax t .. | .vredmin t .. => t.isFloat || t.isInt
  | .vscan t r z _ _ _ => (t.isFloat && !z) || (t.isInt && r == .rne)
  | .vcmp t c .. => t.isInt && c != .uo && c != .or
  | .vfcmp t .. | .vfclass t .. => t.isFloat
  | .kpop t .. | .kfirst t .. => t.movable || t == .untyped
  | .kset t .. => t.movable
  | .vcvt td ts _ nsat _ _ _ _ => td.movable && td != .e8m0 && ts.movable && (ts != .e8m0 || td.isFloat) && td != ts
      && (!nsat || td == .e4m3)
  | .vcvtq td _ _ nsat .. => (td == .e4m3 || td == .e5m2 || td == .e2m1) && (!nsat || td == .e4m3)
  | .vcvtd td .. => td.isFloat
  | .vpack t .. => t.isInt && t.width != 64
  | .vunpack t .. => t.isInt && t.width != 8
  | .ld t m _ => t.movable && m.okLoad
  | .st t m _ => t.movable && m.okStore
  | .vld t m _ _ | .vlds t m _ _ | .vldb t m _ _ => t.movable && m.okLoad && m.ord != .sc
  | .vst t m _ _ | .vsts t m _ _ => t.movable && m.okStore && m.ord != .sc
  | .vgat t m _ _ => (t.width == 32 || t.width == 64) && m.okLoad && m.ord != .sc
  | .vsca t m _ _ => (t.width == 32 || t.width == 64) && m.okStore && m.ord != .sc
  | .pf m => m.space == .glob && m.ord == .rlx
  | .cwb m _ | .cinv m _ => m.okRange && m.space == .glob
  | .czero m _ => m.okRange && m.space != .cx
  | .aadd o | .aand o | .aor o | .axor o | .aswp o => o.ok && o.intTy
  | .acas o _ => o.ok && o.intTy && !o.nr
  | .amin o | .amax o => o.ok && (o.ty == .i32 || o.ty == .i64)
  | .aminn o | .amaxn o | .ainc o | .adec o => o.ok && (o.ty == .n32 || o.ty == .n64)
  | .afadd o => o.ok && (o.ty == .f32 || o.ty == .bf16)
  | .afmin o | .afmax o => o.ok && o.ty == .f32
  | .fence o _ => o != .rlx
  | .binit m _ => m.okBarrier .rel
  | .bar m _ | .bara m _ | .barw m _ => m.okBarrier .rlx
  | .bstat m _ => m.okBarrier .acq
  | .wait _ n _ _ _ => n ≤ 4
  | .bset m _ => m.okRange && m.space == .glob && m.evict == 0 && m.scope == .thr
  | _ => true

/-- Special registers that R144 assigns. -/
def srAssigned (idx : BitVec 32) : Bool := idx ≤ 0x10 || (0x20 ≤ idx && idx ≤ 0x23)

/-- How many parts the wider of two types makes of the narrower (R217). -/
def partsOf (x y : ElemType) : Nat := max (x.width / y.width) (y.width / x.width)

/-- The rules of an entry itself that decoding can test (R328: ILLEGAL with DETAIL 12). -/
def Instr.rulesOk : Instr → Bool
  | .li .f16 _ imm | .li .bf16 _ imm => imm.extractLsb' 16 16 == 0
  | .shli w _ _ n | .shri w _ _ n | .sari w _ _ n => n.toNat < w.bits
  | .vcvt td ts _ _ part _ _ _ => part.toNat < partsOf td ts
  | .vcvtq td src _ _ part .. => part.toNat < partsOf td src.wide
  | .vcvtd td src _ part .. => part.toNat < partsOf td src.narrow
  | .vunpack _ part .. => part.toNat < 2
  | .dbar l => l ≤ 5
  | .mfsr _ n | .mtsr _ n => srAssigned n
  | .mldr _ _ b c _ => b != c
  | .gcopy _ _ _ _ _ o | .gsend _ _ _ _ o | .gcmp _ _ _ _ o | .ghash _ _ _ _ o | .gfree _ _ _ _ _ o
  | .gcount _ _ _ _ o => o.prog == (o.preg != 0)
  | _ => true

/-! ## Prefix groups -/

/-- MAJOR of an instruction word; none for an event or a group. -/
def Instr.major (i : Instr) : Option Nat :=
  (Instr.form i).map fun
    | .a m _ _ | .i m _ _ | .m m _ _ | .ma m _ _ | .b m _ _ | .x m _ _ => m
    | .hint _ => 0xE0

/-- `uni` and `rep` refuse majors 0x60, 0x70 and 0xB0 and every form X instruction (R107). -/
def Instr.prefixable (i : Instr) : Bool :=
  match Instr.form i with
  | some (.x ..) | none => false
  | some (.a m _ _) | some (.i m _ _) | some (.m m _ _) | some (.b m _ _) => m != 0x60 && m != 0x70 && m != 0xB0
  | some (.ma ..) | some (.hint _) => true

/-- A field holds `lq` or `sq` (R99, R107). -/
def RClass.isQueue (c : RClass) (n : BitVec 6) : Bool :=
  match c with
  | .vecIn | .vecOut => 32 ≤ n
  | _ => false

/-- An instruction names `lq` or `sq` in some field (R107). -/
def Instr.namesQueue (i : Instr) : Bool :=
  let s := Instr.classes i
  let r := Instr.regs i
  s.d.isQueue r.d || s.a.isQueue r.a || s.b.isQueue r.b || s.c.isQueue r.c

/-- `imx` may stand before an instruction of form I or M, but not where its entry forbids it (R107, R117, R139, R144). -/
def Instr.imxOk (i : Instr) : Bool :=
  match i with
  | .li k .. => k == .i64
  | .shli .. | .shri .. | .sari .. | .dbar .. | .mfsr .. | .mtsr .. => false
  | _ => match Instr.form i with
    | some (.i ..) | some (.hint _) => true
    | some (.m _ _ f) => f.space == 0
    | _ => false

/-- A stride stands only on a field that holds a register which is no queue (R113). -/
def RClass.strideOk (c : RClass) (n stride : BitVec 6) : Bool :=
  stride == 0 || (match c with
    | .scalar | .vec | .mask => true
    | .vecIn | .vecOut => n < 32
    | _ => false)

/-- An atomic without a result uses no field D (R89). -/
def Instr.noResult : Instr → Bool
  | .aadd o | .aand o | .aor o | .axor o | .amin o | .amax o | .aminn o | .amaxn o | .aswp o | .acas o _ | .ainc o
  | .adec o | .afadd o | .afmin o | .afmax o => o.nr
  | _ => false

/-- The strides of a `rep` fit the instruction (R113). -/
def Instr.stridesOk (i : Instr) (sd sa sb sc : BitVec 6) : Bool :=
  let s := Instr.classes i
  let r := Instr.regs i
  s.d.strideOk r.d sd && (!i.noResult || sd == 0) && s.a.strideOk r.a sa && s.b.strideOk r.b sb && s.c.strideOk r.c sc

/-- The hint word, which makes a group a `nop` (R107). -/
def Instr.isHint : Instr → Bool
  | .nop _ => true
  | _ => false

end Sys2Proof
end

