-- ==== Sys2Proof/WellFormed.lean ====
section
/-! DEFINITION. Well-formed instructions: those that some word or prefix group of R85 to R117 encodes. -/

namespace Sys2Proof

/-- An instruction word is well formed when its codes are those its entry accepts (R93 to R98), its register fields lie
in their classes (R99) and its entry's own decode rules hold (R328). -/
def Instr.wordWf (i : Instr) : Bool :=
  match Instr.form i with
  | none => false
  | some f => i.codesOk && (Instr.classes i).ok f.regs && i.rulesOk

/-- The instruction after a `uni` or `rep`: an instruction word, or one behind an `imx` (R106, R107). -/
def Instr.tailWf (i : Instr) : Bool :=
  match i with
  | .imx _ j => j.wordWf && j.imxOk
  | _ => i.wordWf

/-- The instruction word of what follows a `uni` or `rep`. -/
def Instr.core (i : Instr) : Instr :=
  match i with
  | .imx _ j => j
  | _ => i

/-- A `uni` may stand before this instruction word (R107). -/
def Instr.uniOk (i : Instr) : Bool := i.isHint || (i.prefixable && !i.namesQueue)

/-- A `rep` with these strides may stand before this instruction word (R107, R113). -/
def Instr.repOk (i : Instr) (sd sa sb sc : BitVec 6) : Bool :=
  i.isHint || (i.prefixable && i.stridesOk sd sa sb sc)

/-- A well-formed instruction: a word, or a group of prefixes and a word (R106, R107). No step of the device is one. -/
def Instr.wf (i : Instr) : Bool :=
  match i with
  | .uni j => j.tailWf && j.core.uniOk
  | .rep _ sd sa sb sc j => j.tailWf && j.core.repOk sd sa sb sc
  | _ => i.tailWf

end Sys2Proof
end

