-- ==== Sys2Proof/Decode.lean ====
section
/-! DEFINITION. The decoder (R103, R106, R107), total on any words, and after it the encoder. A word is read by its
MAJOR and MINOR; it is legal exactly when it is the encoding of the instruction read, so every reserved bit of R102 is
tested at once. What is refused is refused by the name of the step or rule that fails. -/

namespace Sys2Proof

/-- Why words decode to no instruction: the step of R103 or the rule that fails (R328 gives each its DETAIL). -/
inductive DecodeError where
  /-- R103 step 4: MAJOR is unassigned. -/
  | unassignedMajor
  /-- R103 step 6: MINOR is at or above the family's count. -/
  | unassignedMinor
  /-- R103 step 7: a reserved bit, or a code outside those the entry accepts. -/
  | reservedOrCode
  /-- R103 step 8: a register number outside its class, or a queue in a forbidden position. -/
  | registerClass
  /-- A rule of R107 on prefix groups. -/
  | groupRule
  /-- A rule of the entry itself, R113 among them. -/
  | entryRule
  deriving DecidableEq, Repr

/-- DETAIL of the ILLEGAL that the word raises (R328). -/
def DecodeError.detail : DecodeError → Nat
  | .unassignedMajor => 4
  | .unassignedMinor => 6
  | .reservedOrCode => 7
  | .registerClass => 8
  | .groupRule => 11
  | .entryRule => 12

/-! ## Reading the fields of each family -/

/-- The members of major 0x10 (R101). -/
def parseScalar (w : Word) : Option Instr :=
  let f := unpackA w
  match minorOf w with
  | 0 => do let w ← SWidth.ofCode f.ty; some (.add w f.d f.a f.b)
  | 1 => do let w ← SWidth.ofCode f.ty; some (.sub w f.d f.a f.b)
  | 2 => do let w ← SWidth.ofCode f.ty; some (.mul w f.d f.a f.b)
  | 3 => do let w ← SWidth.ofCode f.ty; some (.mulh w f.d f.a f.b)
  | 4 => do let w ← SWidth.ofCode f.ty; some (.mulhn w f.d f.a f.b)
  | 5 => do let w ← SWidth.ofCode f.ty; some (.div w f.d f.a f.b)
  | 6 => do let w ← SWidth.ofCode f.ty; some (.divn w f.d f.a f.b)
  | 7 => do let w ← SWidth.ofCode f.ty; some (.rem w f.d f.a f.b)
  | 8 => do let w ← SWidth.ofCode f.ty; some (.remn w f.d f.a f.b)
  | 9 => do let w ← SWidth.ofCode f.ty; some (.and w f.d f.a f.b)
  | 10 => do let w ← SWidth.ofCode f.ty; some (.or w f.d f.a f.b)
  | 11 => do let w ← SWidth.ofCode f.ty; some (.xor w f.d f.a f.b)
  | 12 => do let w ← SWidth.ofCode f.ty; some (.andn w f.d f.a f.b)
  | 13 => do let w ← SWidth.ofCode f.ty; some (.shl w f.d f.a f.b)
  | 14 => do let w ← SWidth.ofCode f.ty; some (.shr w f.d f.a f.b)
  | 15 => do let w ← SWidth.ofCode f.ty; some (.sar w f.d f.a f.b)
  | 16 => do let w ← SWidth.ofCode f.ty; some (.rol w f.d f.a f.b)
  | 17 => do let w ← SWidth.ofCode f.ty; some (.min w f.d f.a f.b)
  | 18 => do let w ← SWidth.ofCode f.ty; some (.max w f.d f.a f.b)
  | 19 => do let w ← SWidth.ofCode f.ty; some (.minn w f.d f.a f.b)
  | 20 => do let w ← SWidth.ofCode f.ty; some (.maxn w f.d f.a f.b)
  | 21 => do let w ← SWidth.ofCode f.ty; some (.clz w f.d f.a)
  | 22 => do let w ← SWidth.ofCode f.ty; some (.ctz w f.d f.a)
  | 23 => do let w ← SWidth.ofCode f.ty; some (.pop w f.d f.a)
  | 24 => do let w ← SWidth.ofCode f.ty; some (.sel w f.d f.a f.b f.c)
  | 25 => do let w ← SWidth.ofCode f.ty; let cond ← Cond.ofCode (f.rnd.extractLsb' 0 3); some (.cmp w cond f.d f.a f.b)
  | _ => none

/-- The members of major 0x11 (R101). -/
def parseImm (w : Word) : Option Instr :=
  let f := unpackI w
  match minorOf w with
  | 0 => do let kind ← LiKind.ofCode f.ty; some (.li kind f.d f.imm)
  | 1 => some (.lih f.d f.a f.imm)
  | 2 => do let w ← SWidth.ofCode f.ty; some (.addi w f.d f.a f.imm)
  | 3 => do let w ← SWidth.ofCode f.ty; some (.andi w f.d f.a f.imm)
  | 4 => do let w ← SWidth.ofCode f.ty; some (.ori w f.d f.a f.imm)
  | 5 => do let w ← SWidth.ofCode f.ty; some (.xori w f.d f.a f.imm)
  | 6 => do let w ← SWidth.ofCode f.ty; some (.shli w f.d f.a f.imm)
  | 7 => do let w ← SWidth.ofCode f.ty; some (.shri w f.d f.a f.imm)
  | 8 => do let w ← SWidth.ofCode f.ty; some (.sari w f.d f.a f.imm)
  | 9 => do let w ← SWidth.ofCode f.ty; let cond ← Cond.ofCode f.k; some (.cmpi w cond f.d f.a f.imm)
  | 10 => some (.adr f.d f.imm)
  | _ => none

/-- The members of major 0x20 (R101). -/
def parseVecInt (w : Word) : Option Instr :=
  let f := unpackA w
  match minorOf w with
  | 0 => some (.vadd (ElemType.ofCode f.ty) (f.rnd.getLsbD 3) f.k f.d f.a f.b)
  | 1 => some (.vsub (ElemType.ofCode f.ty) (f.rnd.getLsbD 3) f.k f.d f.a f.b)
  | 2 => some (.vmul (ElemType.ofCode f.ty) (f.rnd.getLsbD 3) f.k f.d f.a f.b)
  | 3 => some (.vmulh (ElemType.ofCode f.ty) (f.rnd.getLsbD 3) f.k f.d f.a f.b)
  | 4 => some (.vand (ElemType.ofCode f.ty) (f.rnd.getLsbD 3) f.k f.d f.a f.b)
  | 5 => some (.vor (ElemType.ofCode f.ty) (f.rnd.getLsbD 3) f.k f.d f.a f.b)
  | 6 => some (.vxor (ElemType.ofCode f.ty) (f.rnd.getLsbD 3) f.k f.d f.a f.b)
  | 7 => some (.vandn (ElemType.ofCode f.ty) (f.rnd.getLsbD 3) f.k f.d f.a f.b)
  | 8 => some (.vshl (ElemType.ofCode f.ty) (f.rnd.getLsbD 3) f.k f.d f.a f.b)
  | 9 => some (.vshr (ElemType.ofCode f.ty) (f.rnd.getLsbD 3) f.k f.d f.a f.b)
  | 10 => some (.vsar (ElemType.ofCode f.ty) (f.rnd.getLsbD 3) f.k f.d f.a f.b)
  | 11 => some (.vmin (ElemType.ofCode f.ty) (f.rnd.getLsbD 3) f.k f.d f.a f.b)
  | 12 => some (.vmax (ElemType.ofCode f.ty) (f.rnd.getLsbD 3) f.k f.d f.a f.b)
  | 13 => some (.vabs (ElemType.ofCode f.ty) (f.rnd.getLsbD 3) f.k f.d f.a)
  | 14 => some (.vneg (ElemType.ofCode f.ty) (f.rnd.getLsbD 3) f.k f.d f.a)
  | 15 => some (.vadds (ElemType.ofCode f.ty) (f.rnd.getLsbD 3) f.k f.d f.a f.b)
  | 16 => some (.vsubs (ElemType.ofCode f.ty) (f.rnd.getLsbD 3) f.k f.d f.a f.b)
  | _ => none

/-- The members of major 0x21 (R101). -/
def parseVecFloat (w : Word) : Option Instr :=
  let f := unpackA w
  match minorOf w with
  | 0 => do let r ← Rounding.ofCode f.rnd; some (.vfadd (ElemType.ofCode f.ty) r f.k f.d f.a f.b)
  | 1 => do let r ← Rounding.ofCode f.rnd; some (.vfsub (ElemType.ofCode f.ty) r f.k f.d f.a f.b)
  | 2 => do let r ← Rounding.ofCode f.rnd; some (.vfmul (ElemType.ofCode f.ty) r f.k f.d f.a f.b)
  | 3 => do let r ← Rounding.ofCode f.rnd; some (.vfma (ElemType.ofCode f.ty) r f.k f.d f.a f.b f.c)
  | 4 => do let r ← Rounding.ofCode f.rnd; some (.vfms (ElemType.ofCode f.ty) r f.k f.d f.a f.b f.c)
  | 5 => do let r ← Rounding.ofCode f.rnd; some (.vfnma (ElemType.ofCode f.ty) r f.k f.d f.a f.b f.c)
  | 6 => do let r ← Rounding.ofCode f.rnd; some (.vfmin (ElemType.ofCode f.ty) r f.k f.d f.a f.b)
  | 7 => do let r ← Rounding.ofCode f.rnd; some (.vfmax (ElemType.ofCode f.ty) r f.k f.d f.a f.b)
  | 8 => some (.vfabs (ElemType.ofCode f.ty) f.k f.d f.a)
  | 9 => some (.vfneg (ElemType.ofCode f.ty) f.k f.d f.a)
  | 10 => do let r ← Rounding.ofCode f.rnd; some (.vfdiv (ElemType.ofCode f.ty) r f.k f.d f.a f.b)
  | 11 => do let r ← Rounding.ofCode f.rnd; some (.vfsqrt (ElemType.ofCode f.ty) r f.k f.d f.a)
  | 12 => do let r ← Rounding.ofCode f.rnd; some (.vfrcp (ElemType.ofCode f.ty) r f.k f.d f.a)
  | 13 => do let r ← Rounding.ofCode f.rnd; some (.vfrsq (ElemType.ofCode f.ty) r f.k f.d f.a)
  | 14 => do let r ← Rounding.ofCode f.rnd; some (.vfexp2 (ElemType.ofCode f.ty) r f.k f.d f.a)
  | 15 => do let r ← Rounding.ofCode f.rnd; some (.vflog2 (ElemType.ofCode f.ty) r f.k f.d f.a)
  | 16 => do let r ← Rounding.ofCode f.rnd; some (.vfscale (ElemType.ofCode f.ty) r f.k f.d f.a f.b)
  | _ => none

/-- The members of major 0x22 (R101). -/
def parseMove (w : Word) : Option Instr :=
  let f := unpackA w
  match minorOf w with
  | 0 => some (.vmov (f.rnd.getLsbD 3) f.k f.d f.a)
  | 1 => some (.vbcast (ElemType.ofCode f.ty) (f.rnd.getLsbD 3) f.k f.d f.a)
  | 2 => some (.vins (ElemType.ofCode f.ty) (f.rnd.getLsbD 3) f.k f.d f.a f.b)
  | 3 => some (.vext (ElemType.ofCode f.ty) f.d f.a f.b)
  | 4 => some (.vperm (ElemType.ofCode f.ty) (f.rnd.getLsbD 3) f.k f.d f.a f.b)
  | 5 => some (.vslide (ElemType.ofCode f.ty) (f.rnd.getLsbD 3) f.k f.d f.a f.b)
  | 6 => some (.vzip (ElemType.ofCode f.ty) (f.rnd.getLsbD 3) (f.rnd.getLsbD 0) f.k f.d f.a f.b)
  | 7 => some (.vunzip (ElemType.ofCode f.ty) (f.rnd.getLsbD 3) (f.rnd.getLsbD 0) f.k f.d f.a f.b)
  | 8 => some (.vsel (ElemType.ofCode f.ty) (f.rnd.getLsbD 3) f.k f.d f.a f.b (KReg.ofField f.c))
  | 9 => some (.vcomp (ElemType.ofCode f.ty) (f.rnd.getLsbD 3) f.k f.d f.a)
  | 10 => some (.vexpd (ElemType.ofCode f.ty) (f.rnd.getLsbD 3) f.k f.d f.a)
  | 11 => do let r ← Rounding.ofCode f.rnd; some (.vredsum (ElemType.ofCode f.ty) r f.k f.d f.a)
  | 12 => some (.vredmax (ElemType.ofCode f.ty) f.k f.d f.a)
  | 13 => some (.vredmin (ElemType.ofCode f.ty) f.k f.d f.a)
  | 14 => do let r ← scanRounding (ElemType.ofCode f.ty) f.rnd; some (.vscan (ElemType.ofCode f.ty) r (scanZ (ElemType.ofCode f.ty) f.rnd) f.k f.d f.a)
  | _ => none

/-- The members of major 0x23 (R101). -/
def parseMask (w : Word) : Option Instr :=
  let f := unpackA w
  match minorOf w with
  | 0 => some (.vcmp (ElemType.ofCode f.ty) (VCond.ofCode (f.rnd.extractLsb' 0 3)) (f.rnd.getLsbD 3) f.k (KReg.ofField f.d) f.a f.b)
  | 1 => some (.vfcmp (ElemType.ofCode f.ty) (VCond.ofCode (f.rnd.extractLsb' 0 3)) (f.rnd.getLsbD 3) f.k (KReg.ofField f.d) f.a f.b)
  | 2 => some (.vfclass (ElemType.ofCode f.ty) (f.rnd.getLsbD 3) f.k (KReg.ofField f.d) f.a f.b)
  | 3 => some (.kand (KReg.ofField f.d) (KReg.ofField f.a) (KReg.ofField f.b))
  | 4 => some (.kor (KReg.ofField f.d) (KReg.ofField f.a) (KReg.ofField f.b))
  | 5 => some (.kxor (KReg.ofField f.d) (KReg.ofField f.a) (KReg.ofField f.b))
  | 6 => some (.knot (KReg.ofField f.d) (KReg.ofField f.a))
  | 7 => some (.kmov (KReg.ofField f.d) (KReg.ofField f.a))
  | 8 => some (.kpop (ElemType.ofCode f.ty) f.d (KReg.ofField f.a))
  | 9 => some (.kfirst (ElemType.ofCode f.ty) f.d (KReg.ofField f.a))
  | 10 => some (.kset (ElemType.ofCode f.ty) (KReg.ofField f.d) f.a)
  | 11 => some (.kget f.d (KReg.ofField f.a) f.b)
  | _ => none

/-- The members of major 0x24 (R101). -/
def parseConvert (w : Word) : Option Instr :=
  let f := unpackA w
  match minorOf w with
  | 0 => do let r ← Rounding.ofCode f.rnd; some (.vcvt (ElemType.ofCode f.ty) (ElemType.ofCode (f.b.extractLsb' 0 4)) r (f.c.getLsbD 3) (f.c.extractLsb' 0 3) f.k f.d f.a)
  | 1 => do let src ← SrcSel.ofCode (f.c.extractLsb' 4 2); let r ← Rounding.ofCode f.rnd; some (.vcvtq (ElemType.ofCode f.ty) src r (f.c.getLsbD 3) (f.c.extractLsb' 0 3) f.k f.d f.a f.b)
  | 2 => do let src ← SrcSel.ofCode (f.c.extractLsb' 4 2); let r ← Rounding.ofCode f.rnd; some (.vcvtd (ElemType.ofCode f.ty) src r (f.c.extractLsb' 0 3) f.k f.d f.a f.b)
  | 3 => some (.vpack (ElemType.ofCode f.ty) f.k f.d f.a f.b)
  | 4 => some (.vunpack (ElemType.ofCode f.ty) (f.c.extractLsb' 0 3) f.k f.d f.a)
  | _ => none

/-- The members of major 0x40 (R101). -/
def parseMem (w : Word) : Option Instr :=
  let f := unpackM w
  match minorOf w with
  | 0 => do let m ← f.memOp; some (.ld (ElemType.ofCode f.ty) m f.d)
  | 1 => do let m ← f.memOp; some (.st (ElemType.ofCode f.ty) m f.d)
  | _ => none

/-- The members of major 0x41 (R101). -/
def parseVecMem (w : Word) : Option Instr :=
  let f := unpackM w
  match minorOf w with
  | 0 => do let m ← f.memOp; some (.vld (ElemType.ofCode f.ty) m f.k f.d)
  | 1 => do let m ← f.memOp; some (.vst (ElemType.ofCode f.ty) m f.k f.d)
  | 2 => do let m ← f.memOp; some (.vlds (ElemType.ofCode f.ty) m f.k f.d)
  | 3 => do let m ← f.memOp; some (.vsts (ElemType.ofCode f.ty) m f.k f.d)
  | 4 => do let m ← f.memOp; some (.vgat (ElemType.ofCode f.ty) m f.k f.d)
  | 5 => do let m ← f.memOp; some (.vsca (ElemType.ofCode f.ty) m f.k f.d)
  | 6 => do let m ← f.memOp; some (.vldb (ElemType.ofCode f.ty) m f.k f.d)
  | _ => none

/-- The members of major 0x42 (R101). -/
def parseCache (w : Word) : Option Instr :=
  match minorOf w with
  | 0 => let f := unpackM w; do let m ← f.memOp; some (.pf m)
  | 1 => let f := unpackM w; do let m ← f.memOp; some (.cwb m f.d)
  | 2 => let f := unpackM w; do let m ← f.memOp; some (.cinv m f.d)
  | 3 => let f := unpackM w; do let m ← f.memOp; some (.czero m f.d)
  | 4 => let f := unpackA w; some (.qstat f.d)
  | _ => none

/-- The members of major 0x50 (R101). -/
def parseAtomic (w : Word) : Option Instr :=
  let f := unpackMA w
  match minorOf w with
  | 0 => do let o ← f.atomOp; some (.aadd o)
  | 1 => do let o ← f.atomOp; some (.aand o)
  | 2 => do let o ← f.atomOp; some (.aor o)
  | 3 => do let o ← f.atomOp; some (.axor o)
  | 4 => do let o ← f.atomOp; some (.amin o)
  | 5 => do let o ← f.atomOp; some (.amax o)
  | 6 => do let o ← f.atomOp; some (.aminn o)
  | 7 => do let o ← f.atomOp; some (.amaxn o)
  | 8 => do let o ← f.atomOp; some (.aswp o)
  | 9 => do let o ← f.atomOp; some (.acas o f.c)
  | 10 => do let o ← f.atomOp; some (.ainc o)
  | 11 => do let o ← f.atomOp; some (.adec o)
  | 12 => do let o ← f.atomOp; some (.afadd o)
  | 13 => do let o ← f.atomOp; some (.afmin o)
  | 14 => do let o ← f.atomOp; some (.afmax o)
  | _ => none

/-- The members of major 0x51 (R101). -/
def parseBarrier (w : Word) : Option Instr :=
  let f := unpackM w
  match minorOf w with
  | 0 => do let scope ← Scope.ofCode f.scope; some (.fence (MemOrd.ofCode f.ord) scope)
  | 1 => do let m ← f.memOp; some (.binit m f.d)
  | 2 => do let m ← f.memOp; some (.bar m f.d)
  | 3 => do let m ← f.memOp; some (.bara m f.d)
  | 4 => do let m ← f.memOp; some (.barw m f.d)
  | 5 => do let m ← f.memOp; some (.bstat m f.d)
  | _ => none

/-- The members of major 0x60 (R101). -/
def parseControl (w : Word) : Option Instr :=
  match minorOf w with
  | 0 => let f := unpackB w; some (.bra f.off)
  | 1 => let f := unpackB w; do let cond ← BrCond.ofCode f.cond; some (.br cond f.a f.off)
  | 2 => let f := unpackB w; some (.brany (KReg.ofField f.a) f.off)
  | 3 => let f := unpackB w; some (.brall (KReg.ofField f.a) f.off)
  | 4 => let f := unpackA w; some (.jr f.a)
  | 5 => let f := unpackB w; some (.call f.d f.off)
  | 6 => let f := unpackA w; some (.callr f.d f.a)
  | 7 => let f := unpackA w; some (.ret f.a)
  | 8 => let f := unpackI w; some (.brk f.imm)
  | 9 => let f := unpackI w; some (.trap f.imm)
  | _ => none

/-- The members of major 0x70 (R101). -/
def parseThreads (w : Word) : Option Instr :=
  match minorOf w with
  | 0 => let f := unpackX w; some (.spawn f.d f.a (f.cmd.extractLsb' 0 6))
  | 1 => some (.yield)
  | 2 => some (.retire)
  | 3 => let f := unpackA w; some (.wait (f.rnd.getLsbD 3) (f.rnd.extractLsb' 0 3) f.d f.a f.b)
  | 4 => some (.gbar)
  | 5 => let f := unpackI w; some (.dbar f.imm)
  | 6 => let f := unpackA w; some (.elect f.d)
  | 7 => let f := unpackA w; some (.gget f.d f.a f.b)
  | 8 => let f := unpackA w; some (.gput f.d f.a f.b)
  | 9 => let f := unpackA w; some (.tnow f.d)
  | _ => none

/-- The members of major 0x80 (R101). -/
def parseMatrix (w : Word) : Option Instr :=
  match minorOf w with
  | 0 => let f := unpackX w; some (.mxcmd f.d f.a)
  | 1 => let f := unpackA w; some (.mxgeom f.a f.b f.c)
  | 2 => let f := unpackA w; some (.mxsub f.d)
  | 3 => let f := unpackA w; some (.mxstat f.d)
  | 4 => let f := unpackA w; some (.mxflag f.d)
  | _ => none

/-- The members of major 0x88 (R101). -/
def parseCopy (w : Word) : Option Instr :=
  let f := unpackX w
  match minorOf w with
  | 0 => some (.cpy f.d f.a f.b f.c (Space.ofCode (f.cmd.extractLsb' 0 2)) (Space.ofCode (f.cmd.extractLsb' 2 2)) (f.cmd.extractLsb' 4 3) (f.cmd.getLsbD 7))
  | 1 => some (.cpy2d f.d f.a f.b f.c (Space.ofCode (f.cmd.extractLsb' 0 2)) (Space.ofCode (f.cmd.extractLsb' 2 2)) (f.cmd.extractLsb' 4 3) (f.cmd.getLsbD 7))
  | 2 => some (.cpyc f.d f.a (f.cmd.extractLsb' 0 16))
  | 3 => some (.cmcast f.d f.a f.b (f.cmd.extractLsb' 0 8) (f.cmd.extractLsb' 8 3))
  | 4 => some (.cfill f.d f.a f.b f.c (Space.ofCode (f.cmd.extractLsb' 0 2)) (FillWidth.ofCode (f.cmd.extractLsb' 2 2)) (f.cmd.extractLsb' 4 3) (f.cmd.getLsbD 7))
  | 5 => some (.stash f.d f.a f.b f.c (f.cmd.extractLsb' 0 16))
  | 6 => some (.resto f.d f.a f.b f.c (f.cmd.extractLsb' 0 16) (f.cmd.getLsbD 16))
  | 7 => some (.xpand f.d f.a (f.cmd.getLsbD 0))
  | _ => none

/-- The members of major 0x90 (R101). -/
def parseGraph (w : Word) : Option Instr :=
  let f := unpackX w
  match minorOf w with
  | 0 => some (.gcopy f.d f.a f.b f.c (f.cmd.extractLsb' 8 6) ⟨f.cmd.extractLsb' 0 6, f.cmd.getLsbD 6, f.cmd.getLsbD 7⟩)
  | 1 => some (.gsend f.d f.a f.b f.c ⟨f.cmd.extractLsb' 0 6, f.cmd.getLsbD 6, f.cmd.getLsbD 7⟩)
  | 2 => some (.gcmp f.d f.a f.b f.c ⟨f.cmd.extractLsb' 0 6, f.cmd.getLsbD 6, f.cmd.getLsbD 7⟩)
  | 3 => some (.ghash f.d f.a f.b f.c ⟨f.cmd.extractLsb' 0 6, f.cmd.getLsbD 6, f.cmd.getLsbD 7⟩)
  | 4 => some (.gfree f.d f.a f.b f.c (f.cmd.extractLsb' 8 6) ⟨f.cmd.extractLsb' 0 6, f.cmd.getLsbD 6, f.cmd.getLsbD 7⟩)
  | 5 => some (.gcount f.d f.a f.b (f.cmd.extractLsb' 8 6) ⟨f.cmd.extractLsb' 0 6, f.cmd.getLsbD 6, f.cmd.getLsbD 7⟩)
  | 6 => some (.gintake f.d f.a (f.cmd.extractLsb' 0 6) (f.cmd.extractLsb' 6 3))
  | 7 => some (.gtype f.d f.a f.b)
  | _ => none

/-- The members of major 0xA0 (R101). -/
def parseFabric (w : Word) : Option Instr :=
  match minorOf w with
  | 0 => let f := unpackA w; some (.rfence f.d)
  | 1 => let f := unpackA w; some (.rstat f.d f.a)
  | 2 => let f := unpackX w; some (.mldr f.d f.a f.b f.c (f.cmd.extractLsb' 0 8))
  | 3 => let f := unpackX w; some (.mst f.d f.a f.b f.c (f.cmd.extractLsb' 0 8) (f.cmd.extractLsb' 8 7) (f.cmd.getLsbD 15))
  | 4 => let f := unpackA w; some (.agrd f.d f.a f.b)
  | _ => none

/-- The members of major 0xB0 (R101). -/
def parseSystem (w : Word) : Option Instr :=
  match minorOf w with
  | 0 => let f := unpackI w; some (.mfsr f.d f.imm)
  | 1 => let f := unpackI w; some (.mtsr f.a f.imm)
  | 2 => let f := unpackA w; do let kind ← TlbiKind.ofCode f.rnd; some (.tlbi kind f.a f.b)
  | 3 => some (.tlbsync)
  | 4 => let f := unpackX w; some (.pgmig f.d f.a f.b)
  | 5 => let f := unpackA w; some (.spsplit f.a)
  | 6 => let f := unpackA w; some (.thalt f.d f.a)
  | 7 => let f := unpackA w; some (.tresume f.d f.a)
  | 8 => some (.trapret)
  | 9 => let f := unpackA w; some (.snap f.d)
  | 10 => let f := unpackM w; do let m ← f.memOp; some (.bset m f.d)
  | 11 => let f := unpackA w; some (.agset f.d f.a f.b)
  | _ => none

/-- Minors that R101 assigns to a family; none for a MAJOR that R100 leaves unassigned or gives to a prefix. -/
def minorCount : Nat → Option Nat
  | 0x10 => some 26 | 0x11 => some 11
  | 0x20 => some 17 | 0x21 => some 17 | 0x22 => some 15 | 0x23 => some 12 | 0x24 => some 5
  | 0x40 => some 2 | 0x41 => some 7 | 0x42 => some 5
  | 0x50 => some 15 | 0x51 => some 6
  | 0x60 => some 10 | 0x70 => some 10 | 0x80 => some 5 | 0x88 => some 8 | 0x90 => some 8 | 0xA0 => some 5
  | 0xB0 => some 12
  | _ => none

/-- The instruction that MAJOR and MINOR select, with the fields of its form, unchecked. -/
def parseWord (w : Word) : Option Instr :=
  match majorOf w with
  | 0x10 => parseScalar w
  | 0x11 => parseImm w
  | 0x20 => parseVecInt w
  | 0x21 => parseVecFloat w
  | 0x22 => parseMove w
  | 0x23 => parseMask w
  | 0x24 => parseConvert w
  | 0x40 => parseMem w
  | 0x41 => parseVecMem w
  | 0x42 => parseCache w
  | 0x50 => parseAtomic w
  | 0x51 => parseBarrier w
  | 0x60 => parseControl w
  | 0x70 => parseThreads w
  | 0x80 => parseMatrix w
  | 0x88 => parseCopy w
  | 0x90 => parseGraph w
  | 0xA0 => parseFabric w
  | 0xB0 => parseSystem w
  | _ => none

/-- Steps 7 and 8 of R103 and the entry's own rules, for the instruction read from a word. -/
def checkWord (w : Word) (i : Instr) (f : Form) : Except DecodeError Instr :=
  let diff := f.pack ^^^ w
  let s := Instr.classes i
  if diff &&& ~~~ s.maskBits ≠ 0 ∨ i.codesOk = false then .error .reservedOrCode
  else if diff ≠ 0 ∨ s.ok f.regs = false then .error .registerClass
  else if i.rulesOk = false then .error .entryRule
  else .ok i

/-- Steps 3 to 8 of R103 for one word that is no prefix. -/
def decodeWord (w : Word) : Except DecodeError Instr :=
  if w.extractLsb' 60 4 = 0xE#4 then .ok (.nop (w.extractLsb' 0 60))
  else match minorCount (majorOf w) with
    | none => .error .unassignedMajor
    | some n =>
      if n ≤ minorOf w then .error .unassignedMinor
      else match parseWord w with
        | none => .error .reservedOrCode
        | some i => match Instr.form i with
          | none => .error .reservedOrCode
          | some f => checkWord w i f

/-! ## Prefix groups -/

/-- What the words fetched so far give: an instruction, a refusal, or the need of one more word. -/
inductive GroupDecode where
  | ok (i : Instr)
  | bad (e : DecodeError)
  | more
  deriving DecidableEq, Repr

/-- MAJOR 0xF0, 0xF1 or 0xF2 (R92). -/
def isPrefixWord (w : Word) : Bool := majorOf w == 0xF0 || majorOf w == 0xF1 || majorOf w == 0xF2

/-- The word after an `imx` (R107, R117). -/
def decodeAfterImx (hi : BitVec 32) (ws : List Word) : GroupDecode :=
  match ws with
  | [] => .more
  | w :: _ =>
    if isPrefixWord w then .bad .groupRule
    else match decodeWord w with
      | .error e => .bad e
      | .ok i => if i.imxOk then .ok (.imx hi i) else .bad .groupRule

/-- The `imx` word itself, its reserved bits tested before a later word is read (R107). -/
def decodeImx (w : Word) (ws : List Word) : GroupDecode :=
  if w.extractLsb' 32 24 ≠ 0 then .bad .groupRule else decodeAfterImx (w.extractLsb' 0 32) ws

/-- What follows a `uni` or a `rep`: an optional `imx` and one instruction word (R106, R107). -/
def decodeTail (ws : List Word) : GroupDecode :=
  match ws with
  | [] => .more
  | w :: ws =>
    if majorOf w = 0xF2 then decodeImx w ws
    else if isPrefixWord w then .bad .groupRule
    else match decodeWord w with
      | .error e => .bad e
      | .ok i => .ok i

/-- A whole prefix group from its first words (R106, R107, R113). -/
def decodeGroup (ws : List Word) : GroupDecode :=
  match ws with
  | [] => .more
  | w :: ws =>
    if majorOf w = 0xF0 then
      if w.extractLsb' 0 56 ≠ 0 then .bad .groupRule
      else match decodeTail ws with
        | .ok i => if i.core.uniOk then .ok (.uni i) else .bad .groupRule
        | r => r
    else if majorOf w = 0xF1 then
      if w.extractLsb' 0 16 ≠ 0 then .bad .groupRule
      else match decodeTail ws with
        | .ok i =>
          if i.core.isHint || i.core.prefixable then
            if i.core.repOk (w.extractLsb' 34 6) (w.extractLsb' 28 6) (w.extractLsb' 22 6) (w.extractLsb' 16 6)
            then .ok (.rep (w.extractLsb' 40 16) (w.extractLsb' 34 6) (w.extractLsb' 28 6) (w.extractLsb' 22 6)
              (w.extractLsb' 16 6) i)
            else .bad .entryRule
          else .bad .groupRule
        | r => r
    else if majorOf w = 0xF2 then decodeImx w ws
    else match decodeWord w with
      | .error e => .bad e
      | .ok i => .ok i

/-! ## The encoder -/

/-- Words of a group (R106). -/
def Instr.words : Instr → Nat
  | .uni i => 1 + i.words
  | .rep _ _ _ _ _ i => 1 + i.words
  | .imx _ i => 1 + i.words
  | _ => 1

/-- The words of an instruction (R85 to R92); a step of the device has none. -/
def encode : Instr → List Word
  | .uni i => 0xF000000000000000#64 :: encode i
  | .rep count sd sa sb sc i => (0xF1#8 ++ count ++ sd ++ sa ++ sb ++ sc ++ 0#16) :: encode i
  | .imx hi i => (0xF2#8 ++ 0#24 ++ hi) :: encode i
  | i => match Instr.form i with
    | some f => [f.pack]
    | none => []

/-- The instruction word of a group, without its prefixes (R327); zero for a step of the device. -/
def Instr.word : Instr → Word
  | .uni i => i.word
  | .rep _ _ _ _ _ i => i.word
  | .imx _ i => i.word
  | i => match Instr.form i with
    | some f => f.pack
    | none => 0

/-! ## Instructions as numbers -/

/-- The 64-bit word number `k` of `w`, from the least significant end. -/
def wordAt (w k : Nat) : Word := BitVec.ofNat 64 (w / 2 ^ (64 * k))

/-- The instruction read from words whose bits are `w`, first word in the low 64 bits, the words above `nbits` zero. -/
def decodeTableWord (nbits w : Nat) : Option Instr :=
  let v := w % 2 ^ nbits
  match decodeGroup [wordAt v 0, wordAt v 1, wordAt v 2] with
  | .ok i => some i
  | _ => none

end Sys2Proof
end

