-- ==== Sys2Proof/Machine/Bits.lean ====
section
/-! DEFINITION. Bits and bytes: fields of wide registers, little-endian byte strings (R4), and the canonical byte lists
that memories are. -/

namespace Sys2Proof

/-- `w` bits of `x` from bit `lo`. -/
def getBits {n : Nat} (x : BitVec n) (lo w : Nat) : BitVec w := x.extractLsb' lo w

/-- `x` with the bits from `lo` replaced by `v`. -/
def setBits {n w : Nat} (x : BitVec n) (lo : Nat) (v : BitVec w) : BitVec n :=
  (x &&& ~~~((BitVec.allOnes w).zeroExtend n <<< lo)) ||| (v.zeroExtend n <<< lo)

/-- `k` ones from bit `lo`. -/
def onesAt (n lo k : Nat) : BitVec n := BitVec.ofNat n ((2 ^ k - 1) * 2 ^ lo)

/-- `x` sign-extended or zero-extended to 64 bits. -/
def extend64 {n : Nat} (signed : Bool) (x : BitVec n) : Word := if signed then x.signExtend 64 else x.zeroExtend 64

/-- Integer division by a power of two, rounding down, of a signed number. -/
def floorShift (x : Int) (n : Nat) : Int := x / (2 ^ n : Nat)

/-- `Clamp` of R108. -/
def clampInt (x lo hi : Int) : Int := if x < lo then lo else if hi < x then hi else x

/-- `RoundUp` of R108. -/
def roundUp (x a : Nat) : Nat := if a = 0 then x else ((x + a - 1) / a) * a

/-- `SignExtend` of a Nat's low `n` bits (R108). -/
def signedNat (x n : Nat) : Int := (BitVec.ofNat n x).toInt

/-- A bit of a number. -/
def bitOf (x i : Nat) : Bool := x.testBit i

/-- `Bits(x, hi, lo)` of R108 on numbers: `w` bits from `lo`. -/
def fieldOf (x lo w : Nat) : Nat := (x >>> lo) % 2 ^ w

/-! ## Byte strings -/

/-- The number that bytes hold, the first least significant (R4). -/
def natOfBytes : List Byte → Nat
  | [] => 0
  | b :: bs => b.toNat + 256 * natOfBytes bs

/-- The `n` low bytes of a number, least significant first (R4). -/
def bytesOfNat : Nat → Nat → List Byte
  | 0, _ => []
  | n + 1, x => BitVec.ofNat 8 x :: bytesOfNat n (x / 256)

/-- The word that eight bytes hold. -/
def wordOfBytes (bs : List Byte) : Word := BitVec.ofNat 64 (natOfBytes bs)

/-- The eight bytes of a word. -/
def bytesOfWord (w : Word) : List Byte := bytesOfNat 8 w.toNat

/-- Groups of `n` from a list; the last may be shorter. -/
def chunks {α : Type} (n : Nat) (l : List α) : List (List α) :=
  let rec go : Nat → List α → List (List α)
    | 0, _ => []
    | fuel + 1, l => if l.isEmpty then [] else l.take n :: go fuel (l.drop n)
  go l.length l

/-- `List.range n` mapped. -/
def tabulate {α : Type} (n : Nat) (f : Nat → α) : List α := (List.range n).map f

/-- A list with position `i` changed. -/
def listSet {α : Type} (l : List α) (i : Nat) (a : α) : List α := l.set i a

/-! ## Canonical byte lists -/

/-- Bytes of `base`, `base + 1`, ... that differ from what an unlisted address reads as. -/
def freshCells (dflt : Nat → Byte) (base : Nat) : List Byte → List Host.Cell
  | [] => []
  | b :: bs => if b = dflt base then freshCells dflt (base + 1) bs else (base, b) :: freshCells dflt (base + 1) bs

/-- The list with the bytes at `base` written, in canonical form. -/
def cellsWrite (dflt : Nat → Byte) (cs : List Host.Cell) (base : Nat) (bs : List Byte) : List Host.Cell :=
  cs.filter (fun c => c.1 < base) ++ freshCells dflt base bs ++ cs.filter (fun c => base + bs.length ≤ c.1)

/-- The byte at an address. -/
def cellsByte (dflt : Nat → Byte) (cs : List Host.Cell) (a : Nat) : Byte :=
  match cs.find? (fun c => c.1 == a) with
  | some c => c.2
  | none => dflt a

/-- `n` bytes from `base`. -/
def cellsRead (dflt : Nat → Byte) (cs : List Host.Cell) (base n : Nat) : List Byte :=
  let window := cs.filter (fun c => base ≤ c.1 && c.1 < base + n)
  tabulate n (fun i => cellsByte dflt window (base + i))

/-- Strictly rising addresses. -/
def cellsRise : List Host.Cell → Bool
  | [] => true
  | [_] => true
  | a :: b :: cs => a.1 < b.1 && cellsRise (b :: cs)

/-- The canonical form: addresses strictly rising, no byte equal to what an unlisted address reads as. -/
def cellsWf (dflt : Nat → Byte) (cs : List Host.Cell) : Bool := cellsRise cs && cs.all (fun c => c.2 != dflt c.1)

/-- What an unlisted byte of a scratchpad, a B-store or the staging window reads as (R59, R353; log 2). -/
def zeroByte : Nat → Byte := fun _ => 0

end Sys2Proof
end

