-- ==== Sys2Proof/Config.lean ====
section
/-! DEFINITION. What the part fixes, as the spec gives it, and the free values: opaque constants without a body, so
that no proof can learn a value the spec leaves open. Each free value is named in notes/assumptions. -/

namespace Sys2Proof.Config

/-- Compute cores of the device (R2). -/
def cores : Nat := 2048
/-- Clusters of the device, 32 on each of 8 dies (R2, R31). -/
def clusters : Nat := 256
/-- Installed main memory in bytes, 1 TiB (R2). -/
def hbmBytes : Nat := 2 ^ 40
/-- Bytes behind one of the 16 HBM stacks. DESIGN CHOICE (log 12): stack `n` holds PA bits [39:36] = `n`. -/
def stackBytes : Nat := 2 ^ 36
/-- Spare lines of one stack (R358). -/
def sparesPerStack : Nat := 4096
/-- Span of one core's allocation in the cluster window (R60). -/
def coreSpan : Nat := 512 * 1024
/-- Span of one core's B-store in the model's own numbering of a gang's B-store bytes (R2: 2 MiB per core). -/
def bstoreSpan : Nat := 2 * 1024 * 1024
/-- Core cycles in one 10 ns tick (R5). -/
def cyclesPerTick : Nat := 15
/-- Tasks that may be admitted and incomplete at once (R69). -/
def maxTasks : Nat := 4096
/-- The minor version that this device implements (R1, R105). -/
def isaMinor : Nat := 2

/-- FREE VALUE (log 13). What a byte of a stack reads after the stack has been returned to service: its contents are
unknown (R354). The arguments are the count of returns and the physical address. -/
opaque freeByte : Nat → Nat → Byte

/-- FREE VALUE (log 14). Whether the watch filter reports a write that was not made (R277). -/
opaque falseMutated : Nat → Bool

/-- FREE VALUE (log 115). The cycle at which a cache writes a copy back of its own accord (R178, R322), by the draw of the store that
made the copy. -/
opaque backAt : Nat → Nat

/-- FREE VALUE (log 115). The cycle from which the accesses of a mapping, by ASID and VA / 32, have missed their caches since memory
took a version, by the version's draw (R322). -/
opaque missAt : Nat → Nat → Nat → Nat

/-- FREE VALUE (log 116). Whether a fetch, or the next store, finds a word of code as it stood before a store of the task (R129). -/
opaque oldWord : Nat → Bool

/-- Lines that the register cache of one core holds, 256 KiB (R2, R51). -/
def registerLines : Nat := 1024

/-- FREE VALUE (log 120). Which line of the register cache is evicted when another needs its place (R51). -/
opaque evictedLine : Nat → Nat

/-- FREE VALUE (log 121). Whether a deposit lands in the cycle in which the target's group reads the mailbox that it then writes (R57). -/
opaque landsBetween : Nat → Bool

/-- FREE VALUE (log 122). How many of the loads into `lq` that may be in flight have not arrived when `qstat` looks (R177). -/
opaque stillInFlight : Nat → Nat

/-- FREE VALUE (log 123). What the bytes of an SRAM word read once an uncorrectable error has disabled its line (R358). -/
opaque lostByte : Nat → Nat → Byte

/-- FREE VALUE (log 124). The snapshot registers of blocks other than the cores, by the latch's SEQ, the packets that the receiver has
discarded (R386) and the offset, and the firmware's descriptor of them (R356). -/
opaque snapshotBlock : Nat → Nat → Nat → BitVec 64

/-- FREE VALUE (log 23). The bytes of a packet beyond the head's sixteen, by their place: the spec gives operations no layout (R386). -/
opaque operationByte : Payload → Nat → Byte

/-- FREE VALUE (log 23). The payload of a link-control flit, by what it says and the place of the byte: the spec gives no layout. -/
opaque controlByte : Nat → List Nat → Nat → Byte

/-- FREE VALUE (log 141). Whether the inactive slot had been written when power was lost during a firmware swap (R353). -/
opaque slotWritten : Nat → Bool

/-- FREE VALUE (log 15). Whether an image's signature verifies under the fused key (R351); the image layout is not given. -/
opaque imageVerifies : List Byte → Bool

/-- FREE VALUE (log 15). The security version that an image's header carries (R351). -/
opaque imageVersion : List Byte → BitVec 32

/-- FREE VALUE (log 16). On which side of a rounding boundary an exp2, log2 or reciprocal root lies when an enclosure
of 2^-320 relative width does not decide it (R162). -/
opaque hardCase : Nat → Nat → Bool

end Sys2Proof.Config
end

