-- ==== Sys2Proof/Machine/Num.lean ====
section
/-! DEFINITION. Numbers: the formats of R211 to R213, RoundTo (R214, R215), the exact operations of the vector float
family with their special values (R162, R163), and comparison (R167, R168). -/

namespace Sys2Proof

/-! ## Flags -/

/-- The six sticky flags (R216). -/
abbrev Flags := BitVec 6
def Flags.nv : Flags := 1
def Flags.dz : Flags := 2
def Flags.ovf : Flags := 4
def Flags.uf : Flags := 8
def Flags.nx : Flags := 16
def Flags.sat : Flags := 32
def Flags.when (c : Bool) (f : Flags) : Flags := if c then f else 0

/-! ## Formats -/

/-- A floating-point format (R211). -/
structure Fmt where
  width : Nat
  mant : Nat
  bias : Nat
  /-- exponent and significand fields of the largest finite value -/
  maxE : Nat
  maxM : Nat
  hasInf : Bool
  hasNan : Bool
  /-- the canonical NaN (R163, R213) -/
  nan : Nat
  deriving DecidableEq, Repr

def Fmt.f32 : Fmt := ⟨32, 23, 127, 254, 0x7FFFFF, true, true, 0x7FC00000⟩
def Fmt.f16 : Fmt := ⟨16, 10, 15, 30, 0x3FF, true, true, 0x7E00⟩
def Fmt.bf16 : Fmt := ⟨16, 7, 127, 254, 0x7F, true, true, 0x7FC0⟩
def Fmt.e4m3 : Fmt := ⟨8, 3, 7, 15, 6, false, true, 0x7F⟩
def Fmt.e5m2 : Fmt := ⟨8, 2, 15, 30, 3, true, true, 0x7E⟩
def Fmt.e2m1 : Fmt := ⟨4, 1, 1, 3, 1, false, false, 0⟩

/-- The format of a float type; f32 stands for the types that have none. -/
def ElemType.fmt : ElemType → Fmt
  | .f16 => .f16
  | .bf16 => .bf16
  | .e4m3 => .e4m3
  | .e5m2 => .e5m2
  | .e2m1 => .e2m1
  | _ => .f32

/-- An exact or enclosed real: a finite magnitude lies in [m * 2^e, (m + 1) * 2^e), and is exactly m * 2^e unless
`sticky`, when it lies strictly inside. -/
inductive Real where
  | nan
  | inf (neg : Bool)
  | fin (neg : Bool) (m : Nat) (e : Int) (sticky : Bool)
  deriving DecidableEq, Repr

def Real.zero (neg : Bool) : Real := .fin neg 0 0 false

/-- Fields of a pattern (R211). -/
def Fmt.expField (f : Fmt) (x : Nat) : Nat := fieldOf x f.mant (f.width - 1 - f.mant)
def Fmt.manField (f : Fmt) (x : Nat) : Nat := x % 2 ^ f.mant
def Fmt.signField (f : Fmt) (x : Nat) : Bool := x.testBit (f.width - 1)
def Fmt.topE (f : Fmt) : Nat := 2 ^ (f.width - 1 - f.mant) - 1

/-- The pattern is a NaN (R211). -/
def Fmt.isNan (f : Fmt) (x : Nat) : Bool :=
  f.hasNan && f.expField x == f.topE &&
    (if f.hasInf then f.manField x != 0 else f.manField x == 2 ^ f.mant - 1)

/-- The NaN is signalling (R213); the NaN of e4m3 counts as quiet. -/
def Fmt.isSnan (f : Fmt) (x : Nat) : Bool := f.isNan x && f.hasInf && !x.testBit (f.mant - 1)

/-- The value of a pattern (R211). -/
def Fmt.value (f : Fmt) (x : Nat) : Real :=
  let e := f.expField x
  let m := f.manField x
  if f.isNan x then .nan
  else if f.hasInf && e == f.topE then .inf (f.signField x)
  else if e = 0 then .fin (f.signField x) m (1 - (f.bias : Int) - f.mant) false
  else .fin (f.signField x) (2 ^ f.mant + m) ((e : Int) - f.bias - f.mant) false

/-- A pattern from its fields. -/
def Fmt.pattern (f : Fmt) (neg : Bool) (e m : Nat) : Nat := (if neg then 2 ^ (f.width - 1) else 0) + e * 2 ^ f.mant + m

/-! ## Rounding -/

/-- One xorshift step of SEED (R215 step 1). -/
def seedStep (x : BitVec 32) : BitVec 32 :=
  let x := x ^^^ (x <<< 13)
  let x := x ^^^ (x >>> 17)
  x ^^^ (x <<< 5)

/-- The draw of lane `i` (R215 step 2). -/
def seedDraw (seed : BitVec 32) (i : Nat) : Nat := ((seed + BitVec.ofNat 32 i * 0x9E3779B9#32) * 0x85EBCA6B#32).toNat / 2 ^ 16

/-- The magnitude at or below `m * 2^e` in units of 2^q, what lies below in 2^-17 units with a flag for anything lost:
the kept integer, the fraction's first 17 bits, and whether any lower part is nonzero. -/
def keepBits (m : Nat) (sticky : Bool) (shift : Int) : Nat × Nat × Bool :=
  match shift with
  | .negSucc k => (m * 2 ^ (k + 1), 0, sticky)
  | .ofNat s =>
    if Nat.log2 m + 32 < s then (0, 0, sticky || m != 0)
    else
      let frac := m % 2 ^ s
      let top := frac * 2 ^ 17 / 2 ^ s
      (m / 2 ^ s, top, sticky || top * 2 ^ s != frac * 2 ^ 17)

/-- Whether the kept magnitude rises by one unit (R94, R215); `top` is the first 17 fraction bits, `low` the rest. -/
def roundsUp (mode : Rounding) (draw : Nat) (neg : Bool) (k top : Nat) (low : Bool) : Bool :=
  let inexact := top != 0 || low
  match mode with
  | .rne => 2 ^ 16 < top || (top == 2 ^ 16 && (low || k % 2 == 1))
  | .rz => false
  | .rp => inexact && !neg
  | .rm => inexact && neg
  | .rna => 2 ^ 16 ≤ top
  | .rs => 2 ^ 16 ≤ top / 2 + draw
  | .ro => inexact && k % 2 == 0

/-- Overflow of a rounded magnitude (R214 step 4). -/
def overflowTo (f : Fmt) (mode : Rounding) (nsat neg : Bool) : Nat × Flags :=
  let largest := f.pattern neg f.maxE f.maxM
  let infinite := f.pattern neg f.topE 0
  if f.hasInf then
    let isInf := match mode with
      | .rne | .rna | .rs => true
      | .rz | .ro => false
      | .rp => !neg
      | .rm => neg
    (if isInf then infinite else largest, Flags.ovf ||| Flags.nx)
  else if nsat then (f.nan, Flags.ovf ||| Flags.nx)
  else (largest, Flags.sat ||| Flags.nx)

/-- RoundTo (R214, R215): the delivered pattern and the flags. -/
def roundTo (f : Fmt) (mode : Rounding) (draw : Nat) (nsat : Bool) (x : Real) : Nat × Flags :=
  match x with
  | .nan => (f.nan, Flags.when (!f.hasNan) Flags.nv)
  | .inf neg =>
    if f.hasInf then (f.pattern neg f.topE 0, 0)
    else if nsat then (f.nan, Flags.ovf ||| Flags.nx)
    else (f.pattern neg f.maxE f.maxM, Flags.sat ||| Flags.nx)
  | .fin neg m e sticky =>
    if m = 0 ∧ sticky = false then (f.pattern neg 0 0, 0)
    else
      let top : Int := e + Nat.log2 m
      let emin : Int := 1 - (f.bias : Int)
      let q : Int := (if top < emin then emin else top) - f.mant
      let (k, frac, low) := keepBits m sticky (q - e)
      let inexact := frac != 0 || low
      let k' := if roundsUp mode draw neg k frac low then k + 1 else k
      let (k', q) := if k' = 2 ^ (f.mant + 1) then (2 ^ f.mant, q + 1) else (k', q)
      if k' < 2 ^ f.mant then
        (f.pattern neg 0 k', Flags.when inexact (Flags.nx ||| Flags.uf))
      else
        let ef : Int := q + f.mant + f.bias
        let mf := k' - 2 ^ f.mant
        if (f.maxE : Int) < ef ∨ (ef = f.maxE ∧ f.maxM < mf) then overflowTo f mode nsat neg
        else (f.pattern neg ef.toNat mf, Flags.when inexact (Flags.nx ||| Flags.when (decide (top < emin)) Flags.uf))

/-- A real rounded to an integer (R218: float to integer); `draw` serves mode RS. -/
def roundToInt (mode : Rounding) (draw : Nat) (neg : Bool) (m : Nat) (e : Int) (sticky : Bool) : Int × Bool :=
  let (k, frac, low) := keepBits m sticky (-e)
  let k' := if roundsUp mode draw neg k frac low then k + 1 else k
  (if neg then -(k' : Int) else k', frac != 0 || low)

/-! ## Exact arithmetic -/

/-- Signed mantissa. -/
def signedMant (neg : Bool) (m : Nat) : Int := if neg then -(m : Int) else m

/-- The exact sum of two finite dyadic numbers; an exact zero takes the sign that R163 gives. -/
def addFin (mode : Rounding) (n1 : Bool) (m1 : Nat) (e1 : Int) (n2 : Bool) (m2 : Nat) (e2 : Int) : Real :=
  let e := if e1 < e2 then e1 else e2
  let s : Int := signedMant n1 (m1 * 2 ^ (e1 - e).toNat) + signedMant n2 (m2 * 2 ^ (e2 - e).toNat)
  if s = 0 then .zero (if n1 = n2 then n1 else mode == .rm)
  else .fin (decide (s < 0)) s.natAbs e false

/-- a + b; the flag is invalid (R163). -/
def realAdd (mode : Rounding) (a b : Real) : Real × Flags :=
  match a, b with
  | .nan, _ | _, .nan => (.nan, 0)
  | .inf n1, .inf n2 => if n1 = n2 then (.inf n1, 0) else (.nan, Flags.nv)
  | .inf n, _ => (.inf n, 0)
  | _, .inf n => (.inf n, 0)
  | .fin n1 m1 e1 _, .fin n2 m2 e2 _ => (addFin mode n1 m1 e1 n2 m2 e2, 0)

def Real.neg : Real → Real
  | .nan => .nan
  | .inf n => .inf (!n)
  | .fin n m e s => .fin (!n) m e s

/-- The sign of a real; false for a NaN. -/
def Real.signBit : Real → Bool
  | .nan => false
  | .inf n => n
  | .fin n .. => n

def Real.isZero : Real → Bool
  | .fin _ m _ s => m == 0 && !s
  | _ => false

/-- a * b. -/
def realMul (a b : Real) : Real × Flags :=
  match a, b with
  | .nan, _ | _, .nan => (.nan, 0)
  | .fin n1 m1 e1 _, .fin n2 m2 e2 _ => (.fin (n1 != n2) (m1 * m2) (e1 + e2) false, 0)
  | x, y => if x.isZero || y.isZero then (.nan, Flags.nv) else (.inf (x.signBit != y.signBit), 0)

/-- a / b, enclosed to 64 bits beyond the divisor. -/
def realDiv (a b : Real) : Real × Flags :=
  match a, b with
  | .nan, _ | _, .nan => (.nan, 0)
  | .inf _, .inf _ => (.nan, Flags.nv)
  | .inf n, .fin n2 .. => (.inf (n != n2), 0)
  | .fin n .., .inf n2 => (.zero (n != n2), 0)
  | .fin n1 m1 e1 _, .fin n2 m2 e2 _ =>
    if m2 = 0 then (if m1 = 0 then (.nan, Flags.nv) else (.inf (n1 != n2), Flags.dz))
    else
      let k := 80 + Nat.log2 m2
      let num := m1 * 2 ^ k
      (.fin (n1 != n2) (num / m2) (e1 - e2 - k) (num % m2 != 0), 0)

/-- The integer square root, bit by bit from bit `k`. -/
def isqrtFrom (x : Nat) : Nat → Nat → Nat
  | 0, r => r
  | k + 1, r => let r' := r + 2 ^ k; isqrtFrom x k (if r' * r' ≤ x then r' else r)
def isqrt (x : Nat) : Nat := isqrtFrom x (Nat.log2 x / 2 + 1) 0

/-- √a. -/
def realSqrt (a : Real) : Real × Flags :=
  match a with
  | .nan => (.nan, 0)
  | .inf n => if n then (.nan, Flags.nv) else (.inf false, 0)
  | .fin n m e _ =>
    if m = 0 then (.zero n, 0)
    else if n then (.nan, Flags.nv)
    else
      let (m, e) := if e % 2 = 0 then (m, e) else (m * 2, e - 1)
      let big := m * 2 ^ 160
      let r := isqrt big
      (.fin false r (e / 2 - 80) (r * r != big), 0)

/-- 1 / √a. -/
def realRsqrt (a : Real) : Real × Flags :=
  match a with
  | .nan => (.nan, 0)
  | .inf n => if n then (.nan, Flags.nv) else (.zero false, 0)
  | .fin n m e _ =>
    if m = 0 then (.inf n, Flags.dz)
    else if n then (.nan, Flags.nv)
    else
      let (m, e) := if e % 2 = 0 then (m, e) else (m * 2, e - 1)
      let big := 2 ^ 320 / m
      let r := isqrt big
      (.fin false r (-(e / 2) - 160) (r * r * m != 2 ^ 320), 0)

/-! ## 2^a and log₂ a -/

/-- Fixed-point precision of the enclosures of 2^a and log₂ a. -/
def fixedP : Nat := 600

/-- An enclosure [lo, hi] of 2^f in units of 2^-fixedP, where `f` is read bit by bit: `root` encloses 2^(2^-j) for the
next bit j. -/
def exp2Bits : Nat → Nat → Nat → Nat → Nat → Nat → Nat × Nat
  | 0, _, _, _, lo, hi => (lo, hi)
  | k + 1, f, rLo, rHi, lo, hi =>
    let rLo := isqrt (rLo * 2 ^ fixedP)
    let rHi := isqrt (rHi * 2 ^ fixedP) + 1
    if f.testBit k then exp2Bits k f rLo rHi (lo * rLo / 2 ^ fixedP) (hi * rHi / 2 ^ fixedP + 1)
    else exp2Bits k f rLo rHi lo hi

/-- An enclosure of 2^a for finite a: lower and upper mantissas and the exponent; equal mantissas mean exact. -/
def exp2Fin (neg : Bool) (m : Nat) (e : Int) : Nat × Nat × Int :=
  match e with
  | .ofNat k => (1, 1, signedMant neg (m * 2 ^ k))
  | .negSucc k =>
    let s := k + 1
    let v : Int := signedMant neg m
    let i := v / (2 ^ s : Nat)
    let f := (v % (2 ^ s : Nat)).toNat
    if f = 0 then (1, 1, i)
    else
      let (lo, hi) := exp2Bits s f (2 * 2 ^ fixedP) (2 * 2 ^ fixedP) (2 ^ fixedP) (2 ^ fixedP)
      (lo, hi, i - fixedP)

/-- Binary digits of log₂ y for y in [1, 2): `n` digits by repeated squaring of an enclosure in units of 2^-fixedP;
none when the enclosure straddles 2. -/
def log2Bits : Nat → Nat → Nat → Nat → Option Nat
  | 0, _, _, acc => some acc
  | n + 1, lo, hi, acc =>
    let lo := lo * lo / 2 ^ fixedP
    let hi := hi * hi / 2 ^ fixedP + 1
    let two := 2 * 2 ^ fixedP
    if two ≤ lo then log2Bits n (lo / 2) (hi / 2 + 1) (2 * acc + 1)
    else if hi ≤ two then log2Bits n lo hi (2 * acc)
    else none

/-- A rounded transcendental value: the rounding of an enclosure's ends when they agree, else the free choice of log 16. -/
def roundEnclosed (f : Fmt) (mode : Rounding) (draw : Nat) (op a : Nat) (neg : Bool) (lo hi : Nat) (e : Int) : Nat × Flags :=
  let x := roundTo f mode draw false (.fin neg lo e true)
  let y := roundTo f mode draw false (.fin neg (hi - 1) e true)
  if x = y then x else if Config.hardCase op a then x else y

/-- `vfexp2` of a pattern (R162, R163). -/
def fpExp2 (f : Fmt) (mode : Rounding) (draw a : Nat) : Nat × Flags :=
  match f.value a with
  | .nan => (f.nan, 0)
  | .inf n => (f.pattern false (if n then 0 else f.topE) 0, 0)
  | .fin n m e _ =>
    let (lo, hi, ex) := exp2Fin n m e
    if lo = hi then roundTo f mode draw false (.fin false lo ex false)
    else roundEnclosed f mode draw 14 a false lo hi ex

/-- `vflog2` of a pattern (R162, R163). -/
def fpLog2 (f : Fmt) (mode : Rounding) (draw a : Nat) : Nat × Flags :=
  match f.value a with
  | .nan => (f.nan, 0)
  | .inf n => if n then (f.nan, Flags.nv) else (f.pattern false f.topE 0, 0)
  | .fin n m e _ =>
    if m = 0 then (f.pattern true f.topE 0, Flags.dz)
    else if n then (f.nan, Flags.nv)
    else
      let len := Nat.log2 m
      let ex : Int := e + len
      if m = 2 ^ len then
        roundTo f mode draw false (if ex = 0 then .zero false else .fin (decide (ex < 0)) ex.natAbs 0 false)
      else
        let y := m * 2 ^ (fixedP - len)
        match log2Bits 256 y y 0 with
        | some frac =>
          let v : Int := ex * (2 ^ 256 : Nat) + frac
          if v < 0 then roundTo f mode draw false (.fin true (v.natAbs - 1) (-256) true)
          else roundTo f mode draw false (.fin false v.natAbs (-256) true)
        | none =>
          let v : Int := ex * (2 ^ 256 : Nat)
          let side := Config.hardCase 15 a
          roundTo f mode draw false (.fin (decide (v < 0)) (if side then v.natAbs else v.natAbs - 1) (-256) true)

/-! ## The vector float operations on patterns -/

/-- NaN operands give the canonical NaN, with invalid when one is signalling (R163). -/
def nanOr (f : Fmt) (ops : List Nat) (r : Nat × Flags) : Nat × Flags :=
  if ops.any f.isNan then (f.nan, Flags.when (ops.any f.isSnan) Flags.nv) else r

/-- Round an exact result that came with flags of its own. -/
def deliver (f : Fmt) (mode : Rounding) (draw : Nat) (r : Real × Flags) : Nat × Flags :=
  let (p, fl) := roundTo f mode draw false r.1
  (p, fl ||| r.2)

def fpAdd (f : Fmt) (mode : Rounding) (draw a b : Nat) : Nat × Flags :=
  nanOr f [a, b] (deliver f mode draw (realAdd mode (f.value a) (f.value b)))
def fpSub (f : Fmt) (mode : Rounding) (draw a b : Nat) : Nat × Flags :=
  nanOr f [a, b] (deliver f mode draw (realAdd mode (f.value a) (f.value b).neg))
def fpMul (f : Fmt) (mode : Rounding) (draw a b : Nat) : Nat × Flags :=
  nanOr f [a, b] (deliver f mode draw (realMul (f.value a) (f.value b)))
def fpDiv (f : Fmt) (mode : Rounding) (draw a b : Nat) : Nat × Flags :=
  nanOr f [a, b] (deliver f mode draw (realDiv (f.value a) (f.value b)))

/-- ±(a × b) ± c, rounded once. Two rows of R163's table meet where 0 × ∞ has a quiet NaN beside it. DESIGN CHOICE (log 143): the row of
NaN operands decides, so that the result is the canonical NaN without invalid. -/
def fpFma (f : Fmt) (mode : Rounding) (negP negC : Bool) (draw a b c : Nat) : Nat × Flags :=
  let (p, fl) := realMul (f.value a) (f.value b)
  let p := if negP then p.neg else p
  let c' := if negC then (f.value c).neg else f.value c
  let (s, fl2) := realAdd mode p c'
  nanOr f [a, b, c] (deliver f mode draw (s, fl ||| fl2))

def fpSqrt (f : Fmt) (mode : Rounding) (draw a : Nat) : Nat × Flags := nanOr f [a] (deliver f mode draw (realSqrt (f.value a)))
def fpRcp (f : Fmt) (mode : Rounding) (draw a : Nat) : Nat × Flags :=
  nanOr f [a] (deliver f mode draw (realDiv (.fin false 1 0 false) (f.value a)))
def fpRsq (f : Fmt) (mode : Rounding) (draw a : Nat) : Nat × Flags := nanOr f [a] (deliver f mode draw (realRsqrt (f.value a)))

/-- a × 2^n (R162). -/
def fpScale (f : Fmt) (mode : Rounding) (draw a : Nat) (n : Int) : Nat × Flags :=
  let r := match f.value a with
    | .fin s m e st => Real.fin s m (e + n) st
    | x => x
  nanOr f [a] (roundTo f mode draw false r)

/-- The order of non-NaN patterns as signed magnitudes; −0 and +0 are told apart only by `zeros`. -/
def fpKey (f : Fmt) (x : Nat) (zeros : Bool) : Int :=
  let mag := x % 2 ^ (f.width - 1)
  if f.signField x then (if zeros then -(mag : Int) - 1 else -(mag : Int)) else mag

def fpMin (f : Fmt) (a b : Nat) : Nat × Flags :=
  nanOr f [a, b] (if fpKey f b true < fpKey f a true then b else a, 0)
def fpMax (f : Fmt) (a b : Nat) : Nat × Flags :=
  nanOr f [a, b] (if fpKey f a true < fpKey f b true then b else a, 0)
def fpAbs (f : Fmt) (a : Nat) : Nat := a % 2 ^ (f.width - 1)
def fpNeg (f : Fmt) (a : Nat) : Nat := a ^^^ 2 ^ (f.width - 1)

/-- `vfcmp` (R167): whether the condition holds, and invalid. -/
def fpCmp (f : Fmt) (c : VCond) (a b : Nat) : Bool × Flags :=
  let un := f.isNan a || f.isNan b
  let x := fpKey f a false
  let y := fpKey f b false
  let quiet := Flags.when (f.isSnan a || f.isSnan b) Flags.nv
  let loud := Flags.when un Flags.nv
  match c with
  | .eq => (!un && x == y, quiet)
  | .ne => (un || x != y, quiet)
  | .lt => (!un && decide (x < y), loud)
  | .ge => (!un && decide (y ≤ x), loud)
  | .le => (!un && decide (x ≤ y), loud)
  | .gt => (!un && decide (y < x), loud)
  | .uo => (un, quiet)
  | .or => (!un, quiet)

/-- The class of a pattern, a bit number of R168. -/
def fpClass (f : Fmt) (x : Nat) : Nat :=
  let neg := f.signField x
  let e := f.expField x
  if f.isNan x then (if f.isSnan x then 8 else 9)
  else if f.hasInf && e == f.topE then (if neg then 0 else 7)
  else if e = 0 then
    (if f.manField x = 0 then (if neg then 3 else 4) else (if neg then 2 else 5))
  else (if neg then 1 else 6)

/-- An integer as an exact real. -/
def Real.ofInt (x : Int) : Real := .fin (decide (x < 0)) x.natAbs 0 false

end Sys2Proof
end

