-- ==== Sys2Proof/Machine/State.lean ====
section
/-! DEFINITION. The whole state of one device as plain data: threads and their contexts, gangs, tasks, ports, the
scheduler, memory and translation, the engines, the streams, the links, and the host's registers. Each field's
documentation gives its width, the rule of spec/ that names it and its reset value; INVENTORY.md lists them. A field
marked MODEL is the model's own (a schedule, a wire, a bookkeeping time) and no state of the spec. -/

namespace Sys2Proof.Machine

/-! ## Memory -/

/-- Bytes by address, strictly rising, holding no byte equal to what an unlisted address reads as. -/
abbrev Cells := List Host.Cell

/-- Device memory by physical address (R2, R58: HBM, 1 TiB). -/
structure Memory where
  /-- Listed bytes | 2^40 x 8 | R58 | reset: nothing listed; an unlisted byte reads 0, DESIGN CHOICE (log 1). -/
  cells   : Cells
  /-- Stacks whose unlisted bytes are unknown since a return to service, with the count of that return | list | R354 | reset empty. -/
  unknown : List (Nat × Nat)
  deriving DecidableEq, Repr

/-- A word that a running task has stored, as a fetch may still find it (R129). -/
structure OldWord where
  /-- ASID of the store | 16 | R129 | not held. -/
  asid : Nat
  /-- physical address / 8 | 41 | R129 | not held. -/
  word : Nat
  /-- the task that stored | 16 | R129 | not held. -/
  task : Nat
  /-- the word before | 64 | R129 | not held. -/
  old  : Word
  deriving DecidableEq, Repr

/-- What a `tlbi` removes (R148). -/
inductive Shoot where
  | range (asid base len : Nat)
  | asid (asid : Nat)
  | all
  deriving DecidableEq, Repr

/-- A mapping's own lines hold a sector: tagged by ASID and VA (R309, R322). -/
structure VaCopy where
  /-- ASID | 16 | R309 | not held. -/
  asid  : Nat
  /-- VA / 32 | 52 | R309 | not held. -/
  va    : Nat
  /-- MODEL: the draw of the store that made the copy, by which it is written back. -/
  draw  : Nat
  /-- the 32 bytes, while the copy differs from memory or may | 256 | R178, R322 | not held. -/
  data  : Option (List Byte)
  /-- they await their write-back | 1 | R178 | not held. -/
  dirty : Bool
  /-- MODEL: how many of the sector's later memory versions the mapping has seen at least. -/
  floor : Nat
  deriving DecidableEq, Repr

/-- A sector that a store has reached through a cache or beside one: what memory holds, what it held before, as a mapping that has not
missed since may still read it, and the copies of the mappings that have stored (R178, R179, R315, R322). -/
structure HeldSector where
  /-- physical address / 32 | 39 | R178 | not held. -/
  sector  : Nat
  /-- what memory held at first | 256 | R315, R322 | not held. -/
  first   : List Byte
  /-- what memory has held since, newest last, each with the draw by which a mapping misses | list | R315, R322 | not held. -/
  later   : List (Nat × List Byte)
  /-- copies of the mappings that have stored | list | R178, R322 | not held. -/
  copies  : List VaCopy
  /-- shoot-downs, each with the versions that were there | list | R307 | not held. -/
  emptied : List (Shoot × Nat)
  deriving DecidableEq, Repr

/-- What the caches hold beside the one image of memory (R178, R179, R322), and words of code as they stood before a store (R129). -/
structure Copies where
  /-- Sectors that a store has reached | list | R178, R179, R315, R322 | reset empty. -/
  lines : List HeldSector
  /-- Words that incomplete tasks have stored, as a fetch may still find them | list | R129 | reset empty. -/
  code  : List OldWord
  /-- MODEL: count from which a cache's own choices are drawn. Reset 0, DESIGN CHOICE (log 7). -/
  drawn : Nat
  deriving DecidableEq, Repr

/-! ## Threads -/

/-- Run states of R30. -/
inductive Run where
  | active | resident | parked | halted | retired
  deriving DecidableEq, Repr

/-- TSTAT.BLOCK (R41). -/
inductive Block where
  | none | wait | gbar | bar | dbar | uni | regMiss | queue | ctxFault
  deriving DecidableEq, Repr

/-- The trap record (R327): eight words. -/
structure TrapRecord where
  /-- FPC | 64 | R327 | 0. -/
  fpc   : Word
  /-- INFO | 64 | R327 | 0. -/
  info  : Word
  /-- ADDR | 64 | R327 | 0. -/
  addr  : Word
  /-- saved REP state | 64 | R327 | 0. -/
  rep   : Word
  /-- RPC | 64 | R327 | 0. -/
  rpc   : Word
  /-- saved SS, bit 16 | 64 | R327 | 0. -/
  ss    : Word
  /-- instruction word of the trapping group | 64 | R327 | 0. -/
  iword : Word
  /-- traps taken, modulo 2^32 | 64 | R327 | 0. -/
  count : Word
  deriving DecidableEq, Repr

/-- One breakpoint or watchpoint entry: address word and control word (R335). -/
structure DebugEntry where
  /-- address word | 64 | R335 | 0. -/
  addr : Word
  /-- control word | 64 | R335 | 0. -/
  ctl  : Word
  deriving DecidableEq, Repr

/-- One matrix-queue entry (R228, R229, R239). -/
structure MxEntry where
  /-- the 64-byte command | 512 | R225 | not held. -/
  cmd     : BitVec 512
  /-- status register | 6 | R239 SR0, SR1 | not held. -/
  reg     : SReg
  /-- the engine has started it | 1 | R229, R239 (V0 and V1 clear) | not held. -/
  started : Bool
  /-- MODEL: order of pushes on the device, by which the engine takes the earliest (R229). -/
  stamp   : Nat
  /-- MODEL: the elements of C that the engine read when it started (R231, R238). -/
  base    : List Nat
  /-- MODEL: rows that a running `bload` or `cstore` has done; the last one's writes to other devices await their
  acknowledgements; it has written another device (R227, R254, R399). -/
  row     : Nat
  acking  : Bool
  wide    : Bool
  /-- MODEL: flags that the running command has raised so far (R234, R236). -/
  found   : BitVec 3
  deriving DecidableEq, Repr

/-- One copy-engine queue entry (R250). -/
structure CeEntry where
  /-- instruction word | 64 | R250 | 0. -/
  word     : Word
  /-- captured operands | 6 x 64 | R250 | 0. -/
  ops      : List Word
  /-- progress at suspension | 48 | R250 | 0. -/
  progress : BitVec 48
  /-- STARTED | 1 | R250 | 0. -/
  started  : Bool
  /-- HEAD, the entry pushed earlier | 1 | R250 | 0. -/
  head     : Bool
  deriving DecidableEq, Repr

/-- A set of lines of a context block (R51): bits 0 to 47 are the 256-byte lines of the register space, bit 48 is the control area. -/
abbrev Lines := BitVec 49

/-- One thread: what its context block holds (R40) while it is placed, and what the device keeps beside it. -/
structure Thread where
  /-- The thread's place: task instance, gang, rank | 16 + 32 + 5 | R27, R42 | as formed. -/
  id        : ThreadId
  /-- CBASE | 57 | R40, R77 | as formed. -/
  cbase     : Word
  /-- PC | 64 | R40 at 0x3000 | code entry at spawn. -/
  pc        : Word
  /-- TSTAT.RUN | 4 | R30, R41 | 0 at spawn. -/
  run       : Run
  /-- TSTAT.BLOCK | 4 | R41 | 0. -/
  block     : Block
  /-- TSTAT.HCAUSE | 8 | R41 | 0. -/
  hcause    : BitVec 8
  /-- TSTAT.SS | 1 | R41 | 0. -/
  ss        : Bool
  /-- TSTAT.TRAPEN | 32 | R41 | 0. -/
  trapen    : BitVec 32
  /-- VW_S | 16 | R40, R44 | 0x0000 at spawn. -/
  vwS       : BitVec 16
  /-- VW_K | 16 | R40, R44 | 0x0200 at spawn. -/
  vwK       : BitVec 16
  /-- VW_V | 16 | R40, R44 | 0x0400 at spawn. -/
  vwV       : BitVec 16
  /-- The register space, s, k and v registers as views of it | 12 KiB | R40, R44 | the arena's old bytes, except s1 to s3 at spawn (R43). -/
  regs      : RegSpace
  /-- valid bitmap | 1536 | R40, R48 | granules 1 to 3 at spawn. -/
  valid     : GranuleBits
  /-- pending bitmap | 1536 | R40, R50 | 0. -/
  pending   : GranuleBits
  /-- The lines of the context block held in the register cache: bits 0 to 47 the 256-byte lines of the register space, bit 48
  the control area's, which move together | 49 | R51 | none until placement. -/
  resident  : Lines
  /-- saved-wait area, four words | 4 x 64 | R40, R141 | 0. -/
  saved     : List Word
  /-- deposit counters of s48 to s55 | 8 x 8 | R40, R55 | 0. -/
  deposits  : List (BitVec 8)
  /-- uni sequence counter | 64 | R40, R110 | 0. -/
  uniCount  : Word
  /-- REP remaining count | 16 | R40, R114 | 0. -/
  repLeft   : BitVec 16
  /-- REP iteration | 16 | R40, R114 | 0. -/
  repIter   : BitVec 16
  /-- FLAGS, bits [5:0] | 6 | R216 | 0. -/
  flags     : BitVec 6
  /-- SEED | 32 | R43, R215 | by R43 at spawn. -/
  seed      : BitVec 32
  /-- instruction breakpoints 0 to 3 | 4 x 128 | R335 | 0. -/
  breaks    : List DebugEntry
  /-- watchpoints 0 to 3 | 4 x 128 | R335 | 0. -/
  watches   : List DebugEntry
  /-- trap record | 8 x 64 | R327 | 0. -/
  trapRec   : TrapRecord
  /-- TVEC | 64 | R144 | 0. -/
  tvec      : Word
  /-- lq entries, oldest first, at most four | 4 x 2048 | R175, R176 | empty. -/
  lq        : List VecBits
  /-- loads into lq whose data may not have arrived | 3 | R175, R177 LQFLY | 0. -/
  lqFly     : Nat
  /-- lq head index | 2 | R176 | 0. -/
  lqHead    : BitVec 2
  /-- sq entries, oldest first, at most four | 4 x 2048 | R176 | empty. -/
  sq        : List VecBits
  /-- sq head index | 2 | R176 | 0. -/
  sqHead    : BitVec 2
  /-- matrix-queue entry 0 | 512 + 8 | R239 | none. -/
  mx0       : Option MxEntry
  /-- matrix-queue entry 1 | 512 + 8 | R239 | none. -/
  mx1       : Option MxEntry
  /-- MXSTATE.HEAD: entry 1 was pushed earlier | 1 | R239 | 0. -/
  mxHead    : Bool
  /-- MXF, the matrix sticky flags AOVF, ASAT, ANAN | 3 | R210, R239 | 0. -/
  mxf       : BitVec 3
  /-- GEOMMN.M | 32 | R239 | 0. -/
  geomM     : BitVec 32
  /-- GEOMMN.N | 32 | R239 | 0. -/
  geomN     : BitVec 32
  /-- GEOMK.K | 32 | R239 | not written at spawn: the arena's old bytes. -/
  geomK     : BitVec 32
  /-- copy-engine queue entry 0 | 512 | R250 | none. -/
  ce0       : Option CeEntry
  /-- copy-engine queue entry 1 | 512 | R250 | none. -/
  ce1       : Option CeEntry
  /-- walk state of the running copy-engine command, words from 0x3D28 (the CRC word at 0x3FF8 is computed) | 90 x 64 | R250 | not written at spawn. -/
  walk      : List Word
  /-- ASIDX, the ASID that privileged instructions act on | 16 | R145 | the thread's own ASID. -/
  asidx     : BitVec 16
  /-- Mailboxes the thread itself has written since the last notice deposit | 8 | R331 | 0. -/
  mboxSeen  : BitVec 8
  /-- The deadline of the `wait` in progress, a tick | R135 | none. -/
  deadline  : Option Nat
  /-- Scalar registers whose last write was the status of a command that writes another device: reading one is an acquire
  at system scope | 64 | R205 | 0. -/
  wideStat  : BitVec 64
  /-- The thread arrived at the open phase of its barrier, or awaits the one after (R139) | 1 | false. -/
  nextPhase : Bool
  /-- The next group is the first after tresume or trapret | 1 | R337 | false. -/
  resumed   : Bool
  /-- The phase that a prefixed `bar` or `barw` awaited is complete: its group goes on without a second arrival | 1 | R185, R187 | false. -/
  passed    : Bool
  /-- The SC fence after a store or an atomic to another device waits for its acknowledgement | 1 | R174, R183, R198 | false. -/
  fencing   : Bool
  /-- First word of the group in which the thread is blocked, and its instruction word | 64 + 64 | R338 | 0. -/
  blockPC   : Word
  blockWord : Word
  /-- Issue slot held | 4 | R31, R81 | none until active. -/
  slot      : Option Nat
  /-- Cycle at which it took its slot | R32 | 0. -/
  seatedAt  : Nat
  /-- Cycle since which the thread has been blocked or halted without a break, or stalled | R32, R34 | 0. -/
  since     : Nat
  /-- Cycle at which a resident thread became ready | R33 | 0. -/
  readyAt   : Nat
  /-- Cycle of the last issue in the access half | R81 | 0. -/
  lastA     : Nat
  /-- Cycle of the last issue in the execute half | R81 | 0. -/
  lastE     : Nat
  /-- The thread has executed `retire` and its retirement has taken effect | 1 | R37 | false. -/
  gone      : Bool
  /-- The thread has written host memory since its last rfence | 1 | R374 | false. -/
  wroteHost : Bool
  /-- Bytes of a damaged control area that the host has still to rewrite before `tresume` resumes | 4096 | R340 | 0. -/
  damaged   : BitVec 4096
  /-- Granules held in the register cache with an uncorrectable error | 1536 | R340, R357 | 0. -/
  badRegs   : GranuleBits
  /-- Queue entries with an uncorrectable error, by their place: lq 0 to 3, sq 4 to 7 | 8 | R328, R340 | 0. -/
  badQueue  : BitVec 8
  /-- Mailboxes that the thread's last group has read and written: a deposit of its cycle may land between | 8 | R57 | 0. -/
  lately    : BitVec 8
  /-- MODEL: the parts of a `czero` under way that have been zeroed (R365: the 257th store waits at issue). At spawn 0. -/
  zeroed    : Nat
  /-- MODEL: the cycle before which the default schedule does not try the thread again: an attempt has just found it stalled
  or blocked (R81: only a thread that can issue is a candidate). At spawn 0. -/
  notBefore : Nat
  deriving DecidableEq, Repr

/-! ## Gangs and tasks -/

/-- One formed gang (R77 to R79). -/
structure Gang where
  /-- task instance | 16 | R27 | as formed. -/
  task     : Nat
  /-- linear gang index | 32 | R27 | as formed. -/
  index    : Nat
  /-- JOB of the gang's DMEM, kept from formation | 16 | R28, R42 | the ASID's job number at formation. -/
  job      : BitVec 16
  /-- cluster on which the gang is placed | 8 | R31, R74 | none until placed. -/
  cluster  : Option Nat
  /-- gbar phase | 32 | R78, R138 | 0. -/
  phase    : BitVec 32
  /-- gbar arrival mask | 32 | R78, R138 | 0. -/
  arrived  : BitVec 32
  /-- highest elect round won | 32 | R79 | 0. -/
  elected  : BitVec 32
  /-- elect counts by rank | 32 x 32 | R79, R142 | 0. -/
  elects   : List (BitVec 32)
  /-- uni: N | 64 | R79, R110 | 0. -/
  uniN     : Word
  /-- uni: OpenPC | 64 | R79, R110 | 0. -/
  uniPC    : Word
  /-- uni: Closed | 64 | R79, R110 | 0. -/
  uniClosed : Word
  /-- uni: arrival mask | 32 | R79, R110 | 0. -/
  uniArrived : BitVec 32
  /-- uni: executor rank | 5 | R79, R110 | 0. -/
  uniExec  : BitVec 5
  /-- uni: Open | 1 | R79, R110 | 0. -/
  uniOpen  : Bool
  /-- uni: Executed | 1 | R79, R112 | 0. -/
  uniDone  : Bool
  /-- Bytes of the open uni's group, and the registers its executor posts: scalar, mask and vector fields | R110 | none. -/
  uniPost  : List (Nat × Nat)
  /-- words of the open uni's group | R106, R110 | 0. -/
  uniWords : Nat
  /-- scratchpad bytes, keyed as the cluster window numbers them | 8 x allocation | R59, R60 | 0 at first placement. -/
  spad     : Cells
  /-- B-store bytes, keyed core x 2 MiB + bank x bytes per bank + bank byte | 8 x allocation | R224 | 0, DESIGN CHOICE (log 2). -/
  bstore   : Cells
  /-- Scratchpad words of 64 bits with an uncorrectable error, by key / 8 | R357, R358 | none. -/
  badPad   : List Nat
  /-- B-store words with an uncorrectable error, by key / 8 | R357, R358 | none. -/
  badB     : List Nat
  /-- The scheduler owes this gang a placement | 1 | R35, R73 | true when formed. -/
  ready    : Bool
  /-- Tick at which the gang last became ready | R73, R83 | as readied. -/
  readyAt  : Nat
  /-- Tick from which aging counts | R73, R83 | as readied. -/
  ageFrom  : Nat
  /-- effective priority | 3 | R73 | the card's priority. -/
  prio     : Nat
  /-- Order of the last placement | R82 | 0. -/
  placedAt : Nat
  /-- Parking under way: none, or why | R82 | none. -/
  parking  : Option Nat
  /-- The parked gang keeps its readiness (pre-empted, PARK or fence) | R83 | false. -/
  keptReady : Bool
  /-- A parking found the image page absent: not a victim while that page stays absent | R82 | false. -/
  imageLost : Bool
  /-- A parking has written the gang image, from which the next placement loads | 1 | R78, R83 | false. -/
  imaged   : Bool
  deriving DecidableEq, Repr

/-- A valid footprint of a card (R64). -/
structure Footprint where
  /-- base | 57 | R64. -/
  base  : Nat
  /-- length | 48 | R64. -/
  len   : Nat
  /-- READ | 1 | R64. -/
  read  : Bool
  /-- WRITE | 1 | R64. -/
  write : Bool
  deriving DecidableEq, Repr

/-- One admitted, incomplete task: its card's fields (R63) and its place in the admission order. -/
structure Task where
  /-- TASKN | 16 | R28 | assigned at admission. -/
  num    : Nat
  /-- ASID | 16 | R65 | the port's. -/
  asid   : Nat
  /-- card VA | 64 | R63, R144 TASKP. -/
  card   : Word
  /-- code entry VA | 64 | R63. -/
  entry  : Word
  /-- parameter block VA | 64 | R63. -/
  param  : Word
  /-- grid x | 32 | R63. -/
  gx     : Nat
  /-- grid y | 32 | R63. -/
  gy     : Nat
  /-- grid z | 32 | R63. -/
  gz     : Nat
  /-- gang size | 16 | R63. -/
  size   : Nat
  /-- OPAQUE | 1 | R64, R71. -/
  opaq   : Bool
  /-- CORES, co-resident | 1 | R64, R76. -/
  cores  : Bool
  /-- scratchpad bytes per core | 32 | R63. -/
  spad   : Nat
  /-- B-store bytes per core | 32 | R63. -/
  bstore : Nat
  /-- context arena VA | 64 | R63. -/
  arena  : Word
  /-- priority | 3 | R63. -/
  prio   : Nat
  /-- completion scope | 3 | R63. -/
  scope  : Nat
  /-- completion word VA | 64 | R63. -/
  done   : Word
  /-- completion value | 64 | R63. -/
  value  : Word
  /-- valid footprints | 8 x 128 | R64. -/
  feet   : List Footprint
  /-- incomplete tasks this one has an edge from | R70, R71. -/
  edges  : List Nat
  /-- every edge complete: the task's gangs are ready | 1 | R72. -/
  ready  : Bool
  /-- tick at which the task became ready | R73. -/
  readyAt : Nat
  /-- gangs formed so far, in ascending linear index | 32 | R73, R77. -/
  formed : Nat
  /-- threads whose retirement has taken effect | R37, R38. -/
  retired : Nat
  /-- the completion word on another device has been sent and is not yet written | 1 | R38. -/
  closing : Bool
  /-- effective priority of the gangs not yet formed | 3 | R73. -/
  prioEff : Nat
  /-- tick from which the unformed gangs' aging counts | R73. -/
  ageFrom : Nat
  deriving DecidableEq, Repr

/-! ## Submission ports -/

/-- SPSTAT.STATE (R65). -/
inductive PortState where
  | idle | busy | waiting | stopped
  deriving DecidableEq, Repr

/-- One submission port's registers and what it works on (R65, R66). -/
structure Port where
  /-- SPHEAD.HEAD | 64 | R65 | 0. -/
  head   : Word
  /-- SPASID.ASID | 16 | R65 | 0. -/
  asid   : Nat
  /-- SPSTAT.STATE | 2 | R65 | idle. -/
  state  : PortState
  /-- SPSTAT.CODE | 8 | R65, R68 | 0. -/
  code   : BitVec 8
  /-- SPSTAT.LOST | 1 | R65 | 0. -/
  lost   : Bool
  /-- SPSTAT.CARDS | 24 | R65 | 0. -/
  cards  : BitVec 24
  /-- SPCTL.HOLD | 1 | R65 | 0. -/
  hold   : Bool
  /-- SPFAIL.CARD | 64 | R65 | 0. -/
  fail   : Word
  /-- VA of the next card of the chain | 64 | R66 | 0. -/
  next   : Word
  /-- the thread and status register of a chain submitted by `spawn` | R130 | none. -/
  spawner : Option (ThreadId × SReg)
  /-- cards admitted from the chain in progress | R130 | 0. -/
  count  : Nat
  deriving DecidableEq, Repr

/-! ## Translation -/

/-- One held translation of a valid leaf. Page-check entries carry the core; memory-side and egress entries the number
of the store that holds them (R306, R309). -/
structure TlbEntry where
  /-- holder: core of a page-check cache, or memory-side TLB number | 11 | R306, R309. -/
  holder : Nat
  /-- ASID; a GLOBAL leaf matches every one | 16 | R306, R313. -/
  asid   : Nat
  /-- page VA | 57 | R306. -/
  page   : Nat
  /-- page size in bytes | R305. -/
  size   : Nat
  /-- the leaf as read: attributes, and the frame where the store holds one | 64 | R305, R306, R309. -/
  leaf   : Word
  /-- the 2 MiB region whose walk filled a memory-side entry; 0 elsewhere | 36 | R309. -/
  region : Nat
  deriving DecidableEq, Repr

/-- A walk in flight that has read its leaf and has not filled yet (R323). -/
structure Walk where
  /-- core whose page-check cache asked | 11 | R306. -/
  core   : Nat
  /-- ASID of the requester | 16 | R312. -/
  asid   : Nat
  /-- VA | 57 | R312. -/
  va     : Word
  /-- TLB epoch at the walk's start | 32 | R323. -/
  epoch  : BitVec 32
  /-- page VA, size and leaf read, and where the leaf lies | R312. -/
  page   : Nat
  size   : Nat
  leaf   : Word
  leafPA : Nat
  /-- the requester's ASID lacks PRIV | 1 | R313. -/
  user   : Bool
  deriving DecidableEq, Repr

/-- A migration under way (R320). -/
structure Migration where
  /-- ASID | 16 | R320. -/
  asid   : Nat
  /-- page VA and size | R320. -/
  page   : Nat
  size   : Nat
  /-- new frame number | 32 | R320. -/
  frame  : Nat
  /-- where the leaf lies and the value read | 44, 64 | R320. -/
  leafPA : Nat
  leaf   : Word
  /-- the pgmig that asked: thread and status register | R149 | none for a counted one. -/
  asker  : Option (ThreadId × SReg)
  /-- the peer's answer, once it has come: the page's bytes | R320. -/
  data   : Option (List Byte)
  /-- tick at which the peer was asked | R320. -/
  asked  : Nat
  deriving DecidableEq, Repr

/-- A local copy of a line of a mode-2 page (R317). -/
structure RemoteLine where
  /-- ASID | 16 | R317. -/
  asid  : Nat
  /-- sector VA | 57 | R317. -/
  va    : Nat
  /-- remote epoch of the fill | R317. -/
  epoch : Nat
  /-- the 32 bytes | 256 | R317. -/
  data  : List Byte
  deriving DecidableEq, Repr

/-! ## Remote accesses, streams and fabric commands -/

/-- The decoder of a running `xpand`, as its state block would hold it (R271). -/
structure Xpand where
  /-- input bit position | 64 | R271 | 0. -/
  pos      : Nat
  /-- output bytes written to memory | 64 | R271 | 0. -/
  out      : Nat
  /-- the tile being filled, 0 to 4,095 bytes | R269, R271 | empty. -/
  tile     : List Byte
  /-- BFINAL seen | 1 | R271 | 0. -/
  final    : Bool
  /-- BTYPE | 2 | R271 | 0. -/
  btype    : Nat
  /-- inside a block | 1 | R271 | 0. -/
  inside   : Bool
  /-- stored bytes remaining | 32 | R271 | 0. -/
  stored   : Nat
  /-- pending match: length remaining and distance | 9 + 16 | R271 | 0. -/
  matchLen : Nat
  matchDist : Nat
  /-- history window, newest byte first, at most 32,768 | R269, R271 | the dictionary. -/
  history  : List Byte
  /-- code lengths: 288 literal/length, then 32 distance | 320 x 8 | R271 | 0. -/
  lens     : List Nat
  deriving DecidableEq, Repr

/-- Who waits for an answer from outside the device. -/
inductive Owner where
  | thread (t : ThreadId)
  | engine (t : ThreadId)
  | matrix (t : ThreadId)
  | flushHost (t : ThreadId)
  /-- a no-return atomic on host memory: the core whose error word takes its refusal, and the thread -/
  | hostNr (core : Nat) (t : ThreadId)
  /-- a write of an `mst` to one rank -/
  | rank (t : ThreadId) (r : Nat)
  /-- the completion word of a task on another device -/
  | completion (task : Nat)
  | fill (asid : Nat)
  | forward (src core : BitVec 16) (key : Nat)
  deriving DecidableEq, Repr

/-- What was asked: bytes at a VA, or an atomic (R369, R371, R373). -/
inductive Asked where
  | bytes (va : Word) (n : Nat)
  | atomic (va : Word)
  deriving DecidableEq, Repr

/-- How an outside access ended (R369, R373). -/
inductive Answer where
  | data (bytes : List Byte)
  | old (value : Word)
  | fail (why : RemoteFail)
  deriving DecidableEq, Repr

/-- A load or returning atomic outside the device that its issuer waits for (R369, R373). -/
structure Pending where
  /-- tag of the request | MODEL numbering. -/
  tag    : Nat
  /-- who waits | R369. -/
  owner  : Owner
  /-- what was asked | R369. -/
  asked  : Asked
  /-- tick of sending | R369. -/
  sent   : Nat
  /-- remote epoch at the request, under which a line that it brings is filled | R317. -/
  epoch  : Nat
  /-- TLB epoch at the request, under which a line that it brings is filled | 32 | R307, R323. -/
  tlb    : BitVec 32
  /-- the answer fills no line: a store of this device to the same bytes was under way at the request or has followed it, or data asked
  for by another may be fetched later | 1 | R191, R317. -/
  stale  : Bool
  /-- the answer, once it has come | R369. -/
  answer : Option Answer
  deriving DecidableEq, Repr

/-- An operation in a sender's resend buffer (R365, R368). -/
structure TxOp where
  /-- the frame as sent | R365, R386. -/
  frame : Frame
  /-- who issued it | R374, R376. -/
  owner : Owner
  /-- tick first sent, tick last sent | R368. -/
  first : Nat
  last  : Nat
  /-- tick of the translation that it was issued under | R253, R307. -/
  since : Nat
  deriving DecidableEq, Repr

/-- A write of an engine's unit that waits at issue for room in its stream (R365, R399). -/
structure OutOp where
  /-- source core | 11 | R364. -/
  core  : Nat
  /-- target device | 16 | R364. -/
  dev   : BitVec 16
  /-- who issued it | R374, R376. -/
  owner : Owner
  /-- job of the ASID | 16 | R386. -/
  job   : BitVec 16
  /-- ASID whose local copies the write updates | 16 | R317. -/
  asid  : Nat
  /-- VA | 64 | R369. -/
  va    : Nat
  /-- the bytes of one sector at most | R365. -/
  data  : List Byte
  /-- flush bit | 1 | R367. -/
  flush : Bool
  /-- tick of the translation that it was issued under | R253, R307. -/
  since : Nat
  deriving DecidableEq, Repr

/-- The sender's end of one stream (R364, R365, R370). -/
structure TxStream where
  /-- source core | 11 | R364. -/
  core   : Nat
  /-- target device | 16 | R364. -/
  dev    : BitVec 16
  /-- SENT, next number to give | 16 | R365, R370 | 0. -/
  sent   : BitVec 16
  /-- ACKED, first number not acknowledged | 16 | R365, R370 | 0. -/
  acked  : BitVec 16
  /-- generation | 8 | R365, R368 | 0. -/
  gen    : BitVec 8
  /-- resend buffer, oldest first, at most 256 | R365 | empty. -/
  unacked : List TxOp
  /-- FAILS | 16 | R370 | 0. -/
  fails  : Nat
  /-- EDETAIL | 8 | R370 | 0. -/
  edetail : Nat
  /-- ECODE | 8 | R370 | 0. -/
  ecode  : Nat
  deriving DecidableEq, Repr

/-- The target's end of one stream (R365, R366). -/
structure RxStream where
  /-- source device | 16 | R364. -/
  src    : BitVec 16
  /-- source core | 16 | R364. -/
  core   : BitVec 16
  /-- next, the first number not applied | 16 | R365 | 0. -/
  next   : BitVec 16
  /-- generation | 8 | R365 | 0. -/
  gen    : BitVec 8
  /-- reorder window, at most 63 held | R365 | empty. -/
  window : List Frame
  /-- operations applied since the last acknowledgement | R366 | 0. -/
  since  : Nat
  /-- tick of the last arrival | R366 | 0. -/
  last   : Nat
  /-- failures of stores and `.nr` atomics not yet reported to the sender | R369, R370, R372 | empty. -/
  fails  : List (BitVec 16 × RemoteFail)
  deriving DecidableEq, Repr

/-- A rank's outcome in an mldr or mst (R361, R362, R376). -/
inductive RankState where
  | waiting
  | data (bytes : List Byte)
  | acked
  | missing (detail : Nat)
  deriving DecidableEq, Repr

/-- A running mldr or mst (R361, R376). -/
structure RankCmd where
  /-- tag | MODEL numbering. -/
  tag   : Nat
  /-- the issuing thread | R361. -/
  owner : ThreadId
  /-- members of the group, in rank order, as taken at the start | R361, R376. -/
  devs  : List (BitVec 16)
  /-- each rank's outcome | R361, R362, R376. -/
  ranks : List RankState
  /-- tick of the requests | R362. -/
  sent  : Nat
  deriving DecidableEq, Repr

/-- The sender's side of a gsend (R300, R301). -/
structure SendState where
  /-- tag | MODEL numbering. -/
  tag    : Nat
  /-- the issuing thread | R300. -/
  owner  : ThreadId
  /-- target device and intake | R300. -/
  dev    : BitVec 16
  intake : Nat
  /-- tick of the last frame sent | R301. -/
  sent   : Nat
  /-- all objects sent, the root's close frame is out | R300. -/
  closed : Bool
  /-- the receiver's answer: code, detail, progress | R300, R301. -/
  answer : Option (Nat × Nat × Nat)
  deriving DecidableEq, Repr

/-- The receiver's side of an open gsend (R300, R301). -/
structure Receive where
  /-- sender device, core and tag | R300. -/
  src     : BitVec 16
  core    : BitVec 16
  tag     : Nat
  /-- objects taken: sender VA and new VA, and each new object's pointer words | R300. -/
  taken   : List (Word × Word)
  points  : List (Word × List Nat)
  /-- arena bump, head and live count at open, and as the intake last wrote them | R301. -/
  opened  : List Word
  wrote   : List Word
  /-- tick of the last frame | R301. -/
  last    : Nat
  /-- tick at which the sender's overflow paused the intake | R301. -/
  paused  : Option Nat
  deriving DecidableEq, Repr

/-- One intake slot (R299). -/
structure Intake where
  /-- bound ASID | 16 | R299. -/
  asid  : Nat
  /-- descriptor VA | 64 | R299. -/
  desc  : Word
  /-- the open transfer | R300 | none. -/
  open' : Option Receive
  /-- frames of senders that wait for the intake, in order of arrival, with the tick of each | R300, R301 | empty. -/
  queue : List (Frame × Nat)
  deriving DecidableEq, Repr

/-- One open or past phase of a domain of level 2 to 5 (R139). -/
structure Domain where
  /-- level | 3 | R139. -/
  level   : Nat
  /-- task instance (level 2), ASID (level 3) or job number (levels 4, 5) | 16 | R29. -/
  key     : Nat
  /-- phase number | 32 | R139, R141 | 0. -/
  phase   : BitVec 32
  /-- the phase is open | 1 | R139 | false. -/
  open'   : Bool
  /-- tasks whose threads are members of the open phase | R139 | empty. -/
  members : List Nat
  /-- threads arrived | R139 | empty. -/
  arrived : List ThreadId
  /-- devices that reported, with the phase each reported | R139 | empty. -/
  reports : List (BitVec 16 × BitVec 32)
  /-- phases that this device has reported, each with the device that heard of it | R139 | empty. -/
  told    : List (BitVec 16 × BitVec 32)
  deriving DecidableEq, Repr

/-! ## Cores -/

/-- What one core keeps beside its threads. -/
structure Core where
  /-- core number | 11 | R61. -/
  num     : Nat
  /-- rotation pointer of the access half, a slot number | 4 | R81 | 0. -/
  turnA   : Nat
  /-- rotation pointer of the execute half | 4 | R81 | 0. -/
  turnE   : Nat
  /-- last thread the copy engine served | R249 | none. -/
  ceTurn  : Option ThreadId
  /-- host-path error word: FAILS, EDETAIL, ECODE | 16 + 8 + 8 | R373 | 0. -/
  hostFails : Nat
  hostDetail : Nat
  hostCode : Nat
  /-- groups issued by the access half | 64 | R356 | 0. -/
  groupsA : Nat
  /-- groups issued by the execute half | 64 | R356 | 0. -/
  groupsE : Nat
  /-- register misses | 64 | R356 | 0. -/
  misses  : Nat
  /-- cycles with 16 active threads | 64 | R356 | 0. -/
  full    : Nat
  /-- matrix k-steps | 64 | R356 | 0. -/
  ksteps  : Nat
  /-- copy-engine units | 64 | R356 | 0. -/
  units   : Nat
  deriving DecidableEq, Repr

/-! ## Links and routers -/

/-- A link's state (R383, R387, R388). -/
inductive LinkState where
  | dark | up | down
  deriving DecidableEq, Repr

/-- One link: local link 0 to 30 by position, or 32 + q for braid q (R381, R388). -/
structure Link where
  /-- number | 7 | R388. -/
  num     : Nat
  /-- state | R383, R388 | dark until joined. -/
  state   : LinkState
  /-- the peer's join record | R383 | none. -/
  peer    : Option JoinData
  /-- next SEQ to give | 12 | R385 | 0. -/
  txNext  : BitVec 12
  /-- replay buffer: flits not acknowledged, each with its frame and its place in it | at most 2048 flits | R387 | empty. -/
  replay  : List (BitVec 12 × Frame × Nat)
  /-- next SEQ expected | 12 | R385, R387 | 0. -/
  rxNext  : BitVec 12
  /-- a frame whose head is accepted, and the body flits still to come | R386, R387 | none. -/
  inFrame : Option (Frame × Nat)
  /-- STOP bits last received | 6 | R389 | 0, every bit after a retraining until the first flit (R388). -/
  stopped : BitVec 6
  /-- a NAK is outstanding, and the cycle of its last sending | R387 | none. -/
  nakAt   : Option Nat
  /-- times the oldest flit has been resent | R387 | 0. -/
  resends : Nat
  /-- failed retraining attempts in succession | R388 | 0. -/
  tries   : Nat
  /-- tick of the last failed attempt | R388 | none. -/
  retryAt : Option Nat
  /-- trained, this end's join record sent and the peer's awaited | 1 | R383, R388 | false. -/
  trained : Bool
  /-- live laser feeds of a braid | 4 | R382, R391 | all. -/
  feeds   : BitVec 4
  /-- words sent since the dealing of a braid began | R382 | 0. -/
  words   : Nat
  /-- feeds whose dealing the receiver of a braid is aligned to | 4 | R382, R391 | none: that of the first flit after training. -/
  rxFeeds : Option (BitVec 4)
  /-- feeds lost whose records are due; on a braid that is up, a restripe is in progress | R391 | none. -/
  striping : List Nat
  /-- frames queued for this output, each with its lane | R390 | empty. -/
  queue   : List Frame
  deriving DecidableEq, Repr

/-- One input buffer of the router (R389): an input port and lane. Port 128 is the device's own endpoint. -/
structure RouterBuf where
  /-- port | R389. -/
  port   : Nat
  /-- lane 0 to 5 | R389. -/
  lane   : Nat
  /-- frames held, oldest first | R389 | empty. -/
  frames : List Frame
  /-- cycle since which the head has found no output | R392 | none. -/
  stuck  : Option Nat
  /-- the head packet is a suspect | 1 | R392 | false. -/
  suspect : Bool
  deriving DecidableEq, Repr

/-- What a flit holds: a head or a body flit of a frame, nothing, or what a link-control flit says (R383, R385 to R387, R391, R393). -/
inductive FlitLoad where
  | head (f : Frame)
  | body (f : Frame) (i : Nat)
  | idle
  | nak (seq : BitVec 12)
  | token (gen tmo : Nat)
  | tokenLost
  | marker (live : BitVec 4)
  | markerAck (live : BitVec 4)
  | join (rec : JoinData)
  deriving DecidableEq, Repr

/-- A flit that leaves the device on a link: its control word (R385), on a braid the wavelength of each of its words (R382), and what it
holds (MODEL: wires). -/
structure Wire where
  /-- MODEL: link number | 7 | R381 | as sent. -/
  link  : Nat
  /-- MODEL: control word | 64 | R385 | as sent. -/
  word  : Word
  /-- MODEL: wavelengths of its words | list | R382 | as sent. -/
  waves : List Nat
  /-- MODEL: what it holds | 448 | R385, R386 | as sent. -/
  load  : FlitLoad
  deriving DecidableEq, Repr

/-- What leaves the device through PCI Express (MODEL: wires). -/
inductive PcieOut where
  | write (t : ThreadId) (asid : Nat) (va : Word) (data : List Byte)
  | read (tag : Nat) (asid : Nat) (va : Word) (bytes : Nat)
  | atomic (tag : Nat) (asid : Nat) (va : Word) (kind : AtomKind) (ty : ElemType) (b c : Word)
  | record (addr : Nat) (words : List Word)
  | vector (n : Nat)
  | completion (data : List Byte)
  deriving DecidableEq, Repr

/-! ## Host registers and service -/

/-- FENCESTAT states (R354). -/
inductive FenceState where
  | inService | draining | fenced | recalibrating
  deriving DecidableEq, Repr

/-- FWSTAT.STATE (R353). -/
inductive FwState where
  | idle | windowOpen | verifying | swapping
  deriving DecidableEq, Repr

/-- What the signed configuration and the installation give the part (R349, R351, R384, R392). -/
structure Site where
  /-- recorded device number, 0xFFFF for none | 16 | R384. -/
  devnum  : BitVec 16
  /-- deadlock time-out in microseconds, 1 to 64 | R392. -/
  tmo     : Nat
  /-- features the silicon offers | 64 | R350. -/
  offer   : Word
  /-- units that pass training: dies [7:0], stacks [23:8], optics [25:24] | 26 | R349, R350. -/
  units   : Word
  /-- the fabric's shape: device, port and peer device of each joined link | R381, R390; MODEL: how routers know it is not given. -/
  shape   : List (BitVec 16 × Nat × BitVec 16)
  /-- the PCI Express link retrains to full width and rate, and the part is cool enough to start | R349. -/
  linkOk  : Bool
  coolOk  : Bool
  /-- a root complex with PASID support, and one that completes AtomicOps | R346, R373. -/
  pasid   : Bool
  atomicOps : Bool
  deriving DecidableEq, Repr

/-- The event buffer's registers (R347). -/
structure EventBuf where
  /-- EVBASE | 64 | R346, R347 | 0, DESIGN CHOICE (log 3). -/
  base   : Word
  /-- EVCTL.VEC | 6 | R347 | 0. -/
  vec    : BitVec 6
  /-- EVCTL.LOGN | 5 | R347 | 0. -/
  logn   : BitVec 5
  /-- EVCTL.OVF | 1 | R347 | 0. -/
  ovf    : Bool
  /-- EVCTL.EN | 1 | R347 | 0. -/
  en     : Bool
  /-- EVHEAD | 20 | R347 | 0, DESIGN CHOICE (log 3). -/
  head   : Nat
  /-- EVTAIL | 20 | R347 | 0, DESIGN CHOICE (log 3). -/
  tail   : Nat
  /-- EVLOST | 64 | R347 | 0, DESIGN CHOICE (log 3). -/
  lost   : Nat
  /-- sequence number of the next record | 32 | R348 | 0, DESIGN CHOICE (log 3). -/
  seq    : BitVec 32
  /-- a vector has been sent since the host last wrote EVTAIL | 1 | R347 | false. -/
  sent   : Bool
  /-- records held during a firmware swap | R352 | empty. -/
  held   : List (List Word)
  deriving DecidableEq, Repr

/-- Firmware registers, slots and window (R351 to R353). -/
structure Firmware where
  /-- FWCTL.LEN | 32 | R353 | 0. -/
  len    : BitVec 32
  /-- LEN of the update that ACT began | 32 | R352, R353 | 0. -/
  taken  : BitVec 32
  /-- FWCTL.COMMIT | 1 | R353 | 0. -/
  commit : Bool
  /-- FWSTAT.RUNVER | 32 | R353 | the running image's; 0, DESIGN CHOICE (log 4). -/
  runver : BitVec 32
  /-- FWSTAT.RESULT | 8 | R353 | 0. -/
  result : BitVec 8
  /-- FWSTAT.SLOT, slot B runs | 1 | R353 | A, DESIGN CHOICE (log 4). -/
  slot   : Bool
  /-- FWSTAT.STATE | 2 | R353 | idle. -/
  state  : FwState
  /-- staging window | 16 MiB | R353 | 0. -/
  window : Cells
  /-- image slots A and B | R351 | empty, DESIGN CHOICE (log 4). -/
  slotA  : List Byte
  slotB  : List Byte
  /-- security-version floor in fuses | 32 | R351 | 0, DESIGN CHOICE (log 4). -/
  floor  : BitVec 32
  deriving DecidableEq, Repr

/-- Snapshot registers (R145, R355, R356). -/
structure Snapshot where
  /-- SNAPCTL.SEQ | 32 | R145 | 0. -/
  seq     : BitVec 32
  /-- SNAPCTL.EVENT | 8 | R145 | 0. -/
  event   : BitVec 8
  /-- SNAPCTL.KEEP | 1 | R145 | 0. -/
  keep    : Bool
  /-- SNAPCTL.EVEN | 1 | R145 | 0. -/
  even    : Bool
  /-- triggers under way: the tick each came and which | R355 | none. -/
  armed   : List (Nat × Nat)
  /-- header: latch tick and trigger | 64, 64 | R356 | 0, DESIGN CHOICE (log 5). -/
  tick    : Nat
  trigger : Nat
  /-- latched count of packets discarded | R386 | 0. -/
  discards : Nat
  /-- latched words of each core that has any nonzero | 2048 x 8 x 64 | R356 | 0, DESIGN CHOICE (log 5). -/
  cores   : List (Nat × List Nat)
  deriving DecidableEq, Repr

/-- BOOTSTAT and the start (R349). -/
structure Boot where
  /-- CODE | 8 | R349 | 0. -/
  code   : BitVec 8
  /-- STATUS | 2 | R349 | 0. -/
  status : BitVec 2
  /-- STAGE | 2 | R349 | 1. -/
  stage  : BitVec 2
  /-- STEP | 4 | R349 | 0. -/
  step   : BitVec 4
  deriving DecidableEq, Repr

/-- A register write that an engine or a posting makes in a thread (R50, R110). -/
inductive RegWrite where
  | scalar (n : SReg) (v : Word)
  | wideStatus (n : SReg) (v : Word)
  | vector (n : VReg) (v : VecBits)
  | mask (n : KReg) (v : MaskBits)
  | unpend (n : VReg)
  | mxFlags (f : BitVec 3)
  /-- NPEND of the trap record is cleared (R331) -/
  | npend
  deriving DecidableEq, Repr

/-- A write held until a context page translates (R50). -/
structure Deferred where
  /-- the thread | R50. -/
  owner   : ThreadId
  /-- CBASE, by which the event names it | R50. -/
  cbase   : Word
  /-- the register writes, in order | R50. -/
  writes  : List RegWrite
  /-- a posting: the thread's new PC and uni counter | R110 | none for an engine's. -/
  posting : Option (Word × Word)
  deriving DecidableEq, Repr

/-- Notices of one ASID (R331). -/
structure NoticeQueue where
  /-- ASID | 16 | R331. -/
  asid  : Nat
  /-- notices held, in the order of the halts: CBASE + cause, and the thread when a thread halted | R331 | empty. -/
  held  : List (Word × Option ThreadId)
  /-- the receiver and mailbox of the last notice deposited, until the receiver writes it | R331 | none. -/
  last  : Option (ThreadId × Nat)
  deriving DecidableEq, Repr

/-- What a move of the schedule runs (MODEL): a thread's group, an event, or the step of its own hardware that is due. -/
inductive Agent where
  | thread (t : ThreadId)
  | event (i : Instr)
  | own
  deriving DecidableEq, Repr

/-- One move of the schedule: core cycles that pass, then who acts (MODEL). -/
structure Move where
  cycles : Nat
  agent  : Agent
  deriving DecidableEq, Repr

/-- What an action of the running cycle was, where a rule orders the actions of one cycle (MODEL). -/
inductive CycleMark where
  /-- an access to a line at its home: its class, source device, core and number (R371) -/
  | access (line : Nat) (rank : List Nat)
  /-- an access to a line of a gang's scratchpad: task, gang, line and class (R187) -/
  | pad (task gang line : Nat) (rank : List Nat)
  /-- a matrix command of a thread ends, and `mxflag` reads and clears its flags (R243) -/
  | mxEnd (t : ThreadId)
  | mxClear (t : ThreadId)
  /-- an arrival that opened a `uni`: task, gang and rank (R110) -/
  | uni (task gang rank : Nat)
  /-- a thread's k-th `elect`: task, gang, k and rank (R142) -/
  | elect (task gang k rank : Nat)
  /-- a deposit into a thread: a `gput` by its sender's rank, or a `gsend` by 32 (R56, R57) -/
  | deposit (t : ThreadId) (sender : Nat)
  deriving DecidableEq, Repr

/-- The page that a segment of a copy-engine command holds while the segment waits for data (R253). -/
structure HeldPage where
  /-- the command's thread | R253. -/
  owner : ThreadId
  /-- page VA and bytes | R253. -/
  page  : Nat
  size  : Nat
  /-- the leaf | 64 | R253. -/
  leaf  : Word
  /-- translated for a write | 1 | R253. -/
  write : Bool
  /-- tick of the translation | R307. -/
  since : Nat
  deriving DecidableEq, Repr

/-- The whole device. -/
structure State where
  /-- MODEL: the schedule still to be played; with none left, the default order of Step.lean. Reset empty, DESIGN CHOICE (log 6). -/
  agenda   : List Move
  /-- MODEL: the thread that issues now. Reset the absent thread 0, 0, 0, DESIGN CHOICE (log 6). -/
  cur      : ThreadId
  /-- MODEL: count from which free values are drawn. Reset 0, DESIGN CHOICE (log 7). -/
  fresh    : Nat
  /-- MODEL: next tag of a request, stamp of a push or order of a placement. Reset 0, DESIGN CHOICE (log 7). -/
  stamp    : Nat
  /-- core cycles since power-good; the tick count is cycles / 15 | 64 | R5, R142 | 0. -/
  cycle    : Nat
  /-- MODEL: what the actions of one cycle were, and that cycle. Reset empty and 0, DESIGN CHOICE (log 7). -/
  marks    : List CycleMark
  marksAt  : Nat
  /-- device memory | R58 | Memory.reset. -/
  mem      : Memory
  /-- what the caches hold beside the image of memory, and old words of code | R129, R178, R179, R322 | none. -/
  copies   : Copies
  /-- HBM lines with an uncorrectable error | R358 | none, DESIGN CHOICE (log 8). -/
  badLines : List Nat
  /-- HBM lines with a corrected error not yet scrubbed, by line | R357 | none, DESIGN CHOICE (log 8). -/
  softLines : List Nat
  /-- lines retired to spares | R358 | none. -/
  retired  : List Nat
  /-- 4 KiB frames made non-resident when spares ran out | R358 | none. -/
  lostFrames : List Nat
  /-- units in whose SRAM an error has been corrected that is not counted yet | R357 | none, DESIGN CHOICE (log 8). -/
  softSram : List Nat
  /-- corrected errors of each unit since its last record, and the tick of that record | R357 | empty. -/
  softCount : List (Nat × Nat × Nat)
  /-- what the installation gives | R384, R392 | Site.reset. -/
  site     : Site
  /-- DEVNUM | 16 | R384 | 0xFFFF until start step 4, DESIGN CHOICE (log 9). -/
  devnum   : BitVec 16
  /-- BOOTSTAT | 16 | R349 | stage 1. -/
  boot     : Boot
  /-- FEATOFF0 | 64 | R350 | 0 until start step 5. -/
  featOff0 : Word
  /-- FEATOFF1 | 64 | R350 | 0 until start step 5. -/
  featOff1 : Word
  /-- FEATACC0 | 64 | R350 | 0, DESIGN CHOICE (log 3). -/
  featAcc0 : Word
  /-- FEATACC1 | 64 | R350 | 0, DESIGN CHOICE (log 3). -/
  featAcc1 : Word
  /-- FEATLOCK has been written | 1 | R350 | false. -/
  featLock : Bool
  /-- ASIDDIR.BASE | 20 | R311 | 0. -/
  dirBase  : BitVec 20
  /-- ASIDDIR.EN | 1 | R311 | 0. -/
  dirEn    : Bool
  /-- event buffer | R347 | EventBuf.reset. -/
  events   : EventBuf
  /-- unit last named in FENCECTL | 8 | R354 | 0, DESIGN CHOICE (log 3). -/
  fenceSel : Nat
  /-- units not in service: 0-7 dies, 8-23 stacks, 24-119 braids | R354 | none. -/
  fences   : List (Nat × FenceState)
  /-- firmware update | R353 | Firmware.reset. -/
  fw       : Firmware
  /-- BAR0 registers as they stood when a firmware swap began, and the snapshot window | R352 | none. -/
  frozen   : Option (List (Nat × Word) × Snapshot)
  /-- snapshots | R355 | Snapshot.reset. -/
  snap     : Snapshot
  /-- the 64 submission ports | R65 | Port.reset each. -/
  ports    : List Port
  /-- port at which the admission rotation stands | 6 | R69 | 0. -/
  portTurn : Nat
  /-- admitted, incomplete tasks in admission order | R69 | empty. -/
  tasks    : List Task
  /-- next TASKN to try | 16 | R28 | 0. -/
  nextTask : Nat
  /-- formed gangs of incomplete tasks | R77 | empty. -/
  gangs    : List Gang
  /-- threads of formed gangs | R77 | empty. -/
  threads  : List Thread
  /-- die used by the last placement | 3 | R74 | none. -/
  lastDie  : Option Nat
  /-- ready gangs matched to a cluster whose parking makes room for them: task, gang (none for one not yet formed) and
  cluster | R34, R82 | none. -/
  matched   : List (Nat × Option Nat × Nat)
  /-- reserved cluster, and the gang it is reserved for | R74 | none. -/
  reserved : Option (Nat × Nat × Nat)
  /-- gang last seen at the head of the order, and since which tick | R74, R82 | none. -/
  headGang : Option (Nat × Nat × Nat)
  /-- scratchpad ceilings set by spsplit, by cluster; otherwise 448 KiB | R150 | none. -/
  ceilings : List (Nat × Nat)
  /-- cores that hold anything beside their threads | R81, R356 | none. -/
  coreTab  : List Core
  /-- core and half at which the default issue order stands | MODEL | 0. -/
  turn     : Nat
  /-- page-check entries of every core | R306 | empty. -/
  pageCheck : List TlbEntry
  /-- entries of the 16 memory-side TLBs | R309 | empty. -/
  memTlb   : List TlbEntry
  /-- entries of the egress TLBs | R309 | empty. -/
  egress   : List TlbEntry
  /-- TLB epoch | 32 | R323 | 0, DESIGN CHOICE (log 10). -/
  epoch    : BitVec 32
  /-- MODEL: tick of the last `tlbi`, before which accesses may be in flight under an older translation (R307). Reset 0,
  DESIGN CHOICE (log 10). -/
  shotAt   : Nat
  /-- walks in flight | R323 | none. -/
  walks    : List Walk
  /-- migrations under way | R320 | none. -/
  migs     : List Migration
  /-- migration counters: ASID, 4 KiB page VA and count, newest first, at most 4096 a stack | R318 | empty. -/
  counters : List (Nat × Nat × Nat)
  /-- ASIDs whose empty pool has been reported, with the pool's count then | R319 | none. -/
  poolSaid : List (Nat × Nat)
  /-- last FORWARDED record of each page: ASID, VA and tick | R321 | none. -/
  fwdSaid  : List (Nat × Nat × Nat)
  /-- remote epoch | R317 | 0, DESIGN CHOICE (log 10). -/
  remEpoch : Nat
  /-- local copies of mode-2 sectors | R317 | empty. -/
  remLines : List RemoteLine
  /-- watch filter of `.st` commands: ASID and walk table, physical line, whether a write has reached it | R277 | empty. -/
  watched  : List (Nat × Nat × Nat × Bool)
  /-- decoders of running `xpand` commands: as they stand, and as they were before the last unit | R269 | none. -/
  xpands   : List (ThreadId × Xpand × Xpand)
  /-- stack words that a held walk table has had at once: ASID, descriptor VA, words and the issuing thread | R285, R286 | none. -/
  heldTabs : List (Nat × Nat × Nat × ThreadId)
  /-- transfers whose pause has expired, until their sender is told: source device and tag | R301 | none. -/
  lapsed   : List (BitVec 16 × Nat)
  /-- slots that hold the entries of a walk table in use: ASID, descriptor VA and slots | R276, R285 | none. -/
  walkUsed : List (Nat × Nat × List Nat)
  /-- pointer words of `gcopy` copies whose target has no new VA yet: ASID and walk table, place of the word, old target | R293 | empty. -/
  fixups   : List (Nat × Nat × Nat × Word)
  /-- loads and returning atomics that wait for an answer from outside | R369 | none. -/
  pends    : List Pending
  /-- senders' stream ends | R364 | none. -/
  tx       : List TxStream
  /-- writes of engine units that wait for room in their streams, oldest first | R365 | none. -/
  outQ     : List OutOp
  /-- pages that waiting segments hold | R253 | none. -/
  segs     : List HeldPage
  /-- targets' stream ends | R365 | none. -/
  rx       : List RxStream
  /-- running mldr and mst commands | R361, R376 | none. -/
  rankCmds : List RankCmd
  /-- gsend commands under way | R300 | none. -/
  sends    : List SendState
  /-- the 64 intake slots | R299 | free. -/
  intakes  : List (Option Intake)
  /-- domains of levels 2 to 5 that have had an arrival | R139 | none. -/
  domains  : List Domain
  /-- AGBASE and the ASID that wrote it | 64 + 16 | R144, R379 | 0. -/
  agbase   : Word
  agAsid   : Nat
  /-- the device's own copies of the 256 address groups that are not empty | 256 x 1024 x 16 | R379 | empty. -/
  groups   : List (Nat × List (BitVec 16))
  /-- ASID of the thread that wrote each ASID's TRAPGANG | R145 | none. -/
  trapBy   : List (Nat × Nat)
  /-- notices held | R331 | none. -/
  notices  : List NoticeQueue
  /-- engine and posting writes held for a context page | R50 | none. -/
  deferred : List Deferred
  /-- links that have left the dark state or hold anything | R383 | none. -/
  links    : List Link
  /-- router input buffers that hold anything | R389 | none. -/
  bufs     : List RouterBuf
  /-- this router holds the recovery token | 1 | R393 | false. -/
  token    : Bool
  /-- newest token generation seen | R393 | 0, DESIGN CHOICE (log 11). -/
  tokenGen : Nat
  /-- group time-out taken from the token | R392 | the site's own until the first visit. -/
  tokenTmo : Option Nat
  /-- cycle at which the token was last seen | R393 | 0. -/
  tokenAt  : Nat
  /-- frames that have reached this endpoint and wait to be served | R386 | empty. -/
  inbox    : List Frame
  /-- packets discarded for a reserved OP or field | R386 | 0, DESIGN CHOICE (log 11). -/
  discards : Nat
  /-- MODEL: what has left on the links, oldest first. Reset empty. -/
  wires    : List Wire
  /-- MODEL: what has left through PCI Express, oldest first. Reset empty. -/
  pcie     : List PcieOut
  deriving DecidableEq, Repr

/-- Why the machine stops with a fault. -/
inductive Fault where
  /-- Raised by an instruction's meaning when the issuing thread of the state (`cur`) does not exist. No run raises it:
  only existing threads issue. SAFE: the model stops where the hardware has no such agent. -/
  | noThread
  /-- Raised by a step of the hardware that names a unit the device does not have (a core at or above 2,048, a port
  above 63, a link above 127). SAFE: the spec gives the device no such unit, and no such step happens. -/
  | noUnit
  deriving DecidableEq, Repr

/-- Why the machine refuses. -/
inductive Refusal where
  /-- Raised by an arm of `exec` whose instruction has no meaning yet. SAFE: nothing can be proved of it. -/
  | notModelled (mnemonic : String)
  deriving DecidableEq, Repr

/-! ## The state after reset -/

/-- Memory with nothing listed. -/
def Memory.reset : Memory := { cells := [], unknown := [] }

/-- A port after reset (R65). -/
def Port.reset : Port :=
  { head := 0, asid := 0, state := .idle, code := 0, lost := false, cards := 0, hold := false, fail := 0, next := 0,
    spawner := none, count := 0 }

/-- A core with nothing counted. -/
def Core.reset (c : Nat) : Core :=
  { num := c, turnA := 0, turnE := 0, ceTurn := none, hostFails := 0, hostDetail := 0, hostCode := 0, groupsA := 0,
    groupsE := 0, misses := 0, full := 0, ksteps := 0, units := 0 }

/-- A link that has not been trained (R383). -/
def Link.reset (n : Nat) : Link :=
  { num := n, state := .dark, peer := none, txNext := 0, replay := [], rxNext := 0, inFrame := none, stopped := 0, nakAt := none,
    resends := 0, tries := 0, retryAt := none, trained := false, feeds := 15, words := 0, rxFeeds := none, striping := [], queue := [] }

/-- What a site with every unit working and no recorded device number gives. DESIGN CHOICE (log 9). -/
def Site.reset : Site :=
  { devnum := 0xFFFF, tmo := 8, offer := 0x7F, units := 0x3FFFFFF, shape := [], linkOk := true, coolOk := true, pasid := true, atomicOps := true }

/-- The event buffer after reset (R347). -/
def EventBuf.reset : EventBuf :=
  { base := 0, vec := 0, logn := 0, ovf := false, en := false, head := 0, tail := 0, lost := 0, seq := 0, sent := false,
    held := [] }

/-- The firmware registers after reset (R353). -/
def Firmware.reset : Firmware :=
  { len := 0, taken := 0, commit := false, runver := 0, result := 0, slot := false, state := .idle, window := [], slotA := [],
    slotB := [], floor := 0 }

/-- The snapshot registers after reset (R145). -/
def Snapshot.reset : Snapshot :=
  { seq := 0, event := 0, keep := false, even := false, armed := [], tick := 0, trigger := 0, discards := 0, cores := [] }

/-- The machine right after reset: power has not yet been reported good, nothing is placed, memory lists nothing. -/
def State.reset : State :=
  { agenda := [], cur := ⟨0, 0, 0⟩, fresh := 0, stamp := 0, cycle := 0, marks := [], marksAt := 0, mem := Memory.reset, copies := { lines := [], code := [], drawn := 0 }, badLines := [],
    softLines := [], retired := [], lostFrames := [], softSram := [], softCount := [], site := Site.reset, devnum := 0xFFFF,
    boot := { code := 0, status := 0, stage := 1, step := 0 }, featOff0 := 0, featOff1 := 0, featAcc0 := 0,
    featAcc1 := 0, featLock := false, dirBase := 0, dirEn := false, events := EventBuf.reset, fenceSel := 0,
    fences := [], fw := Firmware.reset, frozen := none, snap := Snapshot.reset, ports := List.replicate 64 Port.reset, portTurn := 0,
    tasks := [], nextTask := 0, gangs := [], threads := [], lastDie := none, matched := [], reserved := none, headGang := none,
    ceilings := [], coreTab := [], turn := 0, pageCheck := [], memTlb := [], egress := [], epoch := 0, shotAt := 0, walks := [],
    migs := [], counters := [], poolSaid := [], fwdSaid := [], remEpoch := 0, remLines := [], watched := [], xpands := [], heldTabs := [], lapsed := [], walkUsed := [], fixups := [],
    pends := [], tx := [], outQ := [], segs := [], rx := [], rankCmds := [], sends := [], intakes := List.replicate 64 none, domains := [],
    agbase := 0, agAsid := 0, groups := [], trapBy := [], notices := [], deferred := [], links := [], bufs := [],
    token := false, tokenGen := 0, tokenTmo := none, tokenAt := 0, inbox := [], discards := 0, wires := [],
    pcie := [] }

end Sys2Proof.Machine
end

