-- ==== Sys2Proof/Machine/Mem.lean ====
section
/-! DEFINITION. The parts of the state by name: threads, gangs, tasks, cores; device memory by physical address (R58,
R315, R358); and the host's event records (R347, R348, R355). -/

namespace Sys2Proof.Machine

/-! ## Threads, gangs, tasks, cores -/

/-- The thread of an id. -/
def State.thread? (s : State) (id : ThreadId) : Option Thread := s.threads.find? (fun t => t.id == id)

/-- The state with a thread put back in its place. -/
def State.setThread (s : State) (t : Thread) : State :=
  { s with threads := s.threads.map (fun u => if u.id = t.id then t else u) }

/-- A thread changed where it stands. -/
def State.onThread (s : State) (id : ThreadId) (f : Thread → Thread) : State :=
  match s.thread? id with
  | some t => s.setThread (f t)
  | none => s

def State.gang? (s : State) (task index : Nat) : Option Gang := s.gangs.find? (fun g => g.task == task && g.index == index)
def State.setGang (s : State) (g : Gang) : State :=
  { s with gangs := s.gangs.map (fun h => if h.task = g.task ∧ h.index = g.index then g else h) }
def State.onGang (s : State) (task index : Nat) (f : Gang → Gang) : State :=
  match s.gang? task index with
  | some g => s.setGang (f g)
  | none => s

def State.task? (s : State) (num : Nat) : Option Task := s.tasks.find? (fun k => k.num == num)
def State.setTask (s : State) (k : Task) : State := { s with tasks := s.tasks.map (fun j => if j.num = k.num then k else j) }

/-- The gang and the task of a thread. -/
def State.gangOf (s : State) (t : Thread) : Option Gang := s.gang? t.id.task t.id.gang
def State.taskOf (s : State) (t : Thread) : Option Task := s.task? t.id.task

/-- The ASID of a thread: its task's. -/
def State.asidOf (s : State) (t : Thread) : Nat :=
  match s.taskOf t with
  | some k => k.asid
  | none => 0

/-- The threads of a gang. -/
def State.mates (s : State) (task index : Nat) : List Thread :=
  s.threads.filter (fun t => t.id.task == task && t.id.gang == index)

/-- The core of a rank on a cluster (R25): thread of rank t runs on core t mod 8. -/
def coreOfRank (cluster rank : Nat) : Nat := cluster * 8 + rank % 8

/-- The core on which a thread runs; none while its gang is not placed. -/
def State.coreOf (s : State) (t : Thread) : Option Nat :=
  match s.gangOf t with
  | some g => g.cluster.map (fun c => coreOfRank c t.id.rank)
  | none => none

/-- COREID: die × 256 + cluster × 8 + core (R61, R144); linear cluster numbers run 32 to a die. -/
def coreId (core : Nat) : Nat := core

def State.core (s : State) (c : Nat) : Core :=
  match s.coreTab.find? (fun k => k.num == c) with
  | some k => k
  | none => Core.reset c

def State.setCore (s : State) (k : Core) : State :=
  if s.coreTab.any (fun j => j.num == k.num) then
    { s with coreTab := s.coreTab.map (fun j => if j.num = k.num then k else j) }
  else { s with coreTab := s.coreTab ++ [k] }

/-- The device's tick count since power-good (R5, R142). -/
def State.tick (s : State) : Nat := s.cycle / Config.cyclesPerTick

/-- Ranks of a gang. -/
def State.gangSize (s : State) (t : Thread) : Nat :=
  match s.taskOf t with
  | some k => k.size
  | none => 1

/-! ## The order of the actions of one cycle -/

/-- One list of numbers stands before another. -/
def lexBefore : List Nat → List Nat → Bool
  | a :: as, b :: bs => decide (a < b) || (a == b && lexBefore as bs)
  | _, _ => false

/-- An action stands before another of the same cycle: accesses of one line by class, device, core and number (R187, R371), arrivals
at a `uni` (R110) and executions of one `elect` (R142) by rank, deposits by the sender's rank (R56), the read and clear of `mxflag`
before the end of a command (R243). -/
def CycleMark.before : CycleMark → CycleMark → Bool
  | .access l a, .access m b => l == m && lexBefore a b
  | .pad t g l a, .pad u h m b => t == u && g == h && l == m && lexBefore a b
  | .mxClear t, .mxEnd u => t == u
  | .uni t g r, .uni u h q => t == u && g == h && decide (r < q)
  | .elect t g k r, .elect u h l q => t == u && g == h && k == l && decide (r < q)
  | .deposit t a, .deposit u b => t == u && decide (a < b)
  | _, _ => false

/-- The actions of the running cycle. -/
def State.cycleMarks (s : State) : List CycleMark := if s.marksAt = s.cycle then s.marks else []

/-- An action takes place. One that the rules put before an action of the running cycle belongs to the next cycle. -/
def State.inOrder (s : State) (m : CycleMark) : State :=
  if s.cycleMarks.any m.before then { s with cycle := s.cycle + 1, marks := [m], marksAt := s.cycle + 1 }
  else { s with marks := s.cycleMarks ++ [m], marksAt := s.cycle }

/-- Features accepted at FEATLOCK (R350). -/
def State.feature (s : State) (bit : Nat) : Bool := s.featLock && s.featAcc0.getLsbD bit
def State.hasStash (s : State) : Bool := s.feature 0
def State.hasFabric (s : State) : Bool := s.feature 1
def State.hasMigrate (s : State) : Bool := s.feature 2
def State.hasIntake (s : State) : Bool := s.feature 4

/-! ## Device memory -/

/-- The stack of a physical address. DESIGN CHOICE (log 12). -/
def stackOf (pa : Nat) : Nat := pa / Config.stackBytes

/-- What an unlisted byte reads as: 0, or unknown since the stack's return (log 1, log 13; R354). -/
def Memory.dflt (m : Memory) (pa : Nat) : Byte :=
  match m.unknown.lookup (stackOf pa) with
  | some n => Config.freeByte n pa
  | none => 0

/-- The canonical form of device memory. -/
def Memory.wf (m : Memory) : Bool := cellsWf m.dflt m.cells

def Memory.read (m : Memory) (pa n : Nat) : List Byte := cellsRead m.dflt m.cells pa n
def Memory.write (m : Memory) (pa : Nat) (bs : List Byte) : Memory := { m with cells := cellsWrite m.dflt m.cells pa bs }

/-- The state of a unit of FENCECTL (R354). -/
def State.unitState (s : State) (unit : Nat) : FenceState :=
  match s.fences.lookup unit with
  | some f => f
  | none => .inService

/-- A stack is not served: fenced, recalibrating, or not accepted (R350, R354). -/
def State.stackOut (s : State) (stack : Nat) : Bool :=
  match s.unitState (8 + stack) with
  | .fenced | .recalibrating => true
  | _ => false

/-- A die is fenced. -/
def State.dieOut (s : State) (die : Nat) : Bool :=
  match s.unitState die with
  | .fenced | .recalibrating => true
  | _ => false

/-- The frame of a physical address is resident (R315, R354, R358). -/
def State.resident (s : State) (pa : Nat) : Bool :=
  decide (pa < Config.hbmBytes) && !s.stackOut (stackOf pa) && !s.lostFrames.contains (pa / 4096)

/-- The line of a physical address holds an uncorrectable error (R358). -/
def State.badAt (s : State) (pa n : Nat) : Bool := s.badLines.any (fun l => decide (l * 256 < pa + n ∧ pa < l * 256 + 256))

/-- An uncorrectable error or a frame that is not resident under `n` bytes of device memory (R315, R340, R354). -/
def State.dataBad (s : State) (pa n : Nat) : Bool := s.badAt pa n || !s.resident pa

def State.readPA (s : State) (pa n : Nat) : List Byte := s.mem.read pa n
def State.writePA (s : State) (pa : Nat) (bs : List Byte) : State := { s with mem := s.mem.write pa bs }

/-- The lines that hold `n` bytes at a physical address. -/
def linesOf (pa n : Nat) : List Nat := if n = 0 then [] else tabulate ((pa + n - 1) / 256 + 1 - pa / 256) (fun k => pa / 256 + k)

/-- How an access reaches device memory (R179, R309, R322): through a mapping of an ASID at a VA whose ceiling lets the caches hold what it
writes back later (`back`), or writes through (`through`), or with an EVICT that allocates nowhere (`around`); at the memory controller
(`memory`: an uncached mapping, the walker, a pool); or, for the device's own agents, whatever was stored last (`all`). -/
inductive Via where
  | all
  | memory
  | through (asid va : Nat)
  | back (asid va : Nat)
  | around (asid va : Nat)
  deriving DecidableEq, Repr

/-- The tag, ASID and VA / 32, of the `k`-th sector of an access. -/
def Via.tag (v : Via) (k : Nat) : Option (Nat × Nat) :=
  match v with
  | .through a va | .back a va | .around a va => some (a, va / 32 + k)
  | .all | .memory => none

/-- The sectors that hold `n` bytes at a physical address. -/
def sectorsOn (pa n : Nat) : List Nat := if n = 0 then [] else tabulate ((pa + n - 1) / 32 + 1 - pa / 32) (fun k => pa / 32 + k)

def VaCopy.tagged (c : VaCopy) (asid va : Nat) : Bool := c.asid == asid && c.va == va

/-- What memory holds of a sector. -/
def HeldSector.latest (e : HeldSector) : List Byte := match e.later.getLast? with
  | some v => v.2
  | none => e.first

/-- The copy of a mapping. -/
def HeldSector.copy? (e : HeldSector) (asid va : Nat) : Option VaCopy := e.copies.find? (fun c => c.tagged asid va)

/-- A mapping's copy with its data; one that holds none has seen what memory holds. -/
def HeldSector.setCopy (e : HeldSector) (c : VaCopy) : HeldSector :=
  { e with copies := e.copies.filter (fun d => !d.tagged c.asid c.va) ++ [c] }

/-- A copy leaves its cache: written back, whole, if it is dirty (R178, R322). -/
def HeldSector.leave (e : HeldSector) (c : VaCopy) : HeldSector :=
  match c.data with
  | none => e
  | some bs =>
    let later := if c.dirty && bs != e.latest then e.later ++ [(c.draw, bs)] else e.later
    { e with later := later }.setCopy { c with data := none, dirty := false, floor := later.length }

/-- The next copy that a cache has let go of its own accord by a cycle. -/
def HeldSector.nextBack (e : HeldSector) (now : Nat) : Option VaCopy :=
  (e.copies.filter (fun c => c.data.isSome && decide (Config.backAt c.draw ≤ now))).foldl (fun best c => match best with
    | none => some c
    | some b => if Config.backAt c.draw < Config.backAt b.draw then some c else some b) none

def HeldSector.settleBy (now : Nat) : Nat → HeldSector → HeldSector
  | 0, e => e
  | n + 1, e => match e.nextBack now with
    | none => e
    | some c => HeldSector.settleBy now n (e.leave c)

/-- The sector at a cycle: what the caches have written back of their own accord has reached memory, in the order of time. -/
def HeldSector.settle (e : HeldSector) (now : Nat) : HeldSector := HeldSector.settleBy now e.copies.length e

/-- How many of the later versions a mapping has seen at least. -/
def HeldSector.seenFloor (e : HeldSector) (covers : Shoot → Bool) (c : Option VaCopy) : Nat :=
  (e.emptied.filter (fun p => covers p.1)).foldl (fun n p => max n p.2) (match c with
    | some c => c.floor
    | none => 0)

/-- The last of the later versions that a mapping has missed for, or must have seen. -/
def HeldSector.version (e : HeldSector) (now asid va floor : Nat) : List Byte :=
  (e.later.zip (List.range e.later.length)).foldl
    (fun acc p => if p.2 < floor ∨ Config.missAt p.1.1 asid va ≤ now then p.1.2 else acc) e.first

/-- A VA of an ASID lies in the range of a `tlbi`. -/
def Shoot.covers (k : Shoot) (asid va : Nat) : Bool :=
  match k with
  | .all => true
  | .asid a => asid == a
  | .range a base len => asid == a && decide (base / 4096 * 4096 ≤ va ∧ va < roundUp (base + len) 4096)

/-- One mapping alone has stored, and its copy is all there is: dirty, or the same as memory. -/
def HeldSector.only (e : HeldSector) (asid va : Nat) : Option (List Byte) :=
  match e.copies with
  | [c] => if c.tagged asid va then c.data.bind (fun bs => if c.dirty || bs == e.latest then some bs else none) else none
  | _ => none

/-- A sector as a mapping reads it (R191, R322): its own copy, else a version of memory that it has missed for. -/
def HeldSector.view (e : HeldSector) (now asid va : Nat) : List Byte :=
  match e.only asid va with
  | some bs => bs
  | none =>
    let e := e.settle now
    match e.copy? asid va with
    | some { data := some bs, .. } => bs
    | c => e.version now asid va (e.seenFloor (fun k => k.covers asid (va * 32)) c)

/-- What memory holds of a sector at a cycle (R315). -/
def HeldSector.inMemory (e : HeldSector) (now : Nat) : List Byte := (e.settle now).latest

/-- The entry of a sector. -/
def Copies.held? (c : Copies) (sector : Nat) : Option HeldSector := c.lines.find? (fun e => e.sector == sector)

/-- A sector whose bytes are stored (R178, R179, R322): in the mapping's own lines, and in memory as its ceiling says. -/
def HeldSector.stored (e : HeldSector) (now draw : Nat) (via : Via) (k : Nat) (patch : List Byte → List Byte) : HeldSector :=
  let toMemory (e : HeldSector) : HeldSector := { e with later := e.later ++ [(draw, patch e.latest)] }
  let through (a v : Nat) : HeldSector :=
    let own := patch (e.view now a v)
    let u := e.settle now
    let dirty := (u.copy? a v).any (fun c => c.dirty)
    (toMemory u).setCopy { asid := a, va := v, draw := draw, data := some own, dirty := dirty, floor := u.later.length + 1 }
  let back (a v : Nat) : HeldSector :=
    let own := patch (e.view now a v)
    let u := e.settle now
    u.setCopy { asid := a, va := v, draw := draw, data := some own, dirty := true, floor := u.later.length }
  match via with
  | .all => { e with first := patch e.first, later := e.later.map (fun v => (v.1, patch v.2))
                     copies := e.copies.map (fun c => { c with data := c.data.map patch }) }
  | .memory => toMemory (e.settle now)
  | .through a va => through a (va / 32 + k)
  | .back a va => back a (va / 32 + k)
  -- a hit is served wherever the line lies; a miss allocates nothing
  | .around a va => if ((e.settle now).copy? a (va / 32 + k)).any (fun c => c.dirty) then back a (va / 32 + k) else through a (va / 32 + k)

/-- Bytes of a sector under a store of `bs` at a physical address. -/
def patchSector (sector pa : Nat) (bs old : List Byte) : List Byte :=
  tabulate 32 (fun i =>
    if pa ≤ sector * 32 + i ∧ sector * 32 + i < pa + bs.length then bs.getD (sector * 32 + i - pa) 0 else old.getD i 0)

/-- One sector is stored. -/
def Copies.store (c : Copies) (m : Memory) (now : Nat) (via : Via) (pa : Nat) (bs : List Byte) (sector : Nat) : Copies :=
  let put (e : HeldSector) : HeldSector := e.stored now c.drawn via (sector - pa / 32) (patchSector sector pa bs)
  match c.held? sector with
  | some e => { c with lines := c.lines.map (fun d => if d.sector = sector then put e else d), drawn := c.drawn + 1 }
  | none => { c with lines := c.lines ++ [put ⟨sector, m.read (sector * 32) 32, [], [], []⟩], drawn := c.drawn + 1 }

/-- What the caches and memory hold after a store. An agent beside the caches, and the memory controller, note only the sectors of which
anything else is held. -/
def State.dirtied (s : State) (via : Via) (pa : Nat) (bs : List Byte) : State :=
  let sectors := sectorsOn pa bs.length
  match via with
  | .all => if s.copies.lines.isEmpty then s
    else { s with copies := (sectors.filter (fun k => (s.copies.held? k).isSome)).foldl (fun c k => c.store s.mem s.cycle via pa bs k) s.copies }
  | _ => { s with copies := sectors.foldl (fun c k => c.store s.mem s.cycle via pa bs k) s.copies }

/-- An agent beside the caches writes device memory. -/
def State.putMem (s : State) (pa : Nat) (bs : List Byte) : State := (s.dirtied .all pa bs).writePA pa bs

/-- A sector as an access finds it. -/
def State.sectorVia (s : State) (via : Via) (k : Nat) (e : HeldSector) : List Byte :=
  match via.tag k with
  | some (a, v) => e.view s.cycle a v
  | none => e.inMemory s.cycle

/-- Bytes as an access finds them that reaches memory in a way: sectors of which nothing is held apart are as memory has them. -/
def State.readVia (s : State) (via : Via) (pa n : Nat) : List Byte :=
  match via with
  | .all => s.readPA pa n
  | _ =>
    if !s.copies.lines.any (fun e => decide (pa < e.sector * 32 + 32 ∧ e.sector * 32 < pa + n)) then s.readPA pa n
    else
      let now := s.readPA pa n
      tabulate n (fun i => match s.copies.held? ((pa + i) / 32) with
        | some e => (s.sectorVia via ((pa + i) / 32 - pa / 32) e).getD ((pa + i) % 32) 0
        | none => now.getD i 0)

/-- A task is about to store into a word: the old word is recorded, anew where a fetch would have found the word as it is now,
which is the cache's own choice (R129). -/
def Copies.noteCode (c : Copies) (m : Memory) (asid task word : Nat) : Copies :=
  let now := wordOfBytes (m.read (word * 8) 8)
  if c.code.any (fun o => o.asid == asid && o.word == word) then
    { c with
      code := c.code.map (fun o => if o.asid = asid ∧ o.word = word then
        { o with task := task, old := if Config.oldWord c.drawn then o.old else now } else o)
      drawn := c.drawn + 1 }
  else { c with code := c.code ++ [⟨asid, word, task, now⟩] }

/-- The words under a store of a task. -/
def State.codeNoted (s : State) (asid task pa n : Nat) : State :=
  let ws := if n = 0 then [] else tabulate ((pa + n - 1) / 8 + 1 - pa / 8) (fun k => pa / 8 + k)
  { s with copies := ws.foldl (fun c w => c.noteCode s.mem asid task w) s.copies }

/-- A word of code as a fetch finds it: the old or the new one where a running task of the ASID has stored it (R129). -/
def State.codeWord (s : State) (asid pa : Nat) : State × Word :=
  let now := wordOfBytes (s.readPA pa 8)
  match s.copies.code.find? (fun o => o.asid == asid && o.word == pa / 8) with
  | none => (s, now)
  | some o => ({ s with copies := { s.copies with drawn := s.copies.drawn + 1 } }, if Config.oldWord s.copies.drawn then o.old else now)

/-- The words of a complete task are fetched as they are. -/
def State.codeSettled (s : State) (task : Nat) : State :=
  { s with copies := { s.copies with code := s.copies.code.filter (fun o => o.task != task) } }

/-- A mapping's copy of a sector is written back; it stays valid (R178). -/
def HeldSector.cleaned (e : HeldSector) (now asid va : Nat) : HeldSector :=
  let e := e.settle now
  match e.copy? asid va with
  | some c => e.leave c
  | none => e

/-- The tag of a sector under a range that starts at `va` and lies at `pa`. -/
def tagAt (va pa sector : Nat) : Nat := va / 32 + (sector - pa / 32)

/-- A mapping's dirty sectors of a range at `pa`, VA `va`, are written back (R178). -/
def State.writeBack (s : State) (asid va pa n : Nat) : State :=
  { s with copies := { s.copies with lines := s.copies.lines.map (fun e =>
      if (sectorsOn pa n).contains e.sector then e.cleaned s.cycle asid (tagAt va pa e.sector) else e) } }

/-- A mapping's copy of a sector is discarded: it reads as memory has it (R178). -/
def HeldSector.discarded (e : HeldSector) (now asid va : Nat) : HeldSector :=
  let e := e.settle now
  e.setCopy { asid := asid, va := va, draw := 0, data := none, dirty := false, floor := e.later.length }

/-- The image of a sector after the discard of a copy: the bytes that the copy had stored are memory's again. -/
def HeldSector.undone (e : HeldSector) (now asid va : Nat) (image : List Byte) : List Byte :=
  let u := e.settle now
  match u.copy? asid va with
  | some { data := some bs, dirty := true, .. } =>
    tabulate 32 (fun i => if bs.getD i 0 = image.getD i 0 then u.latest.getD i 0 else image.getD i 0)
  | _ => image

/-- A mapping's sectors of a range are discarded without write-back (R178). -/
def State.invalidate (s : State) (asid va pa n : Nat) : State :=
  let mine (e : HeldSector) : Bool := (sectorsOn pa n).contains e.sector
  { s with
    mem := (s.copies.lines.filter mine).foldl (fun m e =>
      m.write (e.sector * 32) (e.undone s.cycle asid (tagAt va pa e.sector) (m.read (e.sector * 32) 32))) s.mem
    copies := { s.copies with lines := s.copies.lines.map (fun e =>
      if mine e then e.discarded s.cycle asid (tagAt va pa e.sector) else e) } }

/-- The sector after a shoot-down: the copies in its range are written back and invalidated, and no mapping in it reads an earlier
version (R307). -/
def HeldSector.shot (e : HeldSector) (now : Nat) (k : Shoot) : HeldSector :=
  let u := e.settle now
  let u := (u.copies.filter (fun c => k.covers c.asid (c.va * 32))).foldl HeldSector.leave u
  { u with emptied := u.emptied ++ [(k, u.later.length)] }

def State.readWordPA (s : State) (pa : Nat) : Word := wordOfBytes (s.readPA pa 8)

/-! ## Event records -/

/-- Ring size; none when LOGN is out of range, which makes EN ignored (R347). -/
def EventBuf.size (e : EventBuf) : Option Nat :=
  if 4 ≤ e.logn.toNat ∧ e.logn.toNat ≤ 20 then some (2 ^ e.logn.toNat) else none

/-- One record through the ring: what leaves the device and the ring after it (R347). -/
def EventBuf.put (e : EventBuf) (words : List Word) : EventBuf × List PcieOut :=
  match e.size with
  | none => ({ e with lost := e.lost + 1, ovf := true }, [])
  | some n =>
    if !e.en || (e.head + n - e.tail % n) % n == n - 1 then ({ e with lost := e.lost + 1, ovf := true }, [])
    else
      let out := PcieOut.record (e.base.toNat + 32 * e.head) words
      let e' := { e with head := (e.head + 1) % n, sent := true }
      (e', if e.sent then [out] else [out, .vector e.vec.toNat])

/-- A snapshot trigger arrives; those of one tick make one snapshot, and KEEP lets none latch (R355). -/
def State.trigger (s : State) (which : Nat) : State :=
  if s.snap.keep || s.snap.armed.any (fun a => a.1 == s.tick) then s
  else { s with snap := { s.snap with armed := s.snap.armed ++ [(s.tick, which)] } }

/-- A record of a kind, for an ASID, is produced (R348): numbered, then held during a firmware swap (R352), written or
dropped (R347); it may trigger a snapshot (R355). -/
def State.event (s : State) (kind asid : Nat) (w1 w2 : Word) : State :=
  let w0 := BitVec.ofNat 16 kind ++ BitVec.ofNat 16 asid ++ s.events.seq
  let words := [w0, w1, w2, BitVec.ofNat 64 s.tick]
  let e := { s.events with seq := s.events.seq + 1 }
  let s := match s.fw.state with
    | .swapping => { s with events := { e with held := e.held ++ [words] } }
    | _ =>
      let (e, outs) := e.put words
      { s with events := e, pcie := s.pcie ++ outs }
  if s.snap.even && s.feature 6 && s.snap.event.toNat == kind && kind != 0x0C then s.trigger 3 else s

/-- The spare lines of a stack that are in use. -/
def State.sparesUsed (s : State) (stack : Nat) : Nat := (s.retired.filter (fun l => stackOf (l * 256) == stack)).length

/-- A line with an uncorrectable error is retired to a spare, which reads as zero; without a spare its frame becomes
non-resident (R358). -/
def State.retireLine (s : State) (line : Nat) : State :=
  let stack := stackOf (line * 256)
  let s := { s with badLines := s.badLines.filter (· != line), softLines := s.softLines.filter (· != line)
                    copies := { s.copies with lines := s.copies.lines.filter (fun e => e.sector / 8 != line) } }
  if s.sparesUsed stack < Config.sparesPerStack then
    let s := (s.writePA (line * 256) (List.replicate 256 0)).event 0x09 0 (BitVec.ofNat 64 (line * 256)) (BitVec.ofNat 64 (8 + stack))
    { s with retired := s.retired ++ [line] }
  else { s with lostFrames := s.lostFrames ++ [line / 16] }

/-- A corrected error of a unit is counted; at most one record per unit per 10,000,000 ticks (R357). -/
def State.countSoft (s : State) (unit : Nat) : State :=
  let (n, last) := match s.softCount.find? (fun c => c.1 == unit) with
    | some (_, n, last) => (n + 1, last)
    | none => (1, 0)
  let rest := s.softCount.filter (fun c => c.1 != unit)
  if last = 0 ∨ last + 10000000 ≤ s.tick then
    { s with softCount := rest ++ [(unit, 0, max 1 s.tick)] }.event 0x08 0 (BitVec.ofNat 64 unit) (BitVec.ofNat 64 n)
  else { s with softCount := rest ++ [(unit, n, last)] }

/-- A read corrects the errors of the lines under a range, and counts them (R357). -/
def State.corrected (s : State) (pa n : Nat) : State :=
  (s.softLines.filter (fun l => decide (l * 256 < pa + n ∧ pa < l * 256 + 256))).foldl (fun s l => s.countSoft (8 + stackOf (l * 256))) s

/-- An SRAM line of a core is disabled, with the record of R358. DESIGN CHOICE (log 125): the record names no PA, and the core's die. -/
def State.sramLost (s : State) (core : Nat) : State := s.event 0x09 0 0 (BitVec.ofNat 64 (core / 256))

/-- What 64 bits of a disabled SRAM line read: a free value (log 123). -/
def State.lostBytes (s : State) (n : Nat) : State × List Byte := ({ s with fresh := s.fresh + 1 }, tabulate n (Config.lostByte s.fresh))

/-- Every damaged line under a range is retired (R358). -/
def State.retireRange (s : State) (pa n : Nat) : State :=
  (s.badLines.filter (fun l => decide (l * 256 < pa + n ∧ pa < l * 256 + 256))).foldl State.retireLine s

/-- A read of device memory by the device itself: the errors that it meets are corrected and counted, or cost their lines (R357, R358). -/
def State.scanned (s : State) (pa n : Nat) : State := if s.softLines.isEmpty && s.badLines.isEmpty then s else (s.corrected pa n).retireRange pa n

end Sys2Proof.Machine
end

