-- ==== Sys2Proof/Machine/Regs.lean ====
section
/-! DEFINITION. A thread's registers as views of its register space (R44, R45), their valid and pending granules (R48 to
R50), and the load and store queues (R157, R175, R176). -/

namespace Sys2Proof.Machine

/-- A register that an instruction or an engine names. -/
inductive RegRef where
  | s (n : SReg)
  | k (n : KReg)
  | v (n : VReg)
  deriving DecidableEq, Repr

/-- Where a register lies in the register space: offset and bytes; none for s0, k0, `lq` and `sq` (R44, R45). -/
def Thread.span (t : Thread) : RegRef → Option (Nat × Nat)
  | .s n => if n = 0 then none else some (t.vwS.toNat + 8 * n.toNat, 8)
  | .k n => if n = 0 then none else some (t.vwK.toNat + 32 * n.toNat, 32)
  | .v n => if n < 32 then some (t.vwV.toNat + 256 * n.toNat, 256) else none

/-- The granules of a register (R48). -/
def Thread.granules (t : Thread) (r : RegRef) : GranuleBits :=
  match t.span r with
  | some (off, len) => onesAt 1536 (off / 8) (len / 8)
  | none => 0

/-- Every granule of a register is valid (R49). -/
def Thread.isValid (t : Thread) (r : RegRef) : Bool := t.granules r &&& ~~~t.valid == 0
/-- Some granule of a register is pending (R50). -/
def Thread.isPending (t : Thread) (r : RegRef) : Bool := t.granules r &&& t.pending != 0

/-- S(n): s0 gives 0 (R108). -/
def Thread.s (t : Thread) (n : SReg) : Word := if n = 0 then 0 else getBits t.regs (8 * (t.vwS.toNat + 8 * n.toNat)) 64
/-- K(n): k0 reads all ones (R108). -/
def Thread.k (t : Thread) (n : KReg) : MaskBits :=
  if n = 0 then BitVec.allOnes 256 else getBits t.regs (8 * (t.vwK.toNat + 32 * n.toNat)) 256
/-- V(n) of a vector register. -/
def Thread.v (t : Thread) (n : VReg) : VecBits := getBits t.regs (8 * (t.vwV.toNat + 256 * n.toNat)) 2048

/-- A register's bytes written and its granules made valid (R48). -/
def Thread.put {w : Nat} (t : Thread) (r : RegRef) (x : BitVec w) : Thread :=
  match t.span r with
  | some (off, _) => { t with regs := setBits t.regs (8 * off) x, valid := t.valid ||| t.granules r }
  | none => t

/-- S(n) := x, discarded for s0 (R45, R108). -/
def Thread.setS (t : Thread) (n : SReg) (x : Word) : Thread := t.put (.s n) x
/-- K(n) := x, discarded for k0. -/
def Thread.setK (t : Thread) (n : KReg) (x : MaskBits) : Thread := t.put (.k n) x
/-- V(n) := x; 33 pushes `sq` (R108, R157). -/
def Thread.setV (t : Thread) (n : VReg) (x : VecBits) : Thread :=
  if n = 33 then { t with sq := t.sq ++ [x] } else t.put (.v n) x

/-- V(n) read as a source; 32 pops `lq` (R157, R175). -/
def Thread.takeV (t : Thread) (n : VReg) : VecBits × Thread :=
  if n = 32 then
    match t.lq with
    | e :: rest => (e, { t with lq := rest, lqHead := t.lqHead + 1, lqFly := min t.lqFly rest.length })
    | [] => (0, t)
  else (t.v n, t)

/-- The data of a store; 33 pops `sq` (R176). -/
def Thread.takeData (t : Thread) (n : VReg) : VecBits × Thread :=
  if n = 33 then
    match t.sq with
    | e :: rest => (e, { t with sq := rest, sqHead := t.sqHead + 1 })
    | [] => (0, t)
  else (t.v n, t)

/-- A load's vector into its destination; 32 pushes `lq` (R175). -/
def Thread.loadV (t : Thread) (n : VReg) (x : VecBits) : Thread :=
  if n = 32 then { t with lq := t.lq ++ [x], lqFly := t.lqFly + 1 } else t.put (.v n) x

/-- The old contents of a vector destination; a queue entry has none (R22, R157). -/
def Thread.oldV (t : Thread) (n : VReg) : VecBits := if n < 32 then t.v n else 0

/-- A register becomes pending (R50). -/
def Thread.setPending (t : Thread) (r : RegRef) : Thread := { t with pending := t.pending ||| t.granules r }
/-- An engine's write of a register: the bytes, valid set, pending cleared (R50). -/
def Thread.land {w : Nat} (t : Thread) (r : RegRef) (x : BitVec w) : Thread :=
  let t := t.put r x
  { t with pending := t.pending &&& ~~~t.granules r }

/-- One write of an engine or a posting. -/
def Thread.apply (t : Thread) : RegWrite → Thread
  | .scalar n v => t.land (.s n) v
  | .wideStatus n v => let t := t.land (.s n) v; { t with wideStat := t.wideStat ||| (1#64 <<< n.toNat) }
  | .vector n v => t.land (.v n) v
  | .mask n v => t.land (.k n) v
  | .unpend n => { t with pending := t.pending &&& ~~~t.granules (.v n) }
  | .mxFlags f => { t with mxf := t.mxf ||| f }
  | .npend => { t with trapRec := { t.trapRec with info := t.trapRec.info &&& ~~~(0x1000#64) } }

/-- The register that a write names. -/
def RegWrite.ref : RegWrite → RegRef
  | .scalar n _ | .wideStatus n _ => .s n
  | .vector n _ => .v n
  | .mask n _ => .k n
  | .unpend n => .v n
  | .mxFlags _ | .npend => .s 0

/-- The mailbox s(48 + m) of a thread (R54). -/
def mailbox (m : Nat) : SReg := BitVec.ofNat 6 (48 + m)

/-- The control area, and every line of a context block. -/
def controlLine : Lines := 1#49 <<< 48
def allLines : Lines := BitVec.allOnes 49

/-- The lines of the context block that a byte range touches. -/
def linesOfRange (off len : Nat) : Lines :=
  if len = 0 then 0 else onesAt 49 (min 48 (off / 256)) (min 48 ((off + len - 1) / 256) - min 48 (off / 256) + 1)

/-- The lines that a register touches. -/
def Thread.lines (t : Thread) (r : RegRef) : Lines :=
  match t.span r with
  | some (off, len) => linesOfRange off len
  | none => 0

/-- The control area is in the register cache. -/
def Thread.hasControl (t : Thread) : Bool := t.resident.getLsbD 48

/-- Lines of the register cache that a thread takes: each line of its register space, and the eight lines of the control area that
hold no queue entry. The entries of `lq` and `sq` lie in the queues' own storage, from which a halt or a parking saves them (R176),
DEDUCED (log 120). -/
def Thread.linesHeld (t : Thread) : Nat :=
  ((List.range 48).filter t.resident.getLsbD).length + (if t.hasControl then 8 else 0)

/-- Loads into `lq` whose data have not arrived: a free value, of those that may be in flight (R177, log 122). -/
def Thread.lqInFlight (t : Thread) (draw : Nat) : Nat := if t.lqFly = 0 then 0 else Config.stillInFlight draw % (t.lqFly + 1)

/-- The word of R177 with `fly` loads into `lq` in flight: SQHELD, LQFLY and LQHELD. -/
def Thread.qstat (t : Thread) (fly : Nat) : Word := BitVec.ofNat 64 (t.sq.length * 256 + fly * 16 + (t.lq.length - fly))

end Sys2Proof.Machine
end

