-- ==== Sys2Proof/Machine/Translate.lean ====
section
/-! DEFINITION. Address translation: page-table entries (R305), the ASID directory (R310), the walk (R312 to R315), the
stores of translations (R306, R309, R323), home descriptors (R61), and shoot-down (R148, R307). -/

namespace Sys2Proof.Machine

/-! ## Page-table entries (R305) -/

def pteV (e : Word) : Bool := e.getLsbD 0
def pteR (e : Word) : Bool := e.getLsbD 1
def pteW (e : Word) : Bool := e.getLsbD 2
def pteX (e : Word) : Bool := e.getLsbD 3
def pteSize (e : Word) : Nat := (getBits e 4 2).toNat
def pteMode (e : Word) : Nat := (getBits e 6 2).toNat
def pteCeil (e : Word) : Nat := (getBits e 8 3).toNat
def pteHome (e : Word) : Nat := (getBits e 12 4).toNat
def pteGlobal (e : Word) : Bool := e.getLsbD 22
def pteUser (e : Word) : Bool := e.getLsbD 23
def pteAccessed (e : Word) : Bool := e.getLsbD 24
def pteDirty (e : Word) : Bool := e.getLsbD 25
/-- Migration threshold of MIGCLASS: 64, 256, 1,024 or 4,096. -/
def pteThreshold (e : Word) : Nat := 64 * 4 ^ (getBits e 26 2).toNat
def pteFrame (e : Word) : Nat := (getBits e 32 32).toNat
/-- The peer device of modes 1 to 3; 0xFFFF is the host (R316). -/
def ptePeer (e : Word) : BitVec 16 := getBits e 32 16
def pteTouch (e : Word) (write : Bool) : Word := e ||| (1#64 <<< 24) ||| (if write then 1#64 <<< 25 else 0)

/-- Bytes of a leaf's page (R305). -/
def leafBytes (size : Nat) : Nat := 2 ^ (12 + 9 * size)

/-! ## The directory (R310, R311) -/

def State.dirPA (s : State) (asid : Nat) : Nat := s.dirBase.toNat * 2 ^ 24 + asid * 256
/-- A word of an entry; an entry in a line with an uncorrectable error reads as its spare will (R358). -/
def State.dirWord (s : State) (asid off : Nat) : Word :=
  if s.badAt (s.dirPA asid + off) 8 then 0 else s.readWordPA (s.dirPA asid + off)
/-- ROOT.VALID; with ASIDDIR.EN 0 no entry is in use. -/
def State.asidValid (s : State) (asid : Nat) : Bool := s.dirEn && (s.dirWord asid 0).getLsbD 0
/-- The ASID is privileged (R147), as long as its filled translations are in use, which VALID cleared does not end (R310). -/
def State.asidPriv (s : State) (asid : Nat) : Bool := s.dirEn && (s.dirWord asid 0).getLsbD 1
/-- The ASID's job number (R28). -/
def State.asidJob (s : State) (asid : Nat) : BitVec 16 := getBits (s.dirWord asid 8) 0 16
def State.typeBase (s : State) (asid : Nat) : Word := s.dirWord asid 0x10
def State.trapGang (s : State) (asid : Nat) : Word := s.dirWord asid 0x20

/-- The lowest-numbered valid ASID of a job (R324). -/
def State.asidOfJob (s : State) (job : BitVec 16) : Option Nat :=
  if job = 0 then none
  else (List.range 65536).find? (fun a => s.asidValid a && s.asidJob a == job)

/-! ## Home descriptors (R61) -/

/-- The core at which a line is homed; none when the descriptor is malformed or its core is fenced. -/
def State.homeCore (s : State) (asid va : Nat) (leaf : Word) : Option Nat :=
  let d := s.dirWord asid (0x80 + 8 * pteHome leaf)
  let core : Option Nat :=
    match (getBits d 62 2).toNat with
    | 0 => if getBits d 11 51 = 0 then some (getBits d 0 11).toNat else none
    | 1 =>
      if getBits d 48 14 ≠ 0 then none
      else
        let dies := getBits d 40 8
        let clus := getBits d 8 32
        let cors := getBits d 0 8
        let set := (List.range Config.cores).filter
          (fun c => dies.getLsbD (c / 256) && clus.getLsbD (c / 8 % 32) && cors.getLsbD (c % 8))
        if set.isEmpty then none
        else set[(crc32c (bytesOfNat 8 (fieldOf va 8 49))).toNat % set.length]?
    | _ => none
  match core with
  | some c => if s.dieOut (c / 256) then none else some c
  | none => none

/-! ## The walk (R312 to R315) -/

/-- What an access needs of a leaf (R313). -/
structure Need where
  r : Bool
  w : Bool
  x : Bool
  /-- the requester is a thread of an ASID without PRIV -/
  user : Bool
  deriving DecidableEq, Repr

/-- A leaf grants an access (R313). -/
def Need.granted (n : Need) (leaf : Word) : Bool :=
  (!n.r || pteR leaf) && (!n.w || pteW leaf) && (!n.x || pteX leaf) && (!n.user || pteUser leaf)

/-- How a walk ends. -/
inductive Walked where
  | leaf (page size : Nat) (leaf : Word) (leafPA : Nat)
  | page
  | addr
  | table (pa : Nat)
  | wait
  deriving DecidableEq, Repr

/-- A physical address lies in the old frame of a page that migrates (R315, R320). -/
def State.migratingPA (s : State) (pa : Nat) : Bool :=
  s.migs.any (fun m => pteMode m.leaf == 0 && decide (pteFrame m.leaf * 4096 ≤ pa ∧ pa < pteFrame m.leaf * 4096 + m.size))

/-- A table node may be read (R315). -/
def State.nodeOk (s : State) (pa : Nat) : Bool := s.resident pa && !s.retired.contains (pa / 256) && !s.badAt pa 8

/-- A table entry as the walker reads it, at the memory controller (R315). -/
def State.walkWord (s : State) (pa : Nat) : Word := wordOfBytes (s.readVia .memory pa 8)

/-- The walker's compare-and-swap of an entry, in memory (R315): there alone, where a newer value waits in a cache. -/
def State.putEntry (s : State) (pa : Nat) (e : Word) : State :=
  let s' := s.dirtied .memory pa (bytesOfWord e)
  if s.walkWord pa = s.readWordPA pa then s'.writePA pa (bytesOfWord e) else s'

/-- The walk from a node of a level (R312); a table fault names the node's PA (R314). -/
def State.walkFrom (s : State) (va : Nat) : Nat → Nat → Walked
  | 0, _ => .page
  | level + 1, frame =>
    let l := level + 1
    let pa := frame * 4096 + 8 * fieldOf va (9 * l + 3) 9
    if !s.nodeOk pa then .table (frame * 4096)
    else if s.migratingPA pa then .wait
    else
      let e := s.walkWord pa
      if !pteV e then .page
      else if pteSize e = 3 then
        if l = 1 ∨ pteMode e ≠ 0 then .table (frame * 4096) else s.walkFrom va level (pteFrame e)
      else if l ≠ pteSize e + 1 then .table (frame * 4096)
      else if 4 ≤ pteCeil e ∨ (pteMode e = 0 ∧ pteFrame e % 512 ^ pteSize e ≠ 0) then .table (frame * 4096)
      else if va.testBit 56 ∧ pteMode e ≠ 0 then .table (frame * 4096)
      else .leaf (va / leafBytes (pteSize e) * leafBytes (pteSize e)) (leafBytes (pteSize e)) e pa

/-- The walk of a VA in an ASID (R312). -/
def State.walk (s : State) (asid va : Nat) : Walked :=
  if 2 ^ 57 ≤ va then .addr
  else if !s.asidValid asid then .table (s.dirPA asid)
  else s.walkFrom va 5 (getBits (s.dirWord asid 0) 32 32).toNat

/-- The entries that a walk reads from a node of a level, in order. -/
def State.walkNodes (s : State) (va : Nat) : Nat → Nat → List Nat
  | 0, _ => []
  | level + 1, frame =>
    let pa := frame * 4096 + 8 * fieldOf va (9 * (level + 1) + 3) 9
    pa :: (if !s.nodeOk pa || s.migratingPA pa then []
      else
        let e := s.walkWord pa
        if pteV e && pteSize e == 3 && pteMode e == 0 then s.walkNodes va level (pteFrame e) else [])

/-- A walk reads its directory entry and its nodes: corrected errors are counted (R357), and a line with an uncorrectable one is retired
(R358). -/
def State.readNodes (s : State) (asid va : Nat) : State :=
  if (s.softLines.isEmpty && s.badLines.isEmpty) || 2 ^ 57 ≤ va then s
  else (s.dirPA asid :: (if s.asidValid asid then s.walkNodes va 5 (getBits (s.dirWord asid 0) 32 32).toNat else [])).foldl
    (fun s pa => s.scanned pa 8) s

/-! ## Held translations -/

/-- The memory-side TLB of an address (R309). -/
def tlbNumber (asid va : Nat) : Nat := (crc32c (bytesOfNat 8 (fieldOf va 21 36 + asid % 65536 * 2 ^ 36))).toNat % 16

/-- An entry matches an address in an ASID; a GLOBAL leaf matches in every one (R313). -/
def TlbEntry.hits (e : TlbEntry) (asid va : Nat) : Bool :=
  (e.asid == asid || pteGlobal e.leaf) && decide (e.page ≤ va ∧ va < e.page + e.size)

def State.pageCheckHit (s : State) (core asid va : Nat) : Option TlbEntry :=
  s.pageCheck.find? (fun e => e.holder == core && e.hits asid va)
/-- The 2 MiB region of a VA. -/
def regionOf (va : Nat) : Nat := va / 2 ^ 21
/-- A translation held beside memory, by the walk of the VA's own 2 MiB region (R309). -/
def State.tlbHit (s : State) (asid va : Nat) : Option TlbEntry :=
  s.memTlb.find? (fun e => e.holder == tlbNumber asid va && e.region == regionOf va && e.hits asid va)

/-- An access is translated, must be abandoned, or waits for a migration. -/
inductive Tr where
  | ok (s : State) (page size : Nat) (leaf : Word)
  | fault (s : State) (cause : Cause) (table : Bool) (pa : Nat)
  | wait
  deriving Repr

/-- A page is under migration (R320): in its ASID, or a GLOBAL one in every ASID (R313). -/
def State.underMigration (s : State) (asid va : Nat) : Bool :=
  s.migs.any (fun m => (m.asid == asid || pteGlobal m.leaf) && decide (m.page ≤ va ∧ va < m.page + m.size))

/-- The home of a mode 0 or mode 2 page must be sound (R61); the fault names the descriptor's place. A host page of mode 2 has none,
being of mode 1 (R316). -/
def State.homeFault (s : State) (asid va : Nat) (leaf : Word) : Bool :=
  (pteMode leaf == 0 || (pteMode leaf == 2 && ptePeer leaf != 0xFFFF)) && (s.homeCore asid va leaf).isNone

/-- A core's page-check cache takes the attributes of a page (R306). -/
def State.fillCheck (s : State) (core : Option Nat) (asid page size : Nat) (leaf : Word) : State :=
  match core with
  | some c =>
    { s with pageCheck := s.pageCheck.filter (fun e => !(e.holder == c && e.hits asid page)) ++ [(⟨c, asid, page, size, leaf, 0⟩ : TlbEntry)] }
  | none => s

/-- A walk with its permission check, the ACCESSED and DIRTY update, and the fill (R312, R305). `core` is the core whose
page-check cache asks; an engine or a remote request has none. -/
def State.walkFill (s : State) (core : Option Nat) (asid va : Nat) (n : Need) : Tr :=
  let w := s.walk asid va
  let s := s.readNodes asid va
  match w with
  | .addr => .fault s .addr false 0
  | .page => .fault s .page false 0
  | .table pa => .fault s .page true pa
  | .wait => .wait
  | .leaf page size leaf leafPA =>
    if !n.granted leaf then .fault s .prot false 0
    else
      let leaf' := pteTouch leaf n.w
      let s := if leaf' = leaf then s else s.putEntry leafPA leaf'
      let k := tlbNumber asid va
      let keep := s.memTlb.filter (fun e => !(e.holder == k && e.region == regionOf va && e.hits asid va))
      let s : State := { s with memTlb := keep ++ [⟨k, asid, page, size, leaf', regionOf va⟩] }
      .ok (s.fillCheck core asid page size leaf') page size leaf'

/-- The page-check entry of a core that covers an address. -/
def State.checkEntry (s : State) (core : Option Nat) (asid va : Nat) : Option TlbEntry := core.bind (fun c => s.pageCheckHit c asid va)

/-- The attributes that a page-check cache holds refuse an access (R306). -/
def State.checkRefuses (s : State) (core : Option Nat) (asid va : Nat) (n : Need) : Bool :=
  match s.checkEntry core asid va with
  | some e => !n.granted e.leaf
  | none => false

/-- A translation held beside memory serves an access unless a first write has to be recorded (R305, R309). -/
def State.held (s : State) (asid va : Nat) (n : Need) : Option TlbEntry :=
  match s.tlbHit asid va with
  | some e => if !n.w || pteDirty e.leaf then some e else none
  | none => none

/-- An access by a held translation: a page-check cache that lacks the page takes the attributes from it (R306). -/
def State.useHeld (s : State) (core : Option Nat) (asid va : Nat) (n : Need) (e : TlbEntry) : Tr :=
  if (s.checkEntry core asid va).isSome then .ok s e.page e.size e.leaf
  else if n.granted e.leaf then .ok (s.fillCheck core asid e.page e.size e.leaf) e.page e.size e.leaf
  else .fault s .prot false 0

/-- The egress TLBs hold copies of the remote translations that the streams use, from which no access is translated (R309). DESIGN
CHOICE (log 146): one list stands for those of all ports. -/
def State.fillEgress (s : State) (asid va page size : Nat) (leaf : Word) : State :=
  if pteMode leaf = 0 || s.egress.any (fun e => e.hits asid va) then s
  else { s with egress := s.egress ++ [⟨0, asid, page, size, leaf, 0⟩] }

/-- The translation of an access (R309, R312). -/
def State.translate (s : State) (core : Option Nat) (asid va : Nat) (n : Need) : Tr :=
  if 2 ^ 57 ≤ va then .fault s .addr false 0
  else if s.underMigration asid va then .wait
  else
    let t := if s.checkRefuses core asid va n then Tr.fault s .prot false 0
      else match s.held asid va n with
        | some e => s.useHeld core asid va n e
        | none => s.walkFill core asid va n
    match t with
    | .ok s page size leaf =>
      if s.homeFault asid va leaf then .fault s .page true (s.dirPA asid + 0x80 + 8 * pteHome leaf)
      else .ok (s.fillEgress asid va page size leaf) page size leaf
    | r => r

/-- The physical address of a mode-0 leaf's byte. -/
def leafPA (page : Nat) (leaf : Word) (va : Nat) : Nat := pteFrame leaf * 4096 + (va - page)

/-- Pages of 4 KiB under a byte range. -/
def pagesOf (va n : Nat) : List Nat :=
  if n = 0 then [] else tabulate ((va + n - 1) / 4096 - va / 4096 + 1) (fun i => (va / 4096 + i) * 4096)

/-! ## Shoot-down (R148, R307) -/

/-- An entry is removed; a GLOBAL one only by `tlbi.all` (R313). -/
def Shoot.removes (k : Shoot) (e : TlbEntry) : Bool :=
  match k with
  | .all => true
  | .asid a => e.asid == a && !pteGlobal e.leaf
  | .range a base len =>
    let lo := base / 4096 * 4096
    let hi := roundUp (base + len) 4096
    e.asid == a && !pteGlobal e.leaf && decide (0 < len ∧ e.page < hi ∧ lo < e.page + e.size)

/-- The lines of a shoot-down's range are written back and invalidated (R307). -/
def State.shootCopies (s : State) (k : Shoot) : State :=
  { s with copies := { s.copies with lines := s.copies.lines.map (fun e => e.shot s.cycle k) } }

/-- The ASID that tags the lines of GLOBAL leaves: none, since they serve every one (R313). -/
def globalTag : Nat := 2 ^ 16

/-- Steps 2 and 3 of R307: every store of translations loses the matching entries, the lines of the range are written back and
invalidated, and the TLB epoch advances. -/
def State.shootDown (s : State) (k : Shoot) : State :=
  { s.shootCopies k with
    pageCheck := s.pageCheck.filter (fun e => !k.removes e)
    memTlb := s.memTlb.filter (fun e => !k.removes e)
    egress := s.egress.filter (fun e => !k.removes e)
    remLines := s.remLines.filter (fun r => !k.covers r.asid r.va)
    epoch := s.epoch + 1
    shotAt := s.tick }

end Sys2Proof.Machine
end

