-- ==== Sys2Proof/Machine/Context.lean ====
section
/-! DEFINITION. The context block (R40 to R43, R141, R176, R239, R250, R327): the control area as memory words, and the
movement of its lines between the register cache and memory (R50 to R53). -/

namespace Sys2Proof.Machine

/-! ## Codes of the control area -/

/-- TSTAT.RUN (R30). -/
def Run.code : Run → Nat
  | .active => 0 | .resident => 1 | .parked => 2 | .halted => 3 | .retired => 4

/-- TSTAT.BLOCK (R41). -/
def Block.code : Block → Nat
  | .none => 0 | .wait => 1 | .gbar => 2 | .bar => 3 | .dbar => 4 | .uni => 5 | .regMiss => 6 | .queue => 7 | .ctxFault => 8
def Block.ofCode (n : Nat) : Block :=
  match n with
  | 1 => .wait | 2 => .gbar | 3 => .bar | 4 => .dbar | 5 => .uni | 6 => .regMiss | 7 => .queue | 8 => .ctxFault | _ => .none

/-- The TSTAT word (R41). -/
def Thread.tstat (t : Thread) : Word :=
  t.trapen ++ 0#15 ++ BitVec.ofBool t.ss ++ t.hcause ++ BitVec.ofNat 4 t.block.code ++ BitVec.ofNat 4 t.run.code

/-- The VIEWS word (R46). -/
def Thread.views (t : Thread) : Word := 0#16 ++ t.vwV ++ t.vwK ++ t.vwS

/-- The thread identity word (R42). -/
def Thread.identity (t : Thread) : Word := BitVec.ofNat 32 t.id.gang ++ BitVec.ofNat 32 t.id.rank

/-- JOB of a thread's DMEM, which the device keeps with the gang from its formation (R28, R42). -/
def State.memberJob (s : State) (t : Thread) : BitVec 16 := match s.gangOf t with
  | some g => g.job
  | none => 0

/-- DMEM of a thread (R28). -/
def State.dmem (s : State) (t : Thread) : Word :=
  let job := s.memberJob t
  job ++ s.devnum ++ BitVec.ofNat 16 t.id.task ++ 0#13 ++ (if job = 0 then 3#3 else 5#3)

/-- The REP state word (R40). -/
def Thread.repWord (t : Thread) : Word := 0#32 ++ t.repIter ++ t.repLeft

/-- MXSTATE (R239): V of an entry is set while its command has not started. -/
def Thread.mxState (t : Thread) : Word :=
  let entry (e : Option MxEntry) : BitVec 8 := match e with
    | some e => 0#1 ++ BitVec.ofBool (!e.started) ++ e.reg
    | none => 0
  0#39 ++ BitVec.ofBool t.mxHead ++ entry t.mx1 ++ entry t.mx0 ++ 0#5 ++ t.mxf

/-- The eight words of a copy-engine entry (R250). -/
def ceWords (e : Option CeEntry) : List Word :=
  match e with
  | some e => e.word :: (e.ops ++ [e.progress ++ 0#13 ++ BitVec.ofBool e.head ++ BitVec.ofBool e.started ++ 1#1])
  | none => List.replicate 8 0

def TrapRecord.words (r : TrapRecord) : List Word := [r.fpc, r.info, r.addr, r.rep, r.rpc, r.ss, r.iword, r.count]
def DebugEntry.words (e : DebugEntry) : List Word := [e.addr, e.ctl]

/-- The walk state's bytes, and the CRC word that follows them (R250). -/
def walkBytes (ws : List Word) : List Byte := ws.flatMap bytesOfWord
def walkCrc (ws : List Word) : Word := (crc32c (walkBytes ws)).zeroExtend 64

/-- Bytes 0x3000 to 0x33FF of the context block (R40). -/
def State.controlLow (s : State) (t : Thread) : List Word :=
  [t.pc, t.tstat, t.vwS.zeroExtend 64, t.vwK.zeroExtend 64, t.vwV.zeroExtend 64, t.identity, s.dmem t]
  ++ t.saved ++ [wordOfBytes t.deposits, t.uniCount, t.repWord, t.flags.zeroExtend 64, t.seed.zeroExtend 64]
  ++ tabulate 24 (fun i => getBits t.valid (64 * i) 64) ++ tabulate 24 (fun i => getBits t.pending (64 * i) 64)
  ++ t.breaks.flatMap DebugEntry.words ++ t.watches.flatMap DebugEntry.words ++ t.trapRec.words
  ++ [t.tvec] ++ List.replicate 39 0

/-- Bytes 0x3C00 to 0x3FFF of the context block (R40, R176, R239, R250). -/
def Thread.controlHigh (t : Thread) : List Word :=
  [t.qstat 0, (t.sqHead ++ t.lqHead).zeroExtend 64]
  ++ (let cmd (e : Option MxEntry) : List Word := match e with
        | some e => tabulate 8 (fun i => getBits e.cmd (64 * i) 64)
        | none => List.replicate 8 0
      cmd t.mx0 ++ cmd t.mx1)
  ++ ceWords t.ce0 ++ ceWords t.ce1
  ++ [t.mxState, t.geomN ++ t.geomM, t.geomK.zeroExtend 64] ++ t.walk ++ [walkCrc t.walk]

/-- Queue entries at their saved places, oldest at the head (R176). -/
def queueCells (base : Nat) (head : BitVec 2) (es : List VecBits) : List (Nat × List Byte) :=
  (es.zip (List.range 4)).map (fun p => (base + 256 * ((head.toNat + p.2) % 4), bytesOfNat 256 p.1.toNat))

/-- What the control area holds, as segments of bytes at context offsets. -/
def State.controlSegments (s : State) (t : Thread) : List (Nat × List Byte) :=
  [(0x3000, (s.controlLow t).flatMap bytesOfWord)] ++ queueCells 0x3400 t.lqHead t.lq ++ queueCells 0x3800 t.sqHead t.sq
    ++ [(0x3C00, t.controlHigh.flatMap bytesOfWord)]

/-- What the lines of page `c` of the context block that are in a set hold. -/
def State.pageSegments (s : State) (t : Thread) (c : Nat) (lines : Lines) : List (Nat × List Byte) :=
  if c = 3 then (if lines.getLsbD 48 then s.controlSegments t else [])
  else if getBits lines (16 * c) 16 = BitVec.allOnes 16 then [(4096 * c, bytesOfNat 4096 (getBits t.regs (32768 * c) 32768).toNat)]
  else ((List.range 16).filter (fun i => lines.getLsbD (16 * c + i))).map (fun i =>
    (256 * (16 * c + i), bytesOfNat 256 (getBits t.regs (2048 * (16 * c + i)) 2048).toNat))

/-! ## Reading the control area back -/

/-- A matrix command that has not started. -/
def MxEntry.pushed (cmd : BitVec 512) (reg : SReg) (stamp : Nat) : MxEntry :=
  { cmd := cmd, reg := reg, started := false, stamp := stamp, base := [], row := 0, acking := false, wide := false, found := 0 }

/-- A thread whose control area is read from words at context offsets; RUN stays the device's (R333), and reserved bits read 0 (R6).
DESIGN CHOICE (log 144): a
matrix command whose V a debugger sets counts as pushed before every command that `mxcmd` pushed (R229). -/
def Thread.readControl (t : Thread) (w : Nat → Word) (vec : Nat → VecBits) : Thread :=
  let ts := w 0x3008
  let mx := w 0x3D10
  let q := w 0x3C00
  let heads := w 0x3C08
  let lqHead := getBits heads 0 2
  let sqHead := getBits heads 2 2
  let bits (base : Nat) : GranuleBits := (List.range 24).foldl (fun acc i => setBits acc (64 * i) (w (base + 8 * i))) 0
  let dbg (base : Nat) : List DebugEntry := tabulate 4 (fun i => ⟨w (base + 16 * i), w (base + 16 * i + 8)⟩)
  let entry (live : Option MxEntry) (v : Bool) (reg : SReg) (base stamp : Nat) : Option MxEntry :=
    match live with
    | some e => if e.started then some e
        else if v then some (.pushed ((List.range 8).foldl (fun acc i => setBits acc (64 * i) (w (base + 8 * i))) 0) reg e.stamp)
        else none
    | none => if v then some (.pushed ((List.range 8).foldl (fun acc i => setBits acc (64 * i) (w (base + 8 * i))) 0) reg stamp)
        else none
  let ce (base : Nat) : Option CeEntry :=
    let c := w (base + 56)
    if c.getLsbD 0 then some ⟨w base, tabulate 6 (fun i => w (base + 8 + 8 * i)), getBits c 16 48, c.getLsbD 1, c.getLsbD 2⟩
    else none
  { t with
    pc := w 0x3000
    ss := ts.getLsbD 16
    trapen := getBits ts 32 32 &&& 0x003FFFFE#32
    hcause := getBits ts 8 8
    block := Block.ofCode (getBits ts 4 4).toNat
    vwS := getBits (w 0x3010) 0 16
    vwK := getBits (w 0x3018) 0 16
    vwV := getBits (w 0x3020) 0 16
    saved := tabulate 4 (fun i => w (0x3038 + 8 * i))
    deposits := tabulate 8 (fun i => getBits (w 0x3058) (8 * i) 8)
    uniCount := w 0x3060
    repLeft := getBits (w 0x3068) 0 16
    repIter := getBits (w 0x3068) 16 16
    flags := getBits (w 0x3070) 0 6
    seed := getBits (w 0x3078) 0 32
    valid := bits 0x3080
    pending := bits 0x3140
    breaks := dbg 0x3200
    watches := dbg 0x3240
    trapRec := ⟨w 0x3280, w 0x3288 &&& 0x000FFFFFFFFF1FFF#64, w 0x3290, w 0x3298, w 0x32A0, w 0x32A8 &&& 0x10000#64, w 0x32B0,
      w 0x32B8 &&& 0xFFFFFFFF#64⟩
    tvec := w 0x32C0
    lqHead := lqHead
    lqFly := 0
    badQueue := 0
    sqHead := sqHead
    lq := tabulate (min 4 (getBits q 0 4).toNat) (fun i => vec (0x3400 + 256 * ((lqHead.toNat + i) % 4)))
    sq := tabulate (min 4 (getBits q 8 4).toNat) (fun i => vec (0x3800 + 256 * ((sqHead.toNat + i) % 4)))
    mx0 := entry t.mx0 (mx.getLsbD 14) (getBits mx 8 6) 0x3C10 0
    mx1 := entry t.mx1 (mx.getLsbD 22) (getBits mx 16 6) 0x3C50 1
    mxHead := mx.getLsbD 24
    mxf := getBits mx 0 3
    geomM := getBits (w 0x3D18) 0 32
    geomN := getBits (w 0x3D18) 32 32
    geomK := getBits (w 0x3D20) 0 32
    ce0 := ce 0x3C90
    ce1 := ce 0x3CD0
    walk := tabulate 90 (fun i => w (0x3D28 + 8 * i)) }

/-- The offsets and masks of the control area's reserved bits (R40, R41, R216, R239, R250, R327, R335). -/
def controlReserved : List (Nat × Word) :=
  [(0x3008, 0x00000000FFFE0000#64 ||| (0xFFC00001#64 <<< 32)), (0x3010, ~~~0xFFFF#64), (0x3018, ~~~0xFFFF#64), (0x3020, ~~~0xFFFF#64),
   (0x3068, ~~~0xFFFFFFFF#64), (0x3070, ~~~0x3F#64), (0x3078, ~~~0xFFFFFFFF#64)]
  ++ tabulate 4 (fun i => (0x3208 + 16 * i, ~~~1#64)) ++ tabulate 4 (fun i => (0x3248 + 16 * i, 0xF40#64))
  ++ tabulate 39 (fun i => (0x32C8 + 8 * i, BitVec.allOnes 64))
  ++ [(0x3288, 0xFFF000000000E000#64), (0x32A8, ~~~0x10000#64), (0x32B8, ~~~0xFFFFFFFF#64)]
  ++ [(0x3C00, ~~~0xFFF#64), (0x3C08, ~~~0xF#64), (0x3CC8, 0xFFF8#64), (0x3D08, 0xFFF8#64), (0x3D10, 0xFFFFFFFFFE8080F8#64),
      (0x3D20, ~~~0xFFFFFFFF#64)]

/-! ## Lines in memory (R50 to R53) -/

/-- Context pages need read and write, and lie in this device's memory (R40, R52). -/
def ctxNeed : Need := ⟨true, true, false, false⟩

/-- What comes of reaching a context block in memory: reached; its page is under migration, so that the access waits (R320);
or a context fault (R52). -/
inductive Reach (α : Type) where
  | ok (x : α)
  | wait
  | bad
  deriving Repr

def Reach.bind {α β : Type} (r : Reach α) (f : α → Reach β) : Reach β :=
  match r with
  | .ok x => f x
  | .wait => .wait
  | .bad => .bad

/-- The physical address of 4 KiB page `c` of a context block, which must translate for write (R52). -/
def State.ctxPage (s : State) (t : Thread) (c : Nat) : Reach (State × Nat) :=
  let va := t.cbase.toNat + 4096 * c
  match s.translate none (s.asidOf t) va ctxNeed with
  | .ok s page _ leaf =>
    let pa := leafPA page leaf va
    if pteMode leaf = 0 ∧ s.resident pa then .ok (s, pa) else .bad
  | .wait => .wait
  | .fault .. => .bad

/-- The page that holds a line. -/
def pageOfLine (l : Nat) : Nat := if l < 48 then l / 16 else 3
/-- The lines of a page. -/
def linesOfPage (c : Nat) : Lines := if c < 3 then onesAt 49 (16 * c) 16 else controlLine

/-- A page that a set of lines needs is under migration (R320). -/
def State.linesHeldUp (s : State) (t : Thread) (lines : Lines) : Bool :=
  (List.range 4).any (fun c => lines &&& linesOfPage c != 0 && (match s.ctxPage t c with
    | .wait => true
    | _ => false))

/-- A page that a set of lines needs is a context fault (R52). -/
def State.linesFail (s : State) (t : Thread) (lines : Lines) : Bool :=
  (List.range 4).any (fun c => lines &&& linesOfPage c != 0 && (match s.ctxPage t c with
    | .bad => true
    | _ => false))

/-- Every page that a set of lines needs can be reached. -/
def State.linesMapped (s : State) (t : Thread) (lines : Lines) : Bool :=
  (List.range 4).all (fun c => lines &&& linesOfPage c == 0 || (match s.ctxPage t c with
    | .ok _ => true
    | _ => false))

/-- One line of a thread is taken from memory. A damaged one is retired and gives no value: a register's granules become
invalid, and a control area waits for the host (R340, R358). -/
def State.loadLine (s : State) (t : Thread) (l : Nat) : Reach (State × Thread) :=
  (s.ctxPage t (pageOfLine l)).bind (fun (s, pa) =>
    let t := { t with resident := t.resident ||| onesAt 49 l 1 }
    if l < 48 then
      let a := pa + 256 * (l % 16)
      let t := if s.badAt a 256 then { t with valid := t.valid &&& ~~~onesAt 1536 (32 * l) 32 } else t
      let s := s.scanned a 256
      .ok (s, { t with badRegs := t.badRegs &&& ~~~onesAt 1536 (32 * l) 32, regs := setBits t.regs (2048 * l) (BitVec.ofNat 2048 (natOfBytes (s.readPA a 256))) })
    else
      let t := if s.badAt pa 4096 then { t with damaged := BitVec.allOnes 4096 } else t
      let s := s.scanned pa 4096
      let bs := s.readPA pa 4096
      let w (off : Nat) : Word := wordOfBytes ((bs.drop (off - 0x3000)).take 8)
      let vec (off : Nat) : VecBits := BitVec.ofNat 2048 (natOfBytes ((bs.drop (off - 0x3000)).take 256))
      .ok (s, t.readControl w vec))

/-- The lines of a set that the register cache lacks are loaded (R51, R52). The control area comes first, since it holds the
views and the valid bits. -/
def State.loadLines (s : State) (t : Thread) (lines : Lines) : Reach (State × Thread) :=
  if lines &&& ~~~t.resident = 0 then .ok (s, t)
  else (48 :: List.range 48).foldl (fun acc l => acc.bind (fun (s, t) =>
    if lines.getLsbD l && !t.resident.getLsbD l then s.loadLine t l else .ok (s, t))) (.ok (s, t))

/-- A thread with the lines that its registers `rs` need, found once its views are known. -/
def State.loadRegs (s : State) (t : Thread) (rs : List RegRef) : Reach (State × Thread) :=
  (s.loadLines t controlLine).bind (fun (s, u) => s.loadLines u (rs.foldl (fun acc r => acc ||| u.lines r) controlLine))

/-- An uncorrectable error in a line that a thread lacks (R340): the line of the set, and its offset in the context block. -/
def State.badLine (s : State) (t : Thread) (lines : Lines) : Option (Nat × Nat) :=
  ((48 :: List.range 48).filterMap (fun l =>
    if lines.getLsbD l && !t.resident.getLsbD l then
      match s.ctxPage t (pageOfLine l) with
      | .ok (_, pa) =>
        if l < 48 then (if s.badAt (pa + 256 * (l % 16)) 256 then some (l, 256 * l) else none)
        else (s.badLines.find? (fun b => decide (pa ≤ b * 256 ∧ b * 256 < pa + 4096))).map (fun b => (l, 0x3000 + (b * 256 - pa)))
      | _ => none
    else none)).head?

/-- Lines of one page of a thread are written to memory (R51). -/
def State.storePage (s : State) (t : Thread) (c : Nat) (lines : Lines) : Reach State :=
  if lines &&& linesOfPage c = 0 then .ok s
  else (s.ctxPage t c).bind (fun (s, pa) =>
    .ok ((s.pageSegments t c lines).foldl (fun s seg => s.putMem (pa + (seg.1 - 4096 * c)) seg.2) s))

/-- Lines of the register space that hold one of a set of granules, as granules. -/
def linesAround (g : GranuleBits) : GranuleBits :=
  (List.range 48).foldl (fun acc l => if g &&& onesAt 1536 (32 * l) 32 = 0 then acc else acc ||| onesAt 1536 (32 * l) 32) 0

/-- No poisoned value reaches memory (R340): the granules of a damaged line are invalid there, and a control area with a damaged
queue entry waits for the host. -/
def Thread.dropBad (t : Thread) : Thread :=
  if t.badRegs = 0 && t.badQueue = 0 then t
  else { t with valid := t.valid &&& ~~~linesAround t.badRegs, badRegs := 0, badQueue := 0
                damaged := if t.badQueue = 0 then t.damaged else BitVec.allOnes 4096 }

/-- Write-back of every cached line at a halt or a parking (R51). A line whose page cannot be reached stays cached. -/
def State.saveContext (s : State) (t : Thread) : State × Thread :=
  (List.range 4).foldl (fun acc c =>
    let (s, t) := acc
    match s.storePage t c t.resident with
    | .ok s => (s, { t with resident := t.resident &&& ~~~linesOfPage c })
    | _ => (s, t)) (s, t.dropBad)

/-- The engines' entries that the device keeps for a thread whose control area lies in memory (R229, R251). -/
def Thread.keepEngines (u t : Thread) : Thread :=
  { u with mx0 := t.mx0, mx1 := t.mx1, mxHead := t.mxHead, geomM := t.geomM, geomN := t.geomN, geomK := t.geomK,
           ce0 := t.ce0, ce1 := t.ce1, walk := t.walk }

/-- A change to a thread's registers or control area by an agent other than the thread (R50, R55): in the register cache
where the lines are cached, else in the context block. -/
def State.editThread (s : State) (id : ThreadId) (lines : Lines) (f : Thread → Thread) : Reach State :=
  match s.thread? id with
  | none => .ok s
  | some t =>
    if lines &&& ~~~t.resident = 0 then .ok (s.setThread (f t))
    else (s.loadLines t lines).bind (fun (s, t') =>
      let u := f t'
      -- the lines that were cached stay so; the others return to memory
      (List.range 4).foldl (fun acc c => acc.bind (fun s => s.storePage u c (lines &&& ~~~t.resident)))
        (.ok (s.setThread { u.keepEngines t with resident := t.resident })))

/-- The engine words of a thread's control area follow its entries into memory while the area is not cached (R229, R332). -/
def State.mirrorEngines (s : State) (old new : Thread) : State :=
  if new.hasControl then s
  else match s.ctxPage new 3 with
    | .ok (s, pa) =>
      ((List.range 128).zip (old.controlHigh.zip new.controlHigh)).foldl
        (fun s p =>
          let d := p.2.1 ^^^ p.2.2
          let a := pa + 0xC00 + 8 * p.1
          if d = 0 then s else s.putMem a (bytesOfWord ((s.readWordPA a &&& ~~~d) ||| (p.2.2 &&& d)))) s
    | _ => s

/-- The identity word and the DMEM word of a context block are written again at a placement and at a resumption (R42). -/
def State.writeIdentity (s : State) (id : ThreadId) : State :=
  match s.thread? id with
  | none => s
  | some t => match s.ctxPage t 3 with
    | .ok (s, pa) => s.putMem (pa + 0x28) (bytesOfWord t.identity ++ bytesOfWord (s.dmem t))
    | _ => s

/-! ## Eviction (R51) -/

/-- Lines that the threads of a core hold in its register cache. -/
def State.linesOn (s : State) (core : Nat) : Nat := ((s.threads.filter (fun t => s.coreOf t == some core)).map Thread.linesHeld).sum

/-- Register-space lines of a core that may make room: all but those that a thread is about to use. DESIGN CHOICE (log 120):
the control area of a placed thread stays. -/
def State.evictable (s : State) (core : Nat) (id : ThreadId) (keep : Lines) : List (ThreadId × Nat) :=
  (s.threads.filter (fun t => s.coreOf t == some core)).flatMap (fun t =>
    ((List.range 48).filter (fun l => t.resident.getLsbD l && !(t.id == id && keep.getLsbD l) && s.linesMapped t (onesAt 49 l 1))).map
      (fun l => (t.id, l)))

/-- One line is written back and leaves the register cache; which one is the cache's own choice. -/
def State.evictOne (s : State) (core : Nat) (id : ThreadId) (keep : Lines) : State :=
  let ls := s.evictable core id keep
  match ls[Config.evictedLine s.fresh % ls.length]? with
  | none => s
  | some (v, l) => match s.thread? v with
    | none => s
    | some t => match s.storePage t (pageOfLine l) (onesAt 49 l 1) with
      | .ok s => State.setThread { s with fresh := s.fresh + 1 } { t with resident := t.resident &&& ~~~onesAt 49 l 1 }
      | _ => s

/-- Lines are evicted until a thread's set fits the register cache of its core. -/
def State.makeRoom (s : State) (t : Thread) (lines : Lines) : State :=
  match s.coreOf t with
  | none => s
  | some core =>
    let more := { t with resident := t.resident ||| lines }.linesHeld - t.linesHeld
    (List.range more).foldl (fun s _ =>
      if s.linesOn core + more ≤ Config.registerLines then s else s.evictOne core t.id (t.resident &&& lines)) s

/-- Lines leave a core's register cache while it holds more than it has (R2, R51). -/
def State.trimCache (s : State) (core : Nat) : State :=
  (List.range (s.linesOn core - Config.registerLines)).foldl (fun s _ =>
    if s.linesOn core ≤ Config.registerLines then s else s.evictOne core ⟨0, 0, 0⟩ 0) s

end Sys2Proof.Machine
end

