-- ==== Sys2Proof/Machine/Ops.lean ====
section
/-! DEFINITION. The shared operations over threads: deposits (R55), notices (R145, R331), halting (R308), taking a trap
(R325 to R330) and returning from one, context faults (R52), and the release of blocked threads (R140, R338). -/

namespace Sys2Proof.Machine

/-! ## Causes -/

/-- The code of a cause (R325). -/
def Cause.num : Cause → Nat
  | .illegal => 0x01 | .regRange => 0x02 | .rdInv => 0x03 | .uniDiv => 0x04 | .align => 0x05 | .page => 0x06
  | .prot => 0x07 | .ctxPage => 0x08 | .remoteUnsup => 0x09 | .remoteTimeout => 0x0A | .dataErr => 0x0B | .brk => 0x0C
  | .watch => 0x0D | .step => 0x0E | .trapi => 0x0F | .arith => 0x10 | .deposit => 0x11 | .priv => 0x12
  | .engine => 0x13 | .queue => 0x14 | .addr => 0x15

/-- What a trap reports (R327): the cause, its DETAIL, ADDR, LANE, a table fault's mark, and the entry that matched. -/
structure TrapInfo where
  cause  : Cause
  detail : Nat
  addr   : Word := 0
  lane   : Nat := 0
  table  : Bool := false
  which  : Option Nat := none
  deriving DecidableEq, Repr

/-- The Handler column of R325: no table fault, no damaged context line. -/
def TrapInfo.mayEnter (i : TrapInfo) : Bool :=
  !i.table && (match i.cause with
    | .ctxPage | .engine => false
    | .dataErr => i.detail != 2 && i.detail != 5
    | _ => true)

/-! ## Deposits and notices -/

/-- How a deposit ends (R55). -/
inductive Deposit where
  | done (s : State)
  /-- refused, with the DETAIL of R328 -/
  | refused (s : State) (detail : Nat)
  /-- the target's page is under migration, so the access waits (R320) -/
  | wait
  deriving Repr

/-- The value, the valid granule and the counter of an accepted deposit. One that lands between the read and the write of the
target's group leaves the value that the group wrote (R57). -/
def Thread.putDeposit (t : Thread) (m : Nat) (v : Word) (between : Bool) : Thread :=
  let t := if between then t else t.setS (mailbox m) v
  { t with deposits := t.deposits.set m (t.deposits.getD m 0 + 1) }

/-- A deposit may land in the cycle in which the target's last group read the mailbox that it has then written (R57). -/
def State.depositBetween (s : State) (t : Thread) (m : Nat) : Bool :=
  t.lately.getLsbD m && (t.lastA == s.cycle || t.lastE == s.cycle) && Config.landsBetween s.fresh

/-- TRAPGANG of an ASID (R145). -/
def trapEn (w : Word) : Bool := w.getLsbD 3
def trapMbox (w : Word) : Nat := (getBits w 0 3).toNat
def trapRecv (w : Word) : Word := w &&& 0x01FFFFFFFFFFC000#64

/-- The ASID in which RECV is looked up: the writer's (R145). -/
def State.trapAsid (s : State) (asid : Nat) : Nat :=
  match s.trapBy.lookup asid with
  | some a => a
  | none => asid

/-- The thread that receives an ASID's notices: of an incomplete task of the writer's ASID (R145). -/
def State.receiver (s : State) (asid : Nat) : Option Thread :=
  let w := s.trapGang asid
  s.threads.find? (fun t => t.cbase == trapRecv w && s.asidOf t == s.trapAsid asid)

def State.noticeQueue (s : State) (asid : Nat) : NoticeQueue :=
  match s.notices.find? (fun q => q.asid == asid) with
  | some q => q
  | none => ⟨asid, [], none⟩

def State.setNoticeQueue (s : State) (q : NoticeQueue) : State :=
  { s with notices := s.notices.filter (fun r => r.asid != q.asid) ++
      (if q.held.isEmpty && q.last.isNone then [] else [q]) }

/-- The receiver of the last notice has written its mailbox since (R331). -/
def State.noticeFree (s : State) (q : NoticeQueue) : Bool :=
  match q.last with
  | none => true
  | some (id, m) =>
    match s.thread? id with
    | none => true
    | some t => t.mboxSeen.getLsbD m || t.run == .retired

/-- The trap gang of an ASID is served: TRAPGANG.EN, and an entry that is valid (R145, R310). -/
def State.trapServed (s : State) (asid : Nat) : Bool := s.asidValid asid && trapEn (s.trapGang asid)

/-- A halted thread whose context has not been written back whole: its notice goes out only then (R308). -/
def State.unsaved (s : State) (id : Option ThreadId) : Bool :=
  match id.bind s.thread? with
  | some t => t.run == .halted && t.resident != 0
  | none => false

/-- A notice of an ASID (R331): to the host at once with EN 0, else behind those held; it waits for the write-back (R308). -/
def State.notice (s : State) (asid : Nat) (w : Word) (id : Option ThreadId) : State :=
  if !s.trapServed asid && !s.unsaved id then s.event 0x02 asid w 0
  else
    let q := s.noticeQueue asid
    s.setNoticeQueue { q with held := q.held ++ [(w, id)] }

/-- A notice must wait for an earlier one (R331, NPEND). -/
def State.noticeWaits (s : State) (asid : Nat) : Bool :=
  let q := s.noticeQueue asid
  s.trapServed asid && (!q.held.isEmpty || !s.noticeFree q)

/-- The receiver's context is under migration, for which a deposit waits (R320, R331). -/
def State.receiverHeldUp (s : State) (asid : Nat) : Bool :=
  s.trapServed asid && (match s.receiver asid with
    | some r => s.linesHeldUp r allLines
    | none => false)

/-- A thread's notice is withdrawn when the thread is resumed (R331). -/
def State.withdrawNotice (s : State) (id : ThreadId) : State :=
  { s with notices := s.notices.map (fun q => { q with held := q.held.filter (fun n => n.2 != some id) }) }

/-- A CTXPAGE notice for a thread's context: to the host when the trap gang is the thread's own gang (R52). -/
def State.ctxNotice (s : State) (t : Thread) (w : Word) (id : Option ThreadId) : State :=
  let asid := s.asidOf t
  let own := match s.receiver asid with
    | some r => r.id.task == t.id.task && r.id.gang == t.id.gang
    | none => false
  if own then s.event 0x02 asid w 0 else s.notice asid w id

/-! ## Halting and traps -/

/-- The loads of an owner end; an atomic that the target may have performed stays asked. -/
def State.dropLoads (s : State) (o : Owner) : State :=
  { s with pends := s.pends.filter (fun p => !(decide (p.owner = o) && (match p.asked with | .bytes .. => true | .atomic _ => false))) }

/-- An atomic of a thread at another device or the host awaits its answer: its instruction has no boundary yet (R82, R151). -/
def State.midAtomic (s : State) (id : ThreadId) : Bool :=
  s.pends.any (fun p => decide (p.owner = .thread id) && (match p.asked with
    | .atomic _ => true
    | .bytes .. => false))

/-- A thread is blocked (R32). -/
def Thread.isBlocked (t : Thread) : Bool :=
  match t.block with
  | .wait | .gbar | .bar | .dbar => true
  | _ => false

/-- A thread that waits where it is: active or resident (a halted or parked one reads its phase when it runs again). -/
def Thread.waitsHere (t : Thread) : Bool := t.run == .active || t.run == .resident

/-- A thread as it stops: RUN 3, HCAUSE, its context written back (R308, R51); its slot becomes free. Lines whose page does not
translate stay in the register cache, with one CTXPAGE notice, DESIGN CHOICE (log 47). -/
def State.stopThread (s : State) (t : Thread) (cause : Nat) : State × Thread :=
  let t := { t with run := .halted, hcause := BitVec.ofNat 8 cause, slot := none, lqFly := 0
                    since := if t.isBlocked || t.run == .halted then t.since else s.cycle }
  let (s, t) := (s.dropLoads (.thread t.id)).saveContext t
  (if t.resident = 0 || !s.linesFail t t.resident then s else s.ctxNotice t (t.cbase + 8) none, t)

/-- A thread halts. -/
def State.halt (s : State) (t : Thread) (cause : Nat) : State := let (s, t) := s.stopThread t cause; s.setThread t

/-- INFO of the trap record (R327). -/
def trapInfoWord (i : TrapInfo) (npend handler : Bool) : Word :=
  let wv : BitVec 4 := match i.which with
    | some n => 1#1 ++ BitVec.ofNat 3 n
    | none => 0
  0#12 ++ wv ++ BitVec.ofNat 16 i.lane ++ BitVec.ofNat 16 i.detail ++ 0#3 ++ BitVec.ofBool npend
    ++ BitVec.ofBool (decide (i.cause = .watch)) ++ BitVec.ofBool (decide (i.cause = .brk) && i.which.isSome)
    ++ BitVec.ofBool i.table ++ BitVec.ofBool handler ++ BitVec.ofNat 8 (Cause.num i.cause)

/-- What a failed translation reports (R312 to R314, R328): ADDR is the VA, or the node's PA for a table fault. -/
def trFault (cause : Cause) (detail : Nat) (va : Word) (lane : Nat) (table : Bool) (pa : Nat) : TrapInfo :=
  { cause := cause, detail := detail, addr := if table then BitVec.ofNat 64 pa else va, lane := lane, table := table }

/-! ### Fetching words (R103 steps 1 and 2) -/

/-- A word as fetched. -/
inductive FetchedWord where
  | ok (s : State) (w : Word)
  | trap (s : State) (i : TrapInfo)
  | wait

/-- One word at a VA for a thread on a core (R103 steps 1 and 2, R129, R315). ADDR of a misaligned PC is 0 (R327), and of an
uncorrectable error the VA of its line (R340). -/
def State.fetchWord (s : State) (core : Option Nat) (asid : Nat) (va : Word) : FetchedWord :=
  if va.toNat % 8 ≠ 0 then .trap s { cause := .align, detail := 3 }
  else match s.translate core asid va.toNat ⟨false, false, true, !s.asidPriv asid⟩ with
    | .wait => .wait
    | .fault s c table pa => .trap s (trFault c 4 va 0 table pa)
    | .ok s page _ leaf =>
      if pteMode leaf ≠ 0 then .trap s { cause := .remoteUnsup, detail := 0, addr := va }
      else
        let pa := leafPA page leaf va.toNat
        let bad : TrapInfo := { cause := .dataErr, detail := 3, addr := BitVec.ofNat 64 (va.toNat / 256 * 256) }
        if s.badAt pa 8 then .trap (s.scanned pa 8) bad
        else if !s.resident pa then .trap s bad
        else let (s, w) := (s.corrected pa 8).codeWord asid pa; .ok s w

/-- The instruction word of the group at an address, without its prefixes, for the trap record (R327); 0 where it cannot
be fetched, DEDUCED (log 20). -/
def State.wordFrom (s : State) (core : Option Nat) (asid : Nat) : Nat → Word → Word
  | 0, _ => 0
  | fuel + 1, va =>
    match s.fetchWord core asid va with
    | .ok _ w => if isPrefixWord w then s.wordFrom core asid fuel (va + 8) else w
    | _ => 0
def State.wordAtPC (s : State) (t : Thread) : Word := s.wordFrom (s.coreOf t) (s.asidOf t) 3 t.pc

/-! ### The trap record -/

/-- HANDLER of the trap record (R327). -/
def TrapRecord.handler (r : TrapRecord) : Bool := r.info.getLsbD 8
def TrapRecord.bpSkip (r : TrapRecord) : Bool := r.info.getLsbD 10
def TrapRecord.wSkip (r : TrapRecord) : Bool := r.info.getLsbD 11

/-- The trap record after a trap (R327, R329, R330): while HANDLER is 1 the saved words stay. DEDUCED (log 18): with
HANDLER 0 they are written at every trap, whether or not the trap enters the handler. -/
def Thread.trapRecord (t : Thread) (fpc resume iword : Word) (i : TrapInfo) (npend enters : Bool) : TrapRecord :=
  let r := t.trapRec
  let h := r.handler
  { fpc := fpc
    info := trapInfoWord i npend (h || enters)
    addr := i.addr
    rep := if h then r.rep else t.repWord
    rpc := if h then r.rpc else resume
    ss := if h then r.ss else (if t.ss then 0x10000 else 0)
    iword := iword
    count := (r.count + 1) &&& 0xFFFFFFFF }

/-- A trap enters the thread's own handler (R329). -/
def Thread.entersHandler (t : Thread) (i : TrapInfo) : Bool :=
  t.trapen.getLsbD (Cause.num i.cause) && t.tvec != 0 && !t.trapRec.handler && i.mayEnter

/-- A trap's notice goes to the host's event buffer: a damaged control area (R340). -/
def TrapInfo.toHost (i : TrapInfo) : Bool := decide (i.cause = .dataErr) && i.detail == 5

/-- A thread that goes to no handler halts with its record filled, and its notice goes out (R308, R330, R331). -/
def State.haltWith (s : State) (t : Thread) (fpc resume iword : Word) (i : TrapInfo) : State :=
  let asid := s.asidOf t
  let late := !i.toHost && (s.noticeWaits asid || !s.linesMapped t t.resident || s.receiverHeldUp asid)
  let t := { t with trapRec := t.trapRecord fpc resume iword i late false, pc := resume, deadline := none, resumed := false }
  let s := s.halt t (Cause.num i.cause)
  let w := t.cbase + BitVec.ofNat 64 (Cause.num i.cause)
  if i.toHost then s.event 0x02 asid w 0 else s.notice asid w (some t.id)

/-- TAKING A TRAP (R308, R329 to R331). `t` is the thread with what it keeps, `fpc` the first word of the group, `resume`
where the thread continues. The handler is entered, or the thread halts and its notice goes out. -/
def State.takeTrap (s : State) (t : Thread) (fpc resume iword : Word) (i : TrapInfo) : State :=
  let t := { t with block := .none, saved := List.replicate 4 0 }
  if t.entersHandler i then
    -- the answers that the group has received serve no later group (R200)
    (s.dropLoads (.thread t.id)).setThread { t with
      trapRec := t.trapRecord fpc resume iword i false true, repLeft := 0, repIter := 0, ss := false, pc := t.tvec,
      deadline := none, resumed := false }
  else s.haltWith t fpc resume iword i

/-- RETURN FROM A TRAP (R330): the PC, the REP state and SS come back from the record, and HANDLER is cleared. The group that
runs next is the first after a resumption (R337). -/
def Thread.trapReturn (t : Thread) : Thread :=
  let r := t.trapRec
  { t with
    pc := r.rpc
    repLeft := getBits r.rep 0 16
    repIter := getBits r.rep 16 16
    ss := r.ss.getLsbD 16
    trapRec := { r with info := r.info &&& ~~~(0x100#64) }
    resumed := true }

/-- The first group after a resumption is exempt: at the PC equal to FPC, from breakpoints with BPSKIP and from watchpoints with
WSKIP (R337). -/
def Thread.skipsBreaks (t : Thread) : Bool := t.resumed && t.pc == t.trapRec.fpc && t.trapRec.bpSkip
def Thread.skipsWatches (t : Thread) : Bool := t.resumed && t.trapRec.wSkip

/-- BPSKIP and WSKIP cleared. -/
def Thread.noSkips (t : Thread) : Thread := { t with trapRec := { t.trapRec with info := t.trapRec.info &&& ~~~(0xC00#64) } }

/-- A group begins: at another PC than FPC neither flag lasts (R337). -/
def Thread.atResume (t : Thread) : Thread := if t.resumed && t.pc != t.trapRec.fpc then t.noSkips else t

/-- The thread has executed since its resumption: BPSKIP and WSKIP are cleared (R337). -/
def Thread.executed (t : Thread) : Thread :=
  if t.resumed then { t.noSkips with resumed := false } else t

/-- A context fault (R52): the thread is parked with BLOCK 8, its trap record names CTXPAGE (R325, R328), but for BPSKIP and
WSKIP, which survive a parking (R334), and a CTXPAGE notice goes out. -/
def State.contextFault (s : State) (t : Thread) (iword : Word) : State :=
  let r := t.trapRecord t.pc t.pc iword { cause := .ctxPage, detail := 1 } false false
  let r := if t.resumed && t.pc == t.trapRec.fpc then { r with info := r.info ||| (t.trapRec.info &&& 0xC00#64) } else r
  let t := { t with run := .parked, block := .ctxFault, saved := List.replicate 4 0, slot := none, since := s.cycle, deadline := none, lqFly := 0
                    trapRec := r }
  -- the walks that have failed read their nodes (R358)
  let s := (List.range 4).foldl (fun s c => s.readNodes (s.asidOf t) (t.cbase.toNat + 4096 * c)) s
  let (s, t) := (s.dropLoads (.thread t.id)).saveContext t
  (s.setThread t).ctxNotice t (t.cbase + 8) (some t.id)

/-! ## Deposits by a thread or an engine -/

/-- A deposit of a value into mailbox `m` of a thread (R55): through the register cache of an active or resident target, else
in the context block. A target in the register cache whose line cannot be loaded takes its context fault (R52). -/
def State.deposit (s : State) (id : ThreadId) (m : Nat) (v : Word) : Deposit :=
  match s.thread? id with
  | none => .refused s 3
  | some t =>
    if t.run = .retired then .refused s 3
    else if t.waitsHere then
      match s.loadRegs t [.s (mailbox m)] with
      | .wait => .wait
      | .bad => .refused (s.contextFault t (s.wordAtPC t)) 5
      | .ok (s', u) =>
        if u.isPending (.s (mailbox m)) then .refused s 4
        else if u.resident = t.resident then
          .done (State.setThread { s with fresh := s.fresh + 1 } (t.putDeposit m v (s.depositBetween t m)))
        else
          .done ((s'.makeRoom t u.resident).setThread (u.putDeposit m v false))
    else
      let (s, t) := s.saveContext t
      let s := s.setThread t
      match s.loadRegs t [.s (mailbox m)] with
      | .wait => .wait
      | .bad => .refused s 5
      | .ok (_, u) =>
        let lines := u.lines (.s (mailbox m)) ||| controlLine
        if u.isPending (.s (mailbox m)) then .refused s 4
        else if t.resident &&& lines ≠ 0 then (if s.linesFail t lines then .refused s 5 else .wait)
        else match s.editThread id lines (fun t => t.putDeposit m v false) with
          | .ok s => .done s
          | .wait => .wait
          | .bad => .refused s 5

/-! ## Blocked threads -/

/-- The return of a `bar` or `barw` is an acquire at its SCOPE (R186): at scope 4 or 5 it advances the remote epoch (R317). -/
def wideBar (w : Word) : Bool :=
  match decodeWord w with
  | .ok (.bar m _) | .ok (.barw m _) => m.scope == .grp || m.scope == .sys
  | _ => false

/-- A prefixed `bar` or `barw` keeps the PC on its group (R110, R115). -/
def Thread.onGroup (t : Thread) : Bool := t.block == .bar && t.pc == t.blockPC

/-- A thread whose wait is over. A prefixed `bar` or `barw` is released on its group, which then goes on without a second arrival
(R185); any other has executed its group (R337). -/
def Thread.released (t : Thread) (cycle : Nat) : Thread :=
  let u := { t with block := .none, saved := List.replicate 4 0, readyAt := cycle, passed := t.onGroup }
  if t.onGroup then u else u.executed

/-- A blocked thread's group returns: it goes on, or with SS it halts after the group (R338). -/
def State.unblock (s : State) (id : ThreadId) : State :=
  match s.thread? id with
  | none => s
  | some t =>
    let s := if t.block == .bar && wideBar t.blockWord then { s with remEpoch := s.remEpoch + 1 } else s
    let u := t.released s.cycle
    if !t.onGroup && t.ss then s.takeTrap u t.blockPC t.pc t.blockWord ⟨.step, 0, 0, 0, false, none⟩ else s.setThread u

/-- Every thread that a predicate picks, among those that wait where they are, goes on. -/
def State.releaseThreads (s : State) (p : Thread → Bool) : State :=
  ((s.threads.filter (fun t => t.waitsHere && p t)).map (·.id)).foldl State.unblock s

/-- The phase number in the saved-wait area (R141). -/
def Thread.savedPhase32 (t : Thread) : BitVec 32 := getBits (t.saved.getD 1 0) 0 32
def Thread.savedPhase24 (t : Thread) : BitVec 24 := getBits (t.saved.getD 1 0) 0 24
def Thread.savedLevel (t : Thread) : Nat := (getBits (t.saved.getD 1 0) 32 3).toNat
/-- The barrier word in the saved-wait area: address and SPACE (R141). -/
def Thread.savedBar (t : Thread) : Nat × Space :=
  let w := t.saved.getD 0 0
  ((getBits w 0 57).toNat, Space.ofCode (getBits w 57 2))

/-- A barrier word has completed a phase (R184). -/
def barCompleted (word : Word) (p : BitVec 24) : Bool :=
  let d := (getBits word 40 24 - p).toNat
  decide (1 ≤ d ∧ d ≤ 2 ^ 23)

/-! ## Instructions as groups -/

/-- Where a body runs: the first word of its group, the upper half of an `imx`, whether a `uni` or `rep` stands before. -/
structure Ctx where
  pc0 : Word
  hi  : Option (BitVec 32) := none
  pre : Bool := false
  deriving DecidableEq, Repr

/-- How an instruction's body ends. -/
inductive Res where
  /-- completed: the state and the issuing thread -/
  | ok (s : State) (t : Thread)
  /-- a trap; the state keeps what its accesses left outside the thread -/
  | trap (s : State) (i : TrapInfo)
  /-- cannot proceed yet: tried again from the start -/
  | retry (s : State) (b : Block)
  /-- has had its effect and waits: the thread carries BLOCK and its saved wait -/
  | wait (s : State) (t : Thread)
  /-- lines of the context block that the register cache must hold first -/
  | fill (s : State) (lines : Lines)
  deriving Repr

/-- The meaning of an instruction once its registers may be used: the thread's PC already names the next group. -/
abbrev Body := Ctx → State → Thread → Res

end Sys2Proof.Machine
end

