-- ==== Sys2Proof/Machine/Operands.lean ====
section
/-! DEFINITION. Operand forms: which registers an instruction reads and writes (R49, R50, R99), what must hold before it
runs (R326 item 3, R103 step 9), and the lanes of vectors and masks (R44, R93, R154). -/

namespace Sys2Proof

/-! ## Registers read and written -/

/-- What an instruction does with its field D: nothing, reads it, writes it, writes it keeping disabled lanes (and so
reads it when masked without `.z`), or reads and writes it whatever its mask (R49). -/
inductive DUse where
  | unused | read | write | keeps | both
  deriving DecidableEq, Repr

/-- The mask of an instruction and whether it carries `.z` (R21, R155). -/
def Instr.maskZ : Instr → KReg × Bool
  | .vadd _ z k .. | .vsub _ z k .. | .vmul _ z k .. | .vmulh _ z k .. | .vand _ z k .. | .vor _ z k .. | .vxor _ z k ..
  | .vandn _ z k .. | .vshl _ z k .. | .vshr _ z k .. | .vsar _ z k .. | .vmin _ z k .. | .vmax _ z k .. | .vabs _ z k ..
  | .vneg _ z k .. | .vadds _ z k .. | .vsubs _ z k .. => (k, z)
  | .vfadd _ _ k .. | .vfsub _ _ k .. | .vfmul _ _ k .. | .vfma _ _ k .. | .vfms _ _ k .. | .vfnma _ _ k ..
  | .vfmin _ _ k .. | .vfmax _ _ k .. | .vfabs _ k .. | .vfneg _ k .. | .vfdiv _ _ k .. | .vfsqrt _ _ k ..
  | .vfrcp _ _ k .. | .vfrsq _ _ k .. | .vfexp2 _ _ k .. | .vflog2 _ _ k .. | .vfscale _ _ k .. => (k, false)
  | .vmov z k .. | .vbcast _ z k .. | .vins _ z k .. | .vperm _ z k .. | .vslide _ z k .. | .vzip _ z _ k ..
  | .vunzip _ z _ k .. | .vsel _ z k .. | .vcomp _ z k .. | .vexpd _ z k .. | .vscan _ _ z k .. => (k, z)
  | .vredsum _ _ k .. | .vredmax _ k .. | .vredmin _ k .. => (k, false)
  | .vcmp _ _ z k .. | .vfcmp _ _ z k .. | .vfclass _ z k .. => (k, z)
  | .vcvt _ _ _ _ _ k .. | .vcvtq _ _ _ _ _ k .. | .vcvtd _ _ _ _ k .. | .vpack _ k .. | .vunpack _ _ k .. => (k, false)
  | .vld _ _ k _ | .vst _ _ k _ | .vlds _ _ k _ | .vsts _ _ k _ | .vgat _ _ k _ | .vsca _ _ k _ | .vldb _ _ k _ => (k, false)
  | _ => (0, false)

/-- The use of field D (R49 and each entry). -/
def Instr.dUse : Instr → DUse
  | .vadd .. | .vsub .. | .vmul .. | .vmulh .. | .vand .. | .vor .. | .vxor .. | .vandn .. | .vshl .. | .vshr .. | .vsar ..
  | .vmin .. | .vmax .. | .vabs .. | .vneg .. | .vadds .. | .vsubs .. => .keeps
  | .vfadd .. | .vfsub .. | .vfmul .. | .vfma .. | .vfms .. | .vfnma .. | .vfmin .. | .vfmax .. | .vfabs .. | .vfneg ..
  | .vfdiv .. | .vfsqrt .. | .vfrcp .. | .vfrsq .. | .vfexp2 .. | .vflog2 .. | .vfscale .. => .keeps
  | .vmov .. | .vbcast .. | .vperm .. | .vslide .. | .vzip .. | .vunzip .. | .vsel .. | .vcomp .. | .vexpd .. | .vscan .. => .keeps
  | .vins .. => .both
  | .vcmp .. | .vfcmp .. | .vfclass .. => .keeps
  | .vcvt td ts .. => if ts.lanes < td.lanes then .both else .keeps
  | .vcvtq .. => .both
  | .vcvtd .. | .vpack .. | .vunpack .. => .keeps
  | .vld .. | .vlds .. | .vgat .. | .vldb .. => .keeps
  | .st .. | .vst .. | .vsts .. | .vsca .. => .read
  | .cwb .. | .cinv .. | .czero .. | .binit .. | .barw .. | .bset .. => .read
  | .aadd o | .aand o | .aor o | .axor o | .amin o | .amax o | .aminn o | .amaxn o | .aswp o | .acas o _ | .ainc o
  | .adec o | .afadd o | .afmin o | .afmax o => if o.nr then .unused else .write
  | .mxsub .. => .both
  | .pf .. | .fence .. | .bra .. | .br .. | .brany .. | .brall .. | .jr .. | .ret .. | .brk .. | .trap .. | .yield | .retire
  | .gbar | .dbar .. | .gput .. | .mxgeom .. | .mtsr .. | .tlbi .. | .tlbsync | .spsplit .. | .trapret | .nop .. => .unused
  | _ => .write

/-- A field as a register. -/
def RClass.ref (c : RClass) (n : BitVec 6) : List Machine.RegRef :=
  match c with
  | .scalar => [.s n]
  | .vec | .vecIn | .vecOut => [.v n]
  | .mask => [.k (KReg.ofField n)]
  | _ => []

/-- Fields B and C that an entry names as destinations: the scales of `vcvtq`, the digest of `ghash`, the results of
`mldr` and `mst` (R219, R278, R360, R376). -/
def Instr.bcWritten : Instr → Bool × Bool
  | .vcvtq .. => (true, false)
  | .ghash .. => (false, true)
  | .mldr .. => (true, true)
  | .mst .. => (false, true)
  | _ => (false, false)

/-- PREG is read by the graph instructions that carry `.prog`, and NREG written (R278, R292). -/
def Instr.graphRegs : Instr → List Machine.RegRef × List Machine.RegRef
  | .gcopy _ _ _ _ n o | .gfree _ _ _ _ n o | .gcount _ _ _ n o => (if o.prog then [.s o.preg] else [], [.s n])
  | .gsend _ _ _ _ o | .gcmp _ _ _ _ o | .ghash _ _ _ _ o => (if o.prog then [.s o.preg] else [], [])
  | _ => ([], [])

/-- The registers that an instruction reads, in the order A, B, C, K, D in which an invalid one is reported. DEDUCED
(log 19): the order among several invalid registers. -/
def Instr.reads (i : Instr) : List Machine.RegRef :=
  let c := Instr.classes i
  let r := Instr.regs i
  let (bw, cw) := i.bcWritten
  let (k, z) := i.maskZ
  let d := match i.dUse with
    | .read | .both => true
    | .keeps => k != 0 && !z
    | _ => false
  c.a.ref r.a ++ (if bw then [] else c.b.ref r.b) ++ (if cw then [] else c.c.ref r.c) ++ [.k k] ++ i.graphRegs.1
    ++ (if d then c.d.ref r.d else [])

/-- The registers that an instruction writes. -/
def Instr.writes (i : Instr) : List Machine.RegRef :=
  let c := Instr.classes i
  let r := Instr.regs i
  let (bw, cw) := i.bcWritten
  let d := match i.dUse with
    | .write | .keeps | .both => true
    | _ => false
  (if d then c.d.ref r.d else []) ++ (if bw then c.b.ref r.b else []) ++ (if cw then c.c.ref r.c else []) ++ i.graphRegs.2

/-- The instruction loads a vector: its D names `lq`, not `sq`, as a queue (R99). -/
def Instr.loadsVector : Instr → Bool
  | .vld .. | .vlds .. | .vgat .. | .vldb .. => true
  | _ => false

/-- The instruction stores a vector: its D is the data (R99). -/
def Instr.storesVector : Instr → Bool
  | .vst .. | .vsts .. | .vsca .. => true
  | _ => false

/-- Privileged instructions and registers (R144, R146, R147). -/
def Instr.needsPriv : Instr → Bool
  | .tlbi .. | .tlbsync | .pgmig .. | .spsplit .. | .snap .. | .bset .. | .agset .. => true
  | .mfsr _ n => 0x20 ≤ n
  | .mtsr _ n => 0x20 ≤ n || n == 0x0C
  | _ => false

/-- `mtsr` to a register without write access (R144, R28). -/
def Instr.noWriteAccess : Instr → Bool
  | .mtsr _ n => n ≤ 5 || n == 7 || (0x0D ≤ n && n ≤ 0x10)
  | _ => false

/-- Pops of `lq` by an instruction's sources (R157). -/
def Instr.lqPops (i : Instr) : Nat :=
  let c := Instr.classes i
  let r := Instr.regs i
  let one (c : RClass) (n : BitVec 6) : Nat := if c = .vecIn ∧ n = 32 then 1 else 0
  one c.a r.a + one c.b r.b + one c.c r.c

/-- Least and greatest value of an integer type. -/
def ElemType.least (ty : ElemType) : Int := if ty.signed then -(2 ^ (ty.width - 1) : Nat) else 0
def ElemType.greatest (ty : ElemType) : Int := if ty.signed then (2 ^ (ty.width - 1) : Nat) - 1 else (2 ^ ty.width : Nat) - 1

end Sys2Proof

namespace Sys2Proof.Machine

/-! ## What must hold before an instruction runs -/

/-- The lines of the context block that an instruction's registers and the control area touch. -/
def Thread.touches (t : Thread) (i : Instr) : Lines :=
  (i.reads ++ i.writes).foldl (fun acc r => acc ||| t.lines r) controlLine

/-- RDINV's DETAIL: class and number (R328). -/
def RegRef.detail : RegRef → Nat
  | .s n => n.toNat
  | .k n => 256 + n.toNat
  | .v n => 512 + n.toNat

/-- The queue discipline (R175, R176): DETAIL of QUEUE. -/
def Thread.queueFault (t : Thread) (i : Instr) : Option Nat :=
  let d := (Instr.regs i).d
  if t.lq.length < i.lqPops then some 1
  else if i.loadsVector && d == 32 && 4 ≤ t.lq.length then some 2
  else if (Instr.classes i).d == .vecOut && !i.storesVector && d == 33 && 4 ≤ t.sq.length then some 3
  else if i.storesVector && d == 33 && t.sq.isEmpty then some 4
  else none

/-- What stands in the way of an instruction. -/
inductive Gate where
  | go (s : State) (t : Thread)
  | trap (s : State) (t : Thread) (i : TrapInfo)
  /-- tried again later; the BLOCK of the wait -/
  | stall (s : State) (b : Block)
  | ctxFault (s : State)
  deriving Repr

/-- A register miss, counted for the snapshot registers (R356). -/
def State.countMiss (s : State) (t : Thread) : State :=
  match s.coreOf t with
  | some c => let k := s.core c
    s.setCore { k with misses := k.misses + 1 }
  | none => s

/-- The lines that a thread needs are brought into the register cache, where others make room (R51, R52). An uncorrectable error
raises DATAERR: ADDR is the line's VA, or its offset for a line of the register space (R340). A page under migration is waited
for (R320). -/
def State.bringIn (s : State) (t : Thread) (lines : Lines) (iword : Word) : Gate :=
  match s.badLine t lines with
  | some (l, off) => match s.loadLine t l with
    | .ok (s, t) =>
      if l < 48 then .trap s t ⟨.dataErr, 2, BitVec.ofNat 64 off, 0, false, none⟩
      else .trap s t ⟨.dataErr, 5, t.cbase + BitVec.ofNat 64 off, 0, false, none⟩
    | _ => .stall s .regMiss
  | none =>
    if t.damaged ≠ 0 && lines.getLsbD 48 && !t.hasControl then .trap s t ⟨.dataErr, 5, t.cbase + 0x3000, 0, false, none⟩
    else match s.loadLines t lines with
      | .bad => .ctxFault (s.contextFault t iword)
      | .wait => .stall s .regMiss
      | .ok (_, u) =>
        -- room is made by write-back of other lines, which changes none that are brought in
        match (s.makeRoom t u.resident).loadLines t lines with
        | .ok (s, t) => .go (s.countMiss t) t
        | _ => .stall s .regMiss

/-- A register that an instruction reads and that holds an uncorrectable error (R340): its line. -/
def Thread.badRead (t : Thread) (i : Instr) : Option Nat :=
  let g := i.reads.foldl (fun acc r => acc ||| t.granules r) 0 &&& t.badRegs
  (List.range 48).find? (fun l => g &&& onesAt 1536 (32 * l) 32 != 0)

/-- A queue entry that an instruction takes and that holds an uncorrectable error (R328): its place, sq entries from 4 on. -/
def Thread.badEntry (t : Thread) (i : Instr) : Option Nat :=
  if t.badQueue = 0 then none
  else
    let lq := (List.range i.lqPops).map (fun k => (t.lqHead.toNat + k) % 4)
    let sq := if i.storesVector && (Instr.regs i).d == 33 then [4 + t.sqHead.toNat] else []
    (lq ++ sq).find? (fun p => t.badQueue.getLsbD p)

/-- The thread after the error of a register line: no granule of the line is valid (R340). -/
def Thread.dropLine (t : Thread) (l : Nat) : Thread :=
  { t with valid := t.valid &&& ~~~onesAt 1536 (32 * l) 32, badRegs := t.badRegs &&& ~~~onesAt 1536 (32 * l) 32 }

/-- The thread after the error of a queue entry, whose data are lost. -/
def Thread.dropEntry (t : Thread) (p : Nat) (bs : List Byte) : Thread :=
  let x : VecBits := BitVec.ofNat 2048 (natOfBytes bs)
  let t := { t with badQueue := t.badQueue &&& ~~~onesAt 8 p 1 }
  if p < 4 then { t with lq := t.lq.set ((p + 4 - t.lqHead.toNat) % 4) x } else { t with sq := t.sq.set ((p - t.sqHead.toNat) % 4) x }

/-- An uncorrectable error in a register or a queue entry that an instruction uses raises DATAERR; the SRAM line is disabled (R340, R358). -/
def State.sramGate (s : State) (t : Thread) (i : Instr) : Option Gate :=
  match t.badRead i with
  | some l => some (.trap (s.sramLost ((s.coreOf t).getD 0)) (t.dropLine l) ⟨.dataErr, 2, BitVec.ofNat 64 (256 * l), 0, false, none⟩)
  | none => match t.badEntry i with
    | some p =>
      let (s, bs) := (s.sramLost ((s.coreOf t).getD 0)).lostBytes 256
      some (.trap s (t.dropEntry p bs) ⟨.dataErr, 4, t.cbase + BitVec.ofNat 64 (0x3400 + 256 * p), 0, false, none⟩)
    | none => none

/-- Before an instruction runs: privilege (R103 step 9), its context (R52), pending registers (R50), invalid registers
(R49), the queues (R175, R176). `word` is the group's own instruction word, which a context fault records (R327). -/
def State.gate (s : State) (t : Thread) (i : Instr) (word : Word := i.word) : Gate :=
  if (i.needsPriv && !s.asidPriv (s.asidOf t)) || i.noWriteAccess then .trap s t ⟨.priv, 0, 0, 0, false, none⟩
  else
    let g := if t.touches i &&& ~~~t.resident = 0 then Gate.go s t else s.bringIn t (t.touches i) word
    match g with
    | .go s t =>
      if (i.reads ++ i.writes).any t.isPending then .stall s .none
      else match i.reads.find? (fun r => !t.isValid r) with
        | some r => .trap s t ⟨.rdInv, r.detail, 0, 0, false, none⟩
        | none =>
          match t.queueFault i with
          | some d => .trap s t ⟨.queue, d, 0, 0, false, none⟩
          | none => (s.sramGate t i).getD (.go s t)
    | g => g

/-! ## Issue -/

/-- Scalar registers as a set. -/
def scalarSet (rs : List RegRef) : BitVec 64 :=
  rs.foldl (fun acc r => match r with
    | .s n => acc ||| (1#64 <<< n.toNat)
    | _ => acc) 0

/-- The mailboxes that have a granule of a set. -/
def Thread.boxesIn (t : Thread) (g : GranuleBits) : BitVec 8 :=
  (List.range 8).foldl (fun acc m => if t.granules (.s (mailbox m)) &&& g != 0 then acc ||| onesAt 8 m 1 else acc) 0

/-- Mailboxes that an instruction of the thread itself has written (R331). -/
def Thread.noteMailboxes (t : Thread) (written : GranuleBits) : Thread := { t with mboxSeen := t.mboxSeen ||| t.boxesIn written }

/-- The granules of registers. -/
def Thread.granulesOf (t : Thread) (rs : List RegRef) : GranuleBits := rs.foldl (fun acc r => acc ||| t.granules r) 0

/-- Registers that a thread writes are noted: mailboxes for R331, and statuses that are no longer there (R205). -/
def Thread.wrote (t : Thread) (before : Thread) (writes : List RegRef) : Thread :=
  let t := t.noteMailboxes (before.granulesOf writes)
  { t with badRegs := t.badRegs &&& ~~~before.granulesOf writes, wideStat := t.wideStat &&& ~~~scalarSet writes }

/-- A group or a `rep` iteration has completed: the registers written are noted, and with SS the thread halts with STEP (R338).
`t` is the thread before the group. -/
def State.finishGroup (s : State) (word : Word) (writes : List RegRef) (t t' : Thread) (stepDetail : Nat) : State :=
  let t' := t'.wrote t writes
  if t.ss && (t'.run == .active || t'.run == .resident) then s.takeTrap t' t.pc t'.pc word ⟨.step, stepDetail, 0, 0, false, none⟩
  else s.setThread t'

/-- The end of a group: the exemptions of R337 end, but for `trapret`, which begins them. -/
def State.finish (s : State) (i : Instr) (t t' : Thread) (stepDetail : Nat) : State :=
  let t' := match i with
    | .trapret => t'
    | _ => t'.executed
  s.finishGroup i.word i.writes t t' stepDetail

/-- Where a trap resumes: past the group for `brk` and `trap`, else at the group (R128, R329). -/
def TrapInfo.resume (i : TrapInfo) (pc0 next : Word) : Word :=
  if i.cause = .trapi ∨ (i.cause = .brk ∧ i.which = none) then next else pc0

/-- An uncorrectable error in a line of the register space, met through `cx:`, leaves no granule of the line valid (R340). -/
def TrapInfo.loses (i : TrapInfo) (t : Thread) : Thread :=
  if i.cause = .dataErr ∧ i.detail = 2 then t.dropLine (i.addr.toNat / 256) else t

/-- A thread that cannot go on yet stands on its group, to be tried again; BLOCK other than a wait's has no saved wait (R141). -/
def Thread.stalled (t : Thread) (b : Block) (cycle : Nat) : Thread :=
  { t with block := b, saved := List.replicate 4 0, since := if t.block = b then t.since else cycle }

/-- The outcome of a body for the thread that issued it; `word` is the group's own instruction word (R327). -/
def State.settleAs (s : State) (word : Word) (i : Instr) (t : Thread) (next : Word) (r : Res) : State :=
  match r with
  | .ok s' t' => s'.finish i t t' 0
  | .trap s' info => s'.takeTrap (info.loses t) t.pc (info.resume t.pc next) word info
  | .retry s' b => s'.setThread (t.stalled b s.cycle)
  | .fill s' lines =>
    match s'.bringIn t lines word with
    | .go s t => s.setThread (t.stalled .regMiss s.cycle)
    | .trap s t info => s.takeTrap t t.pc t.pc word info
    | .stall s b => s.setThread (t.stalled b s.cycle)
    | .ctxFault s => s
  | .wait s' t' =>
    let stays := t'.pc == t.pc
    let t' := { t' with
      blockPC := t.pc, blockWord := word
      since := if stays && t.block == t'.block then t.since else s.cycle }
    -- a group that has read or written its registers before it blocks has written them (R331), and the PC past it ends R337
    s'.setThread (if stays && t'.block == .wait then t' else if stays then t'.wrote t i.writes else (t'.wrote t i.writes).executed)

/-- The outcome of a body that no `rep` has stepped. -/
def State.settle (s : State) (i : Instr) (t : Thread) (next : Word) (r : Res) : State := s.settleAs i.word i t next r

/-- A thread's state outside REP groups: the REP state is cleared where the PC names no `rep` word (R115). -/
def Thread.clearRep (t : Thread) : Thread := { t with repLeft := 0, repIter := 0 }

/-- A thread at the beginning of a group that no `rep` precedes: no REP state (R115), the flags of R337 as the PC allows them. -/
def Thread.atGroup (t : Thread) : Thread := { t.clearRep.atResume with passed := false }

/-- Reading the status of a command that wrote another device is an acquire at system scope (R205, R317). -/
def State.readStatus (s : State) (t : Thread) (i : Instr) : State :=
  if t.wideStat &&& scalarSet i.reads != 0 then { s with remEpoch := s.remEpoch + 1 } else s

/-- One group of a thread (R106), `words` words long: the gate, then the body with the PC at the next group. -/
def issueSized (words : Nat) (i : Instr) (body : Body) (s : State) (t : Thread) : State :=
  let next := t.pc + BitVec.ofNat 64 (8 * words)
  match s.gate t i with
  | .stall s b => s.setThread (t.stalled b s.cycle)
  | .ctxFault s => s
  | .trap s t info => s.takeTrap t t.pc t.pc i.word info
  | .go s t =>
    let t := t.atGroup
    let s := s.readStatus t i
    s.settle i t next (body { pc0 := t.pc } s { t with pc := next, block := .none, saved := List.replicate 4 0, zeroed := 0 })

/-- One group of a single word. -/
def issueThread (i : Instr) (body : Body) (s : State) (t : Thread) : State := issueSized 1 i body s t

/-- One group of the issuing thread. -/
def issue (i : Instr) (body : Body) (s : State) : Host.Outcome State Fault Refusal :=
  match s.thread? s.cur with
  | none => .fault .noThread
  | some t => .next (issueThread i body s t)

/-! ## Lanes -/

/-- Lane `i` of width `w` (R108). -/
def lane {n : Nat} (x : BitVec n) (w i : Nat) : Nat := (getBits x (w * i) w).toNat

/-- The number whose `w`-bit digits are given, the first least significant. -/
def natOfLanes (w : Nat) : List Nat → Nat
  | [] => 0
  | x :: xs => x % 2 ^ w + 2 ^ w * natOfLanes w xs

/-- A vector from its lanes. -/
def vecOfLanes (w : Nat) (xs : List Nat) : VecBits := BitVec.ofNat 2048 (natOfLanes w xs)

/-- All lanes of a vector. -/
def lanesOf (w n : Nat) (x : VecBits) : List Nat := tabulate n (lane x w)

/-- Enabled(K, i, T): the bit of the lowest byte of the lane (R44); two E2M1 elements share a byte (R93). -/
def laneOn (k : MaskBits) (ty : ElemType) (i : Nat) : Bool := k.getLsbD (ty.width * i / 8)

/-- What a lane of the destination becomes: the result when enabled, else zero or the old value (R154). -/
def keepLane (on z : Bool) (old new : Nat) : Nat := if on then new else if z then 0 else old

/-- A vector computed lane by lane under a mask; `f` gives each lane's result and flags (R154, R156). -/
def laneMap (ty : ElemType) (k : MaskBits) (z : Bool) (old : VecBits) (f : Nat → Nat × Flags) : VecBits × Flags :=
  let n := ty.lanes
  let rs := tabulate n (fun i => if laneOn k ty i then (f i) else (keepLane false z (lane old ty.width i) 0, 0))
  (vecOfLanes ty.width (rs.map (·.1)), rs.foldl (fun acc r => acc ||| r.2) 0)

/-- A lane as an integer of its type. -/
def laneInt (ty : ElemType) (x : Nat) : Int := if ty.signed then signedNat x ty.width else x
/-- An integer as the bits of a lane. -/
def intLane (ty : ElemType) (x : Int) : Nat := (BitVec.ofInt ty.width x).toNat
/-- A mask written lane by lane: every bit of an enabled lane alike, others kept or cleared (R167). -/
def maskMap (ty : ElemType) (k : MaskBits) (z : Bool) (old : MaskBits) (f : Nat → Bool) : MaskBits :=
  (List.range 256).foldl (fun acc b =>
    let i := b / ty.bytes
    let bit := if laneOn k ty i then f i else (!z && old.getLsbD b)
    if bit then acc ||| (1#256 <<< b) else acc) 0

/-- The index form of an address (R20, R88): base, index and offset, modulo 2^64. -/
def offsetOf (m : MemOp) (hi : Option (BitVec 32)) : Word :=
  match hi with
  | some h => (h ++ m.off).signExtend 64
  | none => m.off.signExtend 64

/-- EA() of R108. -/
def effAddr (t : Thread) (m : MemOp) (hi : Option (BitVec 32)) : Word := t.s m.base + t.s m.index + offsetOf m hi

/-- S(A) + Off(), for entries whose B is a stride or an index vector (R171). -/
def baseAddr (t : Thread) (m : MemOp) (hi : Option (BitVec 32)) : Word := t.s m.base + offsetOf m hi

/-- Imm() of form I: the 64-bit value of R117 under `imx`. -/
def wideImm (imm : BitVec 32) (hi : Option (BitVec 32)) : Word :=
  match hi with
  | some h => h ++ imm
  | none => imm.signExtend 64

end Sys2Proof.Machine
end

