-- ==== Sys2Proof/Machine/Form.lean ====
section
/-! DEFINITION. Forming a gang (R77 to R79): arena slots, the state of a thread at spawn (R40 to R43), and the gang image. -/

namespace Sys2Proof.Machine

/-! ## Arena slots (R77, R78) -/

/-- Cores that receive threads of a gang of the task. -/
def Task.coresUsed (k : Task) : Nat := min k.size 8
/-- The slot size S. -/
def Task.slotBytes (k : Task) : Nat := roundUp (16384 * k.size + 256 + k.coresUsed * (k.spad + k.bstore)) 65536
/-- CBASE of a thread. -/
def Task.cbase (k : Task) (gang rank : Nat) : Word := k.arena + BitVec.ofNat 64 (gang * k.slotBytes + 16384 * rank)
/-- Where a gang's image starts. -/
def Task.image (k : Task) (gang : Nat) : Nat := (k.arena + BitVec.ofNat 64 (gang * k.slotBytes + 16384 * k.size)).toNat
/-- Gangs of a task. -/
def Task.gangs (k : Task) : Nat := k.gx * k.gy * k.gz

/-- SEED at spawn (R43). -/
def spawnSeed (gang rank : Nat) : BitVec 32 :=
  let v := BitVec.ofNat 32 ((32 * gang + rank + 1) * 0x9E3779B9)
  if v = 0 then 1 else v

/-- A thread at spawn (R40 to R43), its register space empty of what spawning does not write. -/
def Thread.spawned (k : Task) (gang rank cycle : Nat) : Thread :=
  { id := ⟨k.num, gang, rank⟩, cbase := k.cbase gang rank, pc := k.entry, run := .active, block := .none, hcause := 0,
    ss := false, trapen := 0, vwS := 0, vwK := 0x0200, vwV := 0x0400,
    regs := setBits (setBits (setBits (0 : RegSpace) 64 k.param) 128 (BitVec.ofNat 64 gang)) 192 (BitVec.ofNat 64 rank),
    valid := 0xE, pending := 0, resident := 0, saved := List.replicate 4 0, deposits := List.replicate 8 0, uniCount := 0,
    repLeft := 0, repIter := 0, flags := 0, seed := spawnSeed gang rank, breaks := List.replicate 4 ⟨0, 0⟩,
    watches := List.replicate 4 ⟨0, 0⟩, trapRec := ⟨0, 0, 0, 0, 0, 0, 0, 0⟩, tvec := 0, lq := [], lqFly := 0, lqHead := 0, sq := [],
    sqHead := 0, mx0 := none, mx1 := none, mxHead := false, mxf := 0, geomM := 0, geomN := 0, geomK := 0, ce0 := none,
    ce1 := none, walk := List.replicate 90 0, asidx := BitVec.ofNat 16 k.asid, mboxSeen := 0, deadline := none,
    wideStat := 0, nextPhase := false, resumed := false, passed := false, fencing := false, blockPC := 0, blockWord := 0, slot := none, seatedAt := cycle, since := cycle,
    readyAt := cycle, lastA := cycle, lastE := cycle, gone := false, wroteHost := false, damaged := 0, badRegs := 0, badQueue := 0, lately := 0, zeroed := 0, notBefore := 0 }

/-- A gang when it is formed (R28, R79). -/
def Gang.formed (k : Task) (job : BitVec 16) (index tick : Nat) : Gang :=
  { task := k.num, index := index, job := job, cluster := none, phase := 0, arrived := 0, elected := 0, elects := List.replicate 32 0,
    uniN := 0, uniPC := 0, uniClosed := 0, uniArrived := 0, uniExec := 0, uniOpen := false, uniDone := false, uniPost := [],
    uniWords := 0, spad := [], bstore := [], ready := true, readyAt := k.readyAt, ageFrom := k.ageFrom, prio := k.prioEff,
    placedAt := tick, parking := none, keptReady := false, imageLost := false, imaged := false, badPad := [], badB := [] }

end Sys2Proof.Machine
end

