-- ==== Sys2Proof/Machine/Streams.lean ====
section
/-! DEFINITION. What leaves the device for another one: frames (R386), the sender's end of streams (R364, R365, R370), and
requests that wait for an answer (R369, R373). -/

namespace Sys2Proof.Machine

/-! ## Frames -/

/-- Bytes of an operation beyond the sixteen of the frame's head. DESIGN CHOICE (log 23): the spec gives no layout. -/
def payloadBytes : Payload → Nat
  | .loadReq .. => 12
  | .loadAns _ d => 4 + d.length
  | .lineAns _ _ d => 4 + d.length
  | .loadFail .. => 8
  | .store _ d _ => 8 + d.length
  | .atomic .. => 32
  | .atomicAns _ _ _ fs => 16 + 6 * fs.length
  | .atomicFail _ _ _ fs => 12 + 6 * fs.length
  | .ack _ fs => 2 + 6 * fs.length
  | .resend _ => 2
  | .mldrReq .. => 16
  | .mldrAns _ _ d => 8 + d.length
  | .mldrFail .. => 12
  | .graphOpen .. => 12
  | .graphObject _ o => 24 + 8 * o.image.length
  | .graphClose .. => 12
  | .graphAbort .. => 12
  | .graphAnswer .. => 16
  | .handOverReq .. => 16
  | .handOverData _ _ d => 16 + d.length
  | .handOverRefused .. => 16
  | .barrierReport .. => 8
  | .ackRequest => 0

/-- Body flits of a frame, at most four (R386). -/
def bodyFlits (p : Payload) : Nat := min 4 ((payloadBytes p - 40 + 55) / 56)

/-- The input port of the router at which the device's own frames enter. -/
def endpointPort : Nat := 128

/-- A frame behind those of an input buffer. -/
def State.bufferFrame (s : State) (port : Nat) (f : Frame) : State :=
  if s.bufs.any (fun b => b.port == port && b.lane == f.lane) then
    { s with bufs := s.bufs.map (fun b => if b.port = port ∧ b.lane = f.lane then { b with frames := b.frames ++ [f] } else b) }
  else { s with bufs := s.bufs ++ [⟨port, f.lane, [f], none, false⟩] }

/-- A frame of this device (R386); requests use lane 0, answers and acknowledgements lane 1 (R389). -/
def State.newFrame (s : State) (op lane : Nat) (dst core seq job : BitVec 16) (gen : BitVec 8) (p : Payload) : Frame :=
  { lane := lane, hops := 0, body := bodyFlits p, dst := dst, src := s.devnum, op := op, core := core, seq := seq, job := job,
    gen := gen, rsv := 0, forwarded := false, payload := p }

/-- A frame leaves the device's endpoint. -/
def State.sendFrame (s : State) (f : Frame) : State := s.bufferFrame endpointPort f

/-- The lane of an answer: that of the request's class, in the deadlock lane as well (R389, R394). -/
def answerLane (request : Frame) : Nat :=
  if request.lane < 2 then 1 else if getBits request.dst 5 11 = getBits request.src 5 11 then 5 else 3

/-! ## Streams -/

/-- A stream that has carried nothing. -/
def TxStream.fresh (core : Nat) (dev : BitVec 16) : TxStream :=
  { core := core, dev := dev, sent := 0, acked := 0, gen := 0, unacked := [], fails := 0, edetail := 0, ecode := 0 }

def State.tx? (s : State) (core : Nat) (dev : BitVec 16) : Option TxStream := s.tx.find? (fun x => x.core == core && x.dev == dev)
def State.txOf (s : State) (core : Nat) (dev : BitVec 16) : TxStream := (s.tx? core dev).getD (TxStream.fresh core dev)
def State.setTx (s : State) (x : TxStream) : State :=
  if (s.tx? x.core x.dev).isSome then { s with tx := s.tx.map (fun y => if y.core = x.core ∧ y.dev = x.dev then x else y) }
  else { s with tx := s.tx ++ [x] }

/-- `n` more operations fit a stream: at most 256 are unacknowledged (R365). -/
def State.canSend (s : State) (core : Nat) (dev : BitVec 16) (n : Nat) : Bool := (s.txOf core dev).unacked.length + n ≤ 256

/-- An operation enters a stream with the next number and leaves (R365); `since` is the tick of its translation, which is now but for an
engine's segment that has waited (R253). -/
def State.streamOp (s : State) (core : Nat) (dev : BitVec 16) (owner : Owner) (job : BitVec 16) (op : Nat) (p : Payload)
    (since : Option Nat := none) : State :=
  let x := s.txOf core dev
  let f := s.newFrame op 0 dev (BitVec.ofNat 16 core) x.sent job x.gen p
  (s.setTx { x with sent := x.sent + 1, unacked := x.unacked ++ [⟨f, owner, s.tick, s.tick, since.getD s.tick⟩] }).sendFrame f

/-- An operation issued by `u` is one of `o`: a thread's no-return atomics on host memory, and an engine's writes to the ranks of an
`mst`, are its own (R201, R376). -/
def Owner.counts (o u : Owner) : Bool :=
  decide (u = o) || (match o, u with
    | .thread t, .hostNr _ v => decide (t = v)
    | .engine t, .rank v _ => decide (t = v)
    | _, _ => false)

/-- A no-return atomic on host memory is under way (R373). -/
def Owner.isHostNr : Owner → Bool
  | .hostNr .. => true
  | _ => false

/-- Some operation of an owner is unacknowledged, or has not left yet (R200, R201, R365). -/
def State.unackedBy (s : State) (o : Owner) : Bool :=
  s.tx.any (fun x => x.unacked.any (fun u => o.counts u.owner)) || s.outQ.any (fun q => o.counts q.owner)
    || s.pends.any (fun p => p.owner.isHostNr && o.counts p.owner)

/-- The flush bit of a payload (R367). -/
def flushed : Payload → Payload
  | .store va d _ => .store va d true
  | .atomic tag k ty va b c nr _ => .atomic tag k ty va b c nr true
  | p => p

/-- Two frames are one operation of a stream. -/
def sameOp (f g : Frame) : Bool :=
  f.op == g.op && f.src == g.src && f.dst == g.dst && f.core == g.core && f.seq == g.seq && f.gen == g.gen

/-- A frame with the flush bit. -/
def flushFrame (f : Frame) : Frame := { f with payload := flushed f.payload }

/-- The last operations of the streams in which an owner has something unacknowledged. -/
def State.lastOps (s : State) (o : Owner) : List Frame :=
  (s.tx.filter (fun x => x.unacked.any (fun u => o.counts u.owner))).filterMap (fun x => x.unacked.getLast?.map (·.frame))

/-- The last unacknowledged operation of each of a thread's streams takes the flush bit (R367): in the resend buffer, and wherever its
frame is still in the device, at the router, in a link's buffers, or at this endpoint when it is for this device. -/
def State.flushLast (s : State) (o : Owner) : State :=
  let ls := s.lastOps o
  if ls.isEmpty then s
  else
    let mark (f : Frame) : Frame := if ls.any (sameOp f) then flushFrame f else f
    { s with
      tx := s.tx.map (fun x => { x with unacked := x.unacked.map (fun u => { u with frame := mark u.frame }) })
      bufs := s.bufs.map (fun b => { b with frames := b.frames.map mark })
      links := s.links.map (fun l => { l with queue := l.queue.map mark, replay := l.replay.map (fun e => (e.1, mark e.2.1, e.2.2)) })
      inbox := s.inbox.map mark
      rx := s.rx.map (fun r => { r with window := r.window.map mark }) }

/-! ## Requests that wait -/

/-- The request of an owner for what it asked. -/
def State.pend? (s : State) (o : Owner) (a : Asked) : Option Pending := s.pends.find? (fun p => decide (p.owner = o ∧ p.asked = a))
/-- A request is under way: numbered, and noted as waiting. -/
def State.addPend (s : State) (o : Owner) (a : Asked) (stale : Bool := false) : State × Nat :=
  ({ s with stamp := s.stamp + 1, pends := s.pends ++ [⟨s.stamp, o, a, s.tick, s.remEpoch, s.epoch, stale, none⟩] }, s.stamp)

/-- The bytes that a stream operation writes. -/
def writtenRange : Payload → Nat × Nat
  | .store va d _ => (va.toNat, d.length)
  | .atomic _ _ ty va _ _ _ _ => (va.toNat, ty.bytes)
  | _ => (0, 0)

/-- A store or atomic of this device to some of these bytes is not yet acknowledged, whoever issued it: what is asked for now may be
fetched before it is performed. -/
def State.storeUnderWay (s : State) (dev : BitVec 16) (va n : Nat) : Bool :=
  let meets (a k : Nat) : Bool := decide (0 < k ∧ a < va + n ∧ va < a + k)
  s.tx.any (fun x => x.dev == dev && x.unacked.any (fun u => let (a, k) := writtenRange u.frame.payload; meets a k))
    || s.outQ.any (fun q => q.dev == dev && meets q.va q.data.length)
/-- The requests of an owner end. -/
def State.dropPends (s : State) (o : Owner) : State := { s with pends := s.pends.filter (fun p => !decide (p.owner = o)) }

/-- Bytes of another device or of the host are asked for (R369, R201). -/
def State.askBytes (s : State) (o : Owner) (t : Thread) (core : Nat) (asid : Nat) (dev : BitVec 16) (va n : Nat) (fetches : Bool) : State :=
  let (s, tag) := s.addPend o (.bytes (BitVec.ofNat 64 va) n) (s.storeUnderWay dev va n)
  if dev = 0xFFFF then { s with pcie := s.pcie ++ [.read tag asid (BitVec.ofNat 64 va) n] }
  else s.sendFrame (s.newFrame 0 0 dev (BitVec.ofNat 16 core) 0 (s.asidJob (s.asidOf t)) 0 (.loadReq tag (BitVec.ofNat 64 va) n fetches))

/-- The number of a frame's job (R324). -/
def State.jobOf (s : State) (t : Thread) : BitVec 16 := s.asidJob (s.asidOf t)

/-! ## Compressed lines (R265 to R267) -/

/-- The 32 words and the 128 halfwords of a line. -/
def lineWords (line : List Byte) : List Nat := (chunks 8 line).map natOfBytes
def lineHalves (line : List Byte) : List Nat := (chunks 2 line).map natOfBytes

/-- Bytes padded with zeros to whole sectors. -/
def padSectors (bs : List Byte) : List Byte := bs ++ List.replicate (roundUp bs.length 32 - bs.length) 0

/-- Every difference from the first word fits `w` signed bits. -/
def deltaFits (w : Nat) (ws : List Nat) : Bool :=
  ws.all (fun x => let d := signedNat (x + 2 ^ 64 - ws.headD 0) 64; decide (-(2 ^ (w - 1) : Nat) ≤ d ∧ d < (2 ^ (w - 1) : Nat)))
def deltaPayload (w : Nat) (ws : List Nat) : List Byte :=
  padSectors (bytesOfNat 8 (ws.headD 0) ++ ws.flatMap (fun x => bytesOfNat (w / 8) ((x + 2 ^ 64 - ws.headD 0) % 2 ^ w)))
def sparsePayload (hs : List Nat) : List Byte :=
  let map := (List.range 128).foldl (fun acc i => if hs.getD i 0 ≠ 0 then acc + 2 ^ i else acc) 0
  let bs := bytesOfNat 16 map ++ (hs.filter (· != 0)).flatMap (bytesOfNat 2)
  bs ++ List.replicate (64 - bs.length) 0

/-- The code that this device sends for a line, and its payload (R267). -/
def compressLine (line : List Byte) : Nat × List Byte :=
  let ws := lineWords line
  let hs := lineHalves line
  if ws.all (· == 0) then (1, [])
  else if ws.all (· == ws.headD 0) then (2, padSectors (bytesOfNat 8 (ws.headD 0)))
  else if deltaFits 8 ws then (3, deltaPayload 8 ws)
  else if (hs.filter (· != 0)).length ≤ 16 then (5, sparsePayload hs)
  else if deltaFits 16 ws then (4, deltaPayload 16 ws)
  else (0, line)

/-- The listed halfwords of a sparse line. DESIGN CHOICE (log 151): where the map lists more of them than the payload holds, the rest of
the line reads 0. -/
def expandSparse (map : Nat) : Nat → Nat → List Byte → List Byte
  | 0, _, _ => []
  | n + 1, i, vs => if map.testBit i then (vs.take 2 ++ expandSparse map n (i + 1) (vs.drop 2)) else 0 :: 0 :: expandSparse map n (i + 1) vs

/-- The line that a code and payload stand for; none for a reserved code or a wrong length (R266, R267). -/
def expandLine (code : Nat) (p : List Byte) : Option (List Byte) :=
  let base := natOfBytes (p.take 8)
  let deltas (w : Nat) : List Byte := (chunks (w / 8) ((p.drop 8).take (4 * w))).flatMap
    (fun d => bytesOfNat 8 (BitVec.ofInt 64 (base + signedNat (natOfBytes d) w)).toNat)
  match code with
  | 0 => if p.length = 256 then some p else none
  | 1 => if p.length = 0 then some (List.replicate 256 0) else none
  | 2 => if p.length = 32 then some ((List.replicate 32 (bytesOfNat 8 base)).flatten) else none
  | 3 => if p.length = 64 then some (deltas 8) else none
  | 4 => if p.length = 96 then some (deltas 16) else none
  | 5 => if p.length = 64 then some (expandSparse (natOfBytes (p.take 16)) 128 0 (p.drop 16)) else none
  | _ => none

end Sys2Proof.Machine
end

