-- ==== Sys2Proof/Machine/Domain.lean ====
section
/-! DEFINITION. Gang barriers (R138) and domain barriers (R139, R140): arrival, completion and the threads released. -/

namespace Sys2Proof.Machine

/-- A 32-bit phase has been completed when the barrier's phase number has passed it. -/
def phasePassed (now awaited : BitVec 32) : Bool :=
  let d := (now - awaited).toNat
  decide (1 ≤ d ∧ d ≤ 2 ^ 31)

/-- The saved-wait area of a thread blocked at `gbar` or `dbar` (R141). -/
def savedPhaseWait (level : Nat) (phase : BitVec 32) : List Word := [0, 0#29 ++ BitVec.ofNat 3 level ++ phase, 0, 0]

/-! ## The gang barrier (R138) -/

/-- Every rank of the gang that has not retired has arrived. -/
def State.gbarFull (s : State) (g : Gang) : Bool :=
  (s.mates g.task g.index).all (fun t => t.run == .retired || g.arrived.getLsbD t.id.rank)

/-- A thread blocked at its gang's barrier, by `gbar` or `dbar 1`. -/
def Thread.atGbar (t : Thread) (g : Gang) : Bool :=
  t.id.task == g.task && t.id.gang == g.index && (t.block == .gbar || (t.block == .dbar && t.savedLevel == 1))

/-- The phase completes when every member has arrived: the phase advances and every arrived thread goes on. -/
def State.gbarCheck (s : State) (task index : Nat) : State :=
  match s.gang? task index with
  | none => s
  | some g =>
    if g.arrived != 0 && s.gbarFull g then
      let g' := { g with phase := g.phase + 1, arrived := 0 }
      (s.setGang g').releaseThreads (fun t => t.atGbar g && phasePassed g'.phase t.savedPhase32)
    else s

/-! ## Domains of level 2 to 5 (R139) -/

/-- The key of a thread's domain of a level (R29): at levels 4 and 5 the JOB of its DMEM (R42). -/
def State.domainKey (s : State) (t : Thread) (level : Nat) : Nat :=
  if level = 2 then t.id.task
  else if level = 3 then s.asidOf t
  else (s.memberJob t).toNat

def Domain.fresh (level key : Nat) : Domain :=
  { level := level, key := key, phase := 0, open' := false, members := [], arrived := [], reports := [], told := [] }

def State.domain (s : State) (level key : Nat) : Domain :=
  match s.domains.find? (fun d => d.level == level && d.key == key) with
  | some d => d
  | none => Domain.fresh level key

def State.setDomain (s : State) (d : Domain) : State :=
  { s with domains := s.domains.filter (fun e => !(e.level == d.level && e.key == d.key)) ++ [d] }

/-- Gangs that a task has still to form will belong to a domain: their JOB is the ASID's as it stands (R28). -/
def State.formsInto (s : State) (k : Task) (level key : Nat) : Bool :=
  k.formed != k.gangs && (level < 4 || (s.asidJob k.asid).toNat == key)

/-- Tasks that are ready now and have threads that belong to a domain. -/
def State.domainTasks (s : State) (level key : Nat) : List Nat :=
  (s.tasks.filter (fun k => k.ready && (if level = 2 then k.num == key else if level = 3 then k.asid == key
    else s.gangs.any (fun g => g.task == k.num && g.job.toNat == key) || s.formsInto k level key))).map (·.num)

/-- Every local member has arrived; threads of gangs not yet formed have not. -/
def State.localFull (s : State) (d : Domain) : Bool :=
  d.members.all (fun m => match s.task? m with
    | none => true
    | some k => !s.formsInto k d.level d.key
      && (s.threads.filter (fun t => t.id.task == m && s.domainKey t d.level == d.key)).all
        (fun t => t.run == .retired || d.arrived.contains t.id))

/-- The members' remote stores have all been acknowledged. -/
def State.membersAcked (s : State) (d : Domain) : Bool := d.arrived.all (fun id => !s.unackedBy (.thread id))

/-- The address group as this device holds it (R379). -/
def State.group (s : State) (n : Nat) : List (BitVec 16) := if s.agbase = 0 then [] else (s.groups.lookup n).getD []

/-- The other devices that a device waits for (R139). -/
def State.domainPeers (s : State) (level : Nat) : List (BitVec 16) :=
  ((s.group 0).filter (fun d => d != s.devnum && (level == 5 || getBits d 5 11 == getBits s.devnum 5 11))).eraseDups

/-- This device has reported a phase to a device. -/
def Domain.hasTold (d : Domain) (dev : BitVec 16) (phase : BitVec 32) : Bool := d.told.contains (dev, phase)

/-- Two phases are so near that one is no earlier round of the 32-bit count of the other. -/
def phasesNear (p q : BitVec 32) : Bool := decide ((p - q).toNat < 2 ^ 30 ∨ (q - p).toNat < 2 ^ 30)

/-- This device's report of a phase goes to a device, once (R139; R386: OP 11, job 0). -/
def State.reportTo (s : State) (d : Domain) (phase : BitVec 32) (dev : BitVec 16) : State :=
  if d.hasTold dev phase then s
  else
    (s.sendFrame (s.newFrame 11 0 dev 0 0 0 0 (.barrierReport d.level (BitVec.ofNat 16 d.key) phase))).setDomain
      { d with told := d.told.filter (fun p => phasesNear p.2 phase) ++ [(dev, phase)] }

/-- The devices that hear of a phase. DESIGN CHOICE (log 130): R139 names no addressee; they are the members of this device's own group
0, as soon as they are listed, and every device that has itself reported that phase here, which shows that it waits for this one. -/
def State.audience (s : State) (d : Domain) : List (BitVec 16) :=
  (s.domainPeers d.level ++ (d.reports.filter (fun r => r.2 == d.phase)).map (·.1)).eraseDups

/-- This device's report of the open phase, to everyone who has not had it. -/
def State.sendReports (s : State) (d : Domain) : State :=
  (s.audience d).foldl (fun s dev => s.reportTo (s.domain d.level d.key) d.phase dev) s

/-- A report reaches this device (R139): it counts; one of a phase that is over here is answered with this device's own. -/
def State.noteReport (s : State) (dev : BitVec 16) (level key : Nat) (phase : BitVec 32) : State :=
  let d := s.domain level key
  if phasePassed d.phase phase then s.reportTo d phase dev
  else if d.reports.contains (dev, phase) then s
  else s.setDomain { d with reports := d.reports ++ [(dev, phase)] }

/-- The phase may complete. -/
def State.domainDone (s : State) (d : Domain) : Bool :=
  d.open' && s.localFull d && (d.level < 4 || (s.membersAcked d && (s.domainPeers d.level).all (fun p => d.reports.contains (p, d.phase))))

/-- A thread that awaits the phase after the one that was open (R139). -/
def State.waitsNext (s : State) (d : Domain) (t : Thread) : Bool :=
  t.block == .dbar && t.nextPhase && t.savedLevel == d.level && s.domainKey t d.level == d.key && t.waitsHere

/-- An arrival at the open phase; the first one opens it. -/
def State.arriveAt (s : State) (d : Domain) (id : ThreadId) : Domain :=
  let d := if d.open' then d else { d with open' := true, members := s.domainTasks d.level d.key, arrived := [] }
  { d with arrived := d.arrived ++ [id] }

/-- One look at a domain: its local report goes out, or its phase completes, its threads are released and those that
awaited the next phase arrive at it. -/
def State.domainCheck (s : State) (level key : Nat) : State :=
  let d := s.domain level key
  let s := if 4 ≤ level && d.open' && s.localFull d && s.membersAcked d then s.sendReports d else s
  let d := s.domain level key
  if s.domainDone d then
    let p := d.phase + 1
    let d := { d with phase := p, open' := false, members := [], arrived := [],
                      reports := d.reports.filter (fun r => r.2 != d.phase) }
    let s := if 4 ≤ level then { s with remEpoch := s.remEpoch + 1 } else s
    let next := s.threads.filter (s.waitsNext d)
    let s := (s.setDomain d).releaseThreads (fun t => t.block == .dbar && t.savedLevel == level && !t.nextPhase
      && s.domainKey t level == key && phasePassed p t.savedPhase32)
    next.foldl (fun s t =>
      (s.setDomain (s.arriveAt (s.domain level key) t.id)).onThread t.id (fun t => { t with nextPhase := false })) s
  else s

/-- Every domain looked at, twice: a phase whose members all waited for it completes as soon as it opens. -/
def State.domainsCheck (s : State) : State :=
  let once (s : State) : State := s.domains.foldl (fun s d => s.domainCheck d.level d.key) s
  once (once s)

/-- Every barrier that a thread's departure may complete. -/
def State.departed (s : State) (id : ThreadId) : State := (s.gbarCheck id.task id.gang).domainsCheck

end Sys2Proof.Machine
end

