-- ==== Sys2Proof/Machine/Flags.lean ====
section
/-! DEFINITION. The sticky flags and SEED of a thread (R156, R215, R216). -/

namespace Sys2Proof.Machine

/-- An instruction ORs its flags into FLAGS when it completes (R216). -/
def Thread.orFlags (t : Thread) (f : Flags) : Thread := { t with flags := t.flags ||| f }

/-- An instruction with RND 5 advances SEED once, whatever its mask (R156, R215). -/
def Thread.advanceSeed (t : Thread) (r : Rounding) : Thread := if r = .rs then { t with seed := seedStep t.seed } else t

/-- The draw of a lane, from the advanced SEED (R215). -/
def Thread.draw (t : Thread) (r : Rounding) (i : Nat) : Nat := if r = .rs then seedDraw t.seed i else 0

/-- The saturation flag of an integer clamp (R159, R216): the clamped value and the flag. -/
def satClamp (x lo hi : Int) : Int × Flags := (clampInt x lo hi, Flags.when (clampInt x lo hi != x) Flags.sat)

end Sys2Proof.Machine
end

