-- ==== Sys2Proof/Machine/Footprint.lean ====
section
/-! DEFINITION. Engine commands as data: the fields of a matrix command (R208, R225), of a copy-engine entry (R245, R250,
R256 to R263), and the footprints that a later access of the same thread waits for (R204, R230, R247, R259, R377). -/

namespace Sys2Proof.Machine

/-! ## Byte ranges -/

/-- What a range names: global addresses, or scratchpad bytes as the cluster window numbers them. -/
inductive Dom where
  | va | pad
  deriving DecidableEq, Repr

/-- Two intervals meet. -/
def meets (a n b m : Nat) : Bool := decide (0 < n ∧ 0 < m ∧ a < b + m ∧ b < a + n)

/-- Some of `rows` rows of `len` bytes, `stride` apart from `base`, meets the interval of `n` bytes at `a`. -/
def rowsMeet (base stride : Int) (rows len a n : Nat) : Bool :=
  if rows = 0 ∨ len = 0 ∨ n = 0 then false
  else
    let lowBase := if stride < 0 then base + (rows - 1) * stride else base
    let step : Int := if stride < 0 then -stride else stride
    if step = 0 then decide (lowBase < a + n ∧ (a : Int) < lowBase + len)
    else
      -- rows r with lowBase + r * step < a + n and a < lowBase + r * step + len
      let first : Int := ((a : Int) - len - lowBase) / step + 1
      let last : Int := ((a : Int) + n - 1 - lowBase) / step
      let lo := if first < 0 then 0 else first
      let hi := if (rows : Int) - 1 < last then (rows : Int) - 1 else last
      decide (lo ≤ hi)

/-- An address in a space as a domain and a number; `cx` is none. -/
def domOf (coreInCluster : Nat) (space : Space) (a : Nat) : Option (Dom × Nat) :=
  match space with
  | .glob => some (.va, a)
  | .sp => some (.pad, coreInCluster * Config.coreSpan + a)
  | .cw => some (.pad, a)
  | .cx => none

/-! ## Matrix commands (R208, R225) -/

def mxKind (c : BitVec 512) : Nat := (getBits c 0 8).toNat
def mxFmtA (c : BitVec 512) : Nat := (getBits c 8 8).toNat
def mxFmtB (c : BitVec 512) : Nat := (getBits c 16 8).toNat
def mxAcc (c : BitVec 512) : Nat := (getBits c 24 8).toNat
def mxFlags (c : BitVec 512) : BitVec 16 := getBits c 32 16
def mxFine (c : BitVec 512) : Bool := (mxFlags c).getLsbD 0
def mxNsat (c : BitVec 512) : Bool := (mxFlags c).getLsbD 1
def mxK (c : BitVec 512) : Nat := (getBits c 48 16).toNat
def mxAOff (c : BitVec 512) : Nat := (getBits c 64 32).toNat
def mxStride (c : BitVec 512) : Nat := (getBits c 96 32).toNat
def mxB (c : BitVec 512) : BitVec 64 := getBits c 128 64
def mxCOff (c : BitVec 512) : Nat := (getBits c 192 32).toNat
def mxCStride (c : BitVec 512) : Nat := (getBits c 224 32).toNat
def mxVA (c : BitVec 512) : BitVec 64 := getBits c 256 64
def mxScaleA (c : BitVec 512) : Nat := (getBits c 256 32).toNat
def mxScaleB (c : BitVec 512) : Nat := (getBits c 288 32).toNat
def mxRow (c : BitVec 512) (m : Nat) : Bool := c.getLsbD (320 + m)
def mxCol (c : BitVec 512) (n : Nat) : Bool := c.getLsbD (384 + n)
/-- Bytes of an element of C. -/
def mxCBytes (c : BitVec 512) : Nat := if mxAcc c = 1 then 2 else 4
/-- Bits of a format by its TYPE code. -/
def fmtBits (code : Nat) : Nat := (ElemType.ofCode (BitVec.ofNat 4 code)).width

def mxRows (c : BitVec 512) : List Nat := (List.range 64).filter (mxRow c)
def mxCols (c : BitVec 512) : List Nat := (List.range 128).filter (mxCol c)

/-- Elements of enabled columns of a row, `w` bytes each from `base`, meet an interval. -/
def colsMeet (c : BitVec 512) (base w a n : Nat) : Bool := (mxCols c).any (fun j => meets (base + j * w) w a n)

/-- What a matrix command reads in a domain meets an interval (R230); `pad` offsets are those of its core. -/
def mxReads (c : BitVec 512) (pad : Nat) (d : Dom) (a n : Nat) : Bool :=
  let kind := mxKind c
  let len := mxK c * fmtBits (mxFmtA c) / 8
  match d with
  | .va => kind == 3 && rowsMeet (mxVA c).toNat (mxStride c) (mxK c) (128 * fmtBits (mxFmtB c) / 8) a n
  | .pad =>
    (kind ≤ 2 && (mxRows c).any (fun m => meets (pad + mxAOff c + m * mxStride c) len a n))
    || ((kind ≤ 2 || kind == 4) && (mxRows c).any (fun m => colsMeet c (pad + mxCOff c + m * mxCStride c) (mxCBytes c) a n))
    || (kind == 2 && !mxFine c
        && ((mxRows c).any (fun m => meets (pad + mxScaleA c + m * (mxK c / 32)) (mxK c / 32) a n)
          || (mxCols c).any (fun j => meets (pad + mxScaleB c + j * (mxK c / 32)) (mxK c / 32) a n)))
    || (kind == 2 && mxFine c
        && ((mxRows c).any (fun m => meets (pad + mxScaleA c + 4 * (m * (mxK c / 128))) (4 * (mxK c / 128)) a n)
          || meets (pad + mxScaleB c) (4 * (mxK c / 128)) a n))

/-- What a matrix command writes. -/
def mxWrites (c : BitVec 512) (pad : Nat) (d : Dom) (a n : Nat) : Bool :=
  let kind := mxKind c
  match d with
  | .va =>
    let w := fmtBits (mxFmtB c) / 8
    kind == 4 && (mxRows c).any (fun m => colsMeet c ((mxVA c).toNat + m * mxStride c) w a n)
  | .pad => (kind ≤ 2 || kind == 5) && (mxRows c).any (fun m => colsMeet c (pad + mxCOff c + m * mxCStride c) (mxCBytes c) a n)

/-! ## Copy-engine entries (R249, R250) -/

/-- A captured operand. -/
def ceOp (e : CeEntry) (n : Nat) : Word := e.ops.getD n 0
/-- The instruction of an entry. -/
def ceInstr (e : CeEntry) : Option Instr :=
  match decodeWord e.word with
  | .ok i => some i
  | .error _ => none

/-- The descriptor captured by `stash` and `resto`: base, element count, input type, code width (R244, R247). -/
def stashBase (e : CeEntry) : Nat := (ceOp e 3).toNat
def stashCount (e : CeEntry) : Nat := (getBits (ceOp e 4) 0 32).toNat
def stashType (e : CeEntry) : Nat := (getBits (ceOp e 4) 32 8).toNat
def stashBits (e : CeEntry) : Nat := (getBits (ceOp e 4) 40 8).toNat
/-- Bytes of a region line. -/
def stashLine (e : CeEntry) : Nat := 8 + 16 * stashBits e
/-- Bytes of an input element; 4 where the type is none of R244's (R247). -/
def stashWidth (e : CeEntry) : Nat := match stashType e with
  | 9 | 10 => 2
  | _ => 4
/-- The fault that a push has captured in place of the descriptor: CODE and DETAIL (R247). A descriptor on a device that cannot be
reached is recorded in the progress, which a command that has read one leaves at 0 with these words. DESIGN CHOICE (log 43). -/
def stashFault (e : CeEntry) : Option (Nat × Nat) :=
  if ceOp e 3 ≠ 0 ∨ ceOp e 4 ≠ 0 then none
  else
    let d := (ceOp e 5).toNat - 2 ^ 63
    if e.progress ≠ 0 then some (11, e.progress.toNat)
    else if 2 ^ 63 ≤ (ceOp e 5).toNat ∧ 1 ≤ d ∧ d ≤ 4 then some (5, d)
    else none

/-- The descriptor was read at the push without a fault (R247). -/
def stashRead (e : CeEntry) : Bool := (ceOp e 0).toNat % 32 == 0 && (stashFault e).isNone

/-- Receivers of a `cmcast`, in ascending order (R263). -/
def castCores (mask : BitVec 8) : List Nat := (List.range 8).filter (fun c => mask.getLsbD c)

/-- A signed captured operand. -/
def ceInt (e : CeEntry) (n : Nat) : Int := (ceOp e n).toInt

/-- Rows of an operand range in a space meet an interval. -/
def spaceMeet (home : Nat) (space : Space) (base : Nat) (stride : Int) (rows len : Nat) (d : Dom) (a n : Nat) : Bool :=
  match domOf home space base with
  | some (d', b) => d' == d && rowsMeet b stride rows len a n
  | none => false

/-- What a copy-engine entry reads: its footprint where it declares one (R204, R259, R247, R377). -/
def ceReads (e : CeEntry) (home : Nat) (d : Dom) (a n : Nat) : Bool :=
  match ceInstr e with
  | some (.cpy _ _ _ _ _ ssp _ _) => spaceMeet home ssp (ceOp e 1).toNat 0 1 (ceOp e 2).toNat d a n
  | some (.cpy2d _ _ _ _ _ ssp _ _) => spaceMeet home ssp (ceOp e 1).toNat (ceInt e 3) (ceOp e 5).toNat (ceOp e 4).toNat d a n
  | some (.cmcast _ _ _ mask _) =>
    d == .va && meets (ceOp e 0).toNat ((ceOp e 1).toNat + (castCores mask).length * (ceOp e 2).toNat) a n
  | some (.stash _ _ _ _ count) => stashRead e && d == .va && meets (ceOp e 2).toNat (128 * count.toNat * stashWidth e) a n
  | some (.resto _ _ _ _ count _) =>
    stashRead e && d == .va && meets (stashBase e + (ceOp e 1).toNat * stashLine e) (count.toNat * stashLine e) a n
  | some (.mst _ _ _ _ _ sectors _) => d == .va && meets (ceOp e 1).toNat (32 * (sectors.toNat + 1)) a n
  | _ => false

/-- What a copy-engine entry writes. -/
def ceWrites (e : CeEntry) (home : Nat) (d : Dom) (a n : Nat) : Bool :=
  match ceInstr e with
  | some (.cpy _ _ _ _ dsp _ _ _) => spaceMeet home dsp (ceOp e 0).toNat 0 1 (ceOp e 2).toNat d a n
  | some (.cpy2d _ _ _ _ dsp _ _ _) => spaceMeet home dsp (ceOp e 0).toNat (ceInt e 2) (ceOp e 5).toNat (ceOp e 4).toNat d a n
  | some (.cfill _ _ _ _ dsp _ _ _) => spaceMeet home dsp (ceOp e 0).toNat 0 1 (ceOp e 2).toNat d a n
  | some (.cmcast _ _ _ mask _) =>
    d == .pad && ((castCores mask).zip (List.range 8)).any (fun p =>
      meets (p.1 * Config.coreSpan + (ceOp e 3).toNat) (ceOp e 1).toNat a n
      || rowsMeet (p.1 * Config.coreSpan + (ceInt e 4 + p.2 * ceInt e 5)) 0 1 (ceOp e 2).toNat a n)
  | some (.stash _ _ _ _ count) =>
    stashRead e && d == .va && meets (stashBase e + (ceOp e 1).toNat * stashLine e) (count.toNat * stashLine e) a n
  | some (.resto _ _ _ _ count f32) =>
    stashRead e && d == .va && meets (ceOp e 2).toNat (128 * count.toNat * (if f32 then 4 else 2)) a n
  | _ => false

/-! ## Two commands of one thread (R204) -/

/-- The elements of enabled rows and columns, `w` bytes each. -/
def elemIntervals (c : BitVec 512) (base stride w : Nat) : List (Nat × Nat) :=
  (mxRows c).flatMap (fun m => (mxCols c).map (fun j => (base + m * stride + j * w, w)))

/-- The scratchpad ranges, as offset and length, of the scales that an `mmas` reads (R233). -/
def mxScaleList (c : BitVec 512) : List (Nat × Nat) :=
  let bytes (base k w : Nat) (is : List Nat) : List (Nat × Nat) := is.map (fun i => (base + w * (i * k), w * k))
  if mxKind c ≠ 2 then []
  else if mxFine c then bytes (mxScaleA c) (mxK c / 128) 4 (mxRows c) ++ [(mxScaleB c, 4 * (mxK c / 128))]
  else bytes (mxScaleA c) (mxK c / 32) 1 (mxRows c) ++ bytes (mxScaleB c) (mxK c / 32) 1 (mxCols c)

/-- The intervals that a matrix command reads, and those it writes (R230); scratchpad offsets are those of its core. -/
def mxReadList (c : BitVec 512) (pad : Nat) : List (Dom × Nat × Nat) :=
  let kind := mxKind c
  let rowLen := mxK c * fmtBits (mxFmtA c) / 8
  let inPad (l : List (Nat × Nat)) : List (Dom × Nat × Nat) := l.map (fun x => (.pad, pad + x.1, x.2))
  let cs := elemIntervals c (mxCOff c) (mxCStride c) (mxCBytes c)
  if kind = 3 then tabulate (mxK c) (fun r => (.va, (mxVA c).toNat + r * mxStride c, 128 * fmtBits (mxFmtB c) / 8))
  else if kind = 4 then inPad cs
  else if kind ≤ 2 then
    inPad ((mxRows c).map (fun m => (mxAOff c + m * mxStride c, rowLen)) ++ cs ++ mxScaleList c)
  else []
def mxWriteList (c : BitVec 512) (pad : Nat) : List (Dom × Nat × Nat) :=
  let kind := mxKind c
  if kind = 4 then (elemIntervals c (mxVA c).toNat (mxStride c) (fmtBits (mxFmtB c) / 8)).map (fun x => (.va, x.1, x.2))
  else if kind ≤ 2 ∨ kind = 5 then (elemIntervals c (mxCOff c) (mxCStride c) (mxCBytes c)).map (fun x => (.pad, pad + x.1, x.2))
  else []

/-- A matrix command and a copy-engine command overlap where one of them writes: the later waits for the earlier. -/
def enginesClash (c : BitVec 512) (e : CeEntry) (home : Nat) : Bool :=
  let pad := home * Config.coreSpan
  (mxWriteList c pad).any (fun x => ceReads e home x.1 x.2.1 x.2.2 || ceWrites e home x.1 x.2.1 x.2.2)
    || (mxReadList c pad).any (fun x => ceWrites e home x.1 x.2.1 x.2.2)

/-! ## A thread's footprints (R204) -/

/-- The rank's core in its cluster (R25). -/
def Thread.home (t : Thread) : Nat := t.id.rank % 8

/-- An access of the thread overlaps what one of its engine commands still reads or writes: a read waits for the engine's
writes, a write for its reads and writes. -/
def Thread.engineHolds (t : Thread) (write : Bool) (d : Dom) (a n : Nat) : Bool :=
  let mx (e : Option MxEntry) : Bool := match e with
    | some e => mxWrites e.cmd (t.home * Config.coreSpan) d a n || (write && mxReads e.cmd (t.home * Config.coreSpan) d a n)
    | none => false
  let ce (e : Option CeEntry) : Bool := match e with
    | some e => ceWrites e t.home d a n || (write && ceReads e t.home d a n)
    | none => false
  mx t.mx0 || mx t.mx1 || ce t.ce0 || ce t.ce1

end Sys2Proof.Machine
end

