-- ==== Sys2Proof/Machine/Migrate.lean ====
section
/-! DEFINITION. Migration of pages (R318 to R320): the counters, the pool, and the start of a move. -/

namespace Sys2Proof.Machine

/-- MIGPOOL of an ASID (R310). -/
def State.migPool (s : State) (asid : Nat) : Word := s.dirWord asid 0x18

/-- Where the pool of an ASID lies (R310, R319). -/
def State.poolBase (s : State) (asid : Nat) : Nat := (getBits (s.migPool asid) 32 32).toNat * 4096

/-- The pool's count of free frames, as memory has it, whether or not the pool is enabled (R319). -/
def State.poolCount (s : State) (asid : Nat) : Nat := (s.walkWord (s.poolBase asid)).toNat

/-- The last frame of the pool, popped in one operation at the memory controller (R319). A pool in a frame that is not resident, or with
an uncorrectable error where the pop reads, gives none. DESIGN CHOICE (log 147). -/
def State.popPool (s : State) (asid : Nat) : Option (State × Nat) :=
  let base := s.poolBase asid
  let n := s.poolCount asid
  if (s.migPool asid).getLsbD 0 = false ∨ n = 0 ∨ 511 < n ∨ s.dataBad base 8 ∨ s.badAt (base + 8 * n) 8 then none
  else some (s.putEntry base (BitVec.ofNat 64 (n - 1)), (s.walkWord (base + 8 * n)).toNat % 2 ^ 32)

/-- The pop reads the pool's words: their errors are counted, or cost their lines (R357, R358). -/
def State.poolRead (s : State) (asid : Nat) : State :=
  if (s.migPool asid).getLsbD 0 = false then s
  else (s.scanned (s.poolBase asid + 8 * (s.poolCount asid % 512)) 8).scanned (s.poolBase asid) 8

/-- The MIGPOOL record, once until the pool's count changes (R319). -/
def State.sayPoolEmpty (s : State) (asid : Nat) : State :=
  let n := s.poolCount asid
  if s.poolSaid.lookup asid = some n then s
  else (s.event 0x04 asid 0 0 |> fun s => { s with poolSaid := s.poolSaid.filter (fun p => p.1 != asid) ++ [(asid, n)] })

/-- A page is under migration; the peer of a remote page is asked to hand it over (R320 steps 1 and 2). -/
def State.startMigration (s : State) (asid page size frame pa : Nat) (leaf : Word) (asker : Option (ThreadId × SReg)) : State :=
  let s := { s with migs := s.migs ++ [⟨asid, page, size, frame, pa, leaf, asker, none, s.tick⟩] }
  if pteMode leaf = 0 then s
  else s.sendFrame (s.newFrame 10 0 (ptePeer leaf) 0 0 (s.asidJob asid) 0 (.handOverReq asid (BitVec.ofNat 64 page) size))

/-- A page's counter in the cache of the stack beside its memory-side TLB (R318). -/
def State.pageCount (s : State) (asid page : Nat) : Nat :=
  match s.counters.find? (fun c => c.1 == asid && c.2.1 == page) with
  | some c => c.2.2
  | none => 0

/-- A counter written, newest first; beyond 4,096 in one stack one is lost (R318): that which was written longest ago. DESIGN CHOICE
(log 148). -/
def State.setPageCount (s : State) (asid page n : Nat) : State :=
  let k := tlbNumber asid page
  let rest := s.counters.filter (fun c => !(c.1 == asid && c.2.1 == page))
  let mine := rest.filter (fun c => tlbNumber c.1 c.2.1 == k)
  let others := rest.filter (fun c => tlbNumber c.1 c.2.1 != k)
  { s with counters := ((asid, page, n) :: mine).take 4096 ++ others }

/-- A line request of a mode-3 page is counted, and may start its migration (R318, R319, R350). A frame taken from the pool
changes its count, so that the next time it is empty is reported again. -/
def State.countRequest (s : State) (asid va size : Nat) (leaf : Word) : State :=
  if pteMode leaf ≠ 3 ∨ ptePeer leaf = 0xFFFF ∨ s.hasMigrate = false then s
  else
    let page := va / 4096 * 4096
    let n := s.pageCount asid page + 1
    if n < pteThreshold leaf ∨ size ≠ 4096 ∨ s.underMigration asid va then s.setPageCount asid page n
    else match s.popPool asid with
      | none => (s.poolRead asid |>.setPageCount asid page (pteThreshold leaf)).sayPoolEmpty asid
      | some (s, frame) =>
        let s := (s.poolRead asid).readNodes asid va
        let s := { s with poolSaid := s.poolSaid.filter (fun p => p.1 != asid) }
        match s.walk asid va with
        | .leaf p sz e pa => (s.setPageCount asid page 0).startMigration asid p sz frame pa e none
        | _ => s

/-- Line requests of mode-3 pages, one for each line that a set of addresses touches (R318). -/
def State.countLines (s : State) (asid : Nat) (rs : List (Nat × Nat × Word)) : State :=
  (rs.foldl (fun acc r => if acc.any (fun q => q.1 / 256 == r.1 / 256) then acc else acc ++ [r]) ([] : List (Nat × Nat × Word))).foldl
    (fun s r => s.countRequest asid r.1 r.2.1 r.2.2) s

end Sys2Proof.Machine
end

