-- ==== Sys2Proof/Machine/Access.lean ====
section
/-! DEFINITION. Memory accesses of threads: the checks of R172 in the four spaces of R60, watchpoints (R336), footprints
(R204), and performing a load, a store or an atomic on device memory, a scratchpad, the context block, another device
(R369) or the host (R201). -/

namespace Sys2Proof.Machine

/-! ## Kinds of access -/

/-- What an access does, for its permission (R313), its DETAIL (R328) and its watchpoints (R335). -/
inductive Acc where
  | load | store | atomic | writeBack | invalidate | zero | waitWord | barRead
  deriving DecidableEq, Repr

def Acc.writes : Acc → Bool
  | .store | .atomic | .invalidate | .zero => true
  | _ => false
def Acc.reads : Acc → Bool
  | .load | .atomic | .writeBack | .waitWord | .barRead => true
  | _ => false
/-- What it needs of a leaf; `user` when the thread's ASID lacks PRIV. -/
def Acc.need (a : Acc) (user : Bool) : Need := ⟨a.reads, a.writes, false, user⟩
/-- DETAIL of PAGE, PROT and ADDR. -/
def Acc.detail : Acc → Nat
  | .load => 1
  | .store => 2
  | .atomic | .barRead => 3
  | .waitWord => 6
  | .writeBack | .invalidate | .zero => 5
/-- The enabling bit in a watchpoint's control word, and DETAIL of WATCH. -/
def Acc.watchBit : Acc → Nat
  | .atomic => 3
  | .store | .invalidate | .zero => 2
  | .load | .writeBack | .waitWord | .barRead => 1

/-- Where an element lies. -/
inductive Place where
  | hbm (pa : Nat) (leaf : Word)
  | peer (dev : BitVec 16) (size : Nat) (leaf : Word)
  | pad (key : Nat)
  | ctx (off : Nat)
  deriving DecidableEq, Repr

/-- One element of an access: its lane, its address in its space, and where that is. -/
structure Elem where
  lane  : Nat
  addr  : Nat
  place : Place
  deriving DecidableEq, Repr

/-! ## Checks (R172) -/

/-- The outcome of checking one element or all of them. -/
inductive Check (α : Type) where
  | ok (s : State) (x : α)
  | trap (s : State) (i : TrapInfo)
  | wait (s : State)

/-- Scratchpad bytes of the thread's gang on each of its cores. -/
def State.padBytes (s : State) (t : Thread) : Nat := match s.taskOf t with
  | some k => k.spad
  | none => 0
/-- Cores of the cluster that hold a thread of the gang. -/
def State.padCores (s : State) (t : Thread) : Nat := min (s.gangSize t) 8

/-- A cluster-window offset lies in an allocation of the gang (R60). -/
def State.inWindow (s : State) (t : Thread) (a n : Nat) : Bool :=
  decide (a / Config.coreSpan < s.padCores t ∧ a % Config.coreSpan + n ≤ s.padBytes t)

/-- The thread is a user of its pages. -/
def State.isUser (s : State) (t : Thread) : Bool := !s.asidPriv (s.asidOf t)

/-- A store through `cx:` at or above 0x3000 is forbidden, but for RPC while HANDLER is 1 (R60, R330). -/
def Thread.ctxForbids (t : Thread) (a : Acc) (off n : Nat) : Bool :=
  a.writes && 0x3000 ≤ off && !(a == .store && off == 0x32A0 && n == 8 && t.trapRec.handler)

/-- A global address of a thread, translated and checked (R172 items 2 and 4). -/
def State.checkGlobal (s : State) (t : Thread) (a : Acc) (lane addr : Nat) : Check Place :=
  match s.translate (s.coreOf t) (s.asidOf t) addr (a.need (s.isUser t)) with
  | .wait => .wait s
  | .fault s c table pa => .trap s (trFault c a.detail (BitVec.ofNat 64 addr) lane table pa)
  | .ok s page size leaf =>
    if pteMode leaf = 0 then .ok s (.hbm (leafPA page leaf addr) leaf) else .ok s (.peer (ptePeer leaf) size leaf)

/-- One element of `n` bytes (R172): alignment, address bits, bounds, translation and permission. -/
def State.checkElem (s : State) (t : Thread) (a : Acc) (space : Space) (align n lane addr : Nat) : Check Place :=
  let bad (c : Cause) (d : Nat) : Check Place := .trap s { cause := c, detail := d, addr := BitVec.ofNat 64 addr, lane := lane }
  if addr % align ≠ 0 then bad .align 1
  else match space with
    | .glob => s.checkGlobal t a lane addr
    | .sp =>
      if addr + n ≤ s.padBytes t then .ok s (.pad (t.home * Config.coreSpan + addr)) else bad .addr 7
    | .cw => if s.inWindow t addr n then .ok s (.pad addr) else bad .addr 7
    | .cx =>
      if 0x4000 < addr + n then bad .addr 7
      else if t.ctxForbids a addr n then bad .prot a.detail
      else .ok s (.ctx addr)

/-- Every element in ascending lane order; the first that fails ends the check (R172). -/
def State.checkElems (t : Thread) (a : Acc) (space : Space) (n : Nat) : State → List (Nat × Nat) → Check (List Elem)
  | s, [] => .ok s []
  | s, (l, addr) :: rest =>
    match s.checkElem t a space n n l addr with
    | .trap s i => .trap s i
    | .wait s => .wait s
    | .ok s p =>
      match State.checkElems t a space n s rest with
      | .ok s es => .ok s (⟨l, addr, p⟩ :: es)
      | r => r

/-! ## Watchpoints (R335 to R337) -/

/-- The SPACE code that a watchpoint names. -/
def spaceCode : Space → Nat
  | .glob => 0 | .sp => 1 | .cw => 2 | .cx => 3

/-- A watchpoint matches `n` bytes at an address; `value` is what the element stores or S(B) of an atomic, with its width. -/
def DebugEntry.watches (e : DebugEntry) (a : Acc) (space : Space) (addr n : Nat) (value : Option (Nat × Nat)) : Bool :=
  let c := e.ctl
  let wide := match value with
    | some (_, w) => min w 32
    | none => 32
  c.getLsbD 0 && c.getLsbD a.watchBit && (c &&& 0xF40#64) == 0 && (getBits c 4 2).toNat == spaceCode space && space != .cx
    && meets e.addr.toNat (getBits c 12 20).toNat addr n
    && (!c.getLsbD 7 || a.watchBit == 1 || (match value with
        | some (v, _) => (getBits c 32 32).toNat % 2 ^ wide == v % 2 ^ wide
        | none => false))

/-- The lowest lane that a watchpoint matches, and the first entry that does (R336). -/
def Thread.watchHit (t : Thread) (a : Acc) (space : Space) (n : Nat) (elems : List (Nat × Nat × Option (Nat × Nat))) : Option TrapInfo :=
  if t.skipsWatches then none
  else (elems.filterMap (fun e =>
    (t.watches.findIdx? (fun w => w.watches a space e.2.1 n e.2.2)).map (fun k =>
      ({ cause := .watch, detail := a.watchBit, addr := BitVec.ofNat 64 e.2.1, lane := e.1, which := some (4 + k) } : TrapInfo)))).head?

/-! ## Reading and writing places -/

/-- Bytes of a gang's scratchpad. -/
def State.padRead (s : State) (t : Thread) (key n : Nat) : List Byte :=
  match s.gangOf t with
  | some g => cellsRead zeroByte g.spad key n
  | none => List.replicate n 0
/-- A gang whose scratchpad takes bytes; a word written whole has its check bits anew (R357). -/
def Gang.padded (g : Gang) (key : Nat) (bs : List Byte) : Gang := { g with
  spad := cellsWrite zeroByte g.spad key bs
  badPad := g.badPad.filter (fun w => !decide (key ≤ 8 * w ∧ 8 * w + 8 ≤ key + bs.length)) }
def State.padWrite (s : State) (t : Thread) (key : Nat) (bs : List Byte) : State :=
  s.onGang t.id.task t.id.gang (fun g => g.padded key bs)

/-- Bytes of the control area as they stand, over what memory holds where the device keeps nothing (R40, R60). -/
def State.ctxControl (s : State) (t : Thread) (off n : Nat) : List Byte :=
  let under := match s.ctxPage t 3 with
    | .ok (s, pa) => s.readPA (pa + (off - 0x3000)) n
    | _ => List.replicate n 0
  let segs := s.controlSegments t
  tabulate n (fun i => match segs.find? (fun g => decide (g.1 ≤ off + i ∧ off + i < g.1 + g.2.length)) with
    | some g => g.2.getD (off + i - g.1) 0
    | none => under.getD i 0)

/-- Bytes of the thread's own context block (R40, R47). -/
def State.ctxRead (s : State) (t : Thread) (off n : Nat) : List Byte :=
  if off < 0x3000 then bytesOfNat n (getBits t.regs (8 * off) (8 * n)).toNat else s.ctxControl t off n

/-- A store to the thread's own register space sets the granules it touches valid (R48); the one above it writes RPC (R330). -/
def Thread.ctxWrite (t : Thread) (off : Nat) (bs : List Byte) : Thread :=
  if 0x3000 ≤ off then { t with trapRec := { t.trapRec with rpc := wordOfBytes bs } }
  else
    let touched : GranuleBits := onesAt 1536 (off / 8) ((off + bs.length - 1) / 8 - off / 8 + 1)
    -- granules written whole have their check bits anew (R357)
    let whole : GranuleBits := onesAt 1536 ((off + 7) / 8) ((off + bs.length) / 8 - (off + 7) / 8)
    let t := { t with regs := setBits t.regs (8 * off) (BitVec.ofNat (8 * bs.length) (natOfBytes bs)), valid := t.valid ||| touched
                      badRegs := t.badRegs &&& ~~~whole }
    t.noteMailboxes touched

/-- The lines that hold a range have been written by another than the walk that watches them, which its ASID and table name (R277). -/
def State.touchLines (s : State) (pa n : Nat) (by' : Option (Nat × Nat)) : State :=
  if s.watched.isEmpty then s
  else { s with watched := s.watched.map (fun w =>
    if meets (w.2.2.1 * 256) 256 pa n ∧ some (w.1, w.2.1) ≠ by' then (w.1, w.2.1, w.2.2.1, true) else w) }

/-- How an access through a leaf reaches memory (R179, R309, R315): by its ceiling, which EVICT 7 weakens. The lines of a GLOBAL leaf are
the same in every ASID. -/
def viaOf (asid va : Nat) (leaf : Word) (evict : BitVec 3 := 0) : Via :=
  let a := if pteGlobal leaf then globalTag else asid
  if pteCeil leaf = 0 then .memory else if pteCeil leaf = 1 then .through a va else if evict = 7 then .around a va else .back a va

/-- The barrier word that a thread is blocked on, as its mapping reads it now (R141, R187). -/
def State.barWordOf (s : State) (t : Thread) : Option Word :=
  match t.savedBar with
  | (a, .glob) =>
    match s.translate none (s.asidOf t) a ⟨true, false, false, s.isUser t⟩ with
    | .ok s page _ leaf => if pteMode leaf = 0 then some (wordOfBytes (s.readVia (viaOf (s.asidOf t) a leaf) (leafPA page leaf a) 8)) else none
    | _ => none
  | (a, .sp) => some (wordOfBytes (s.padRead t (t.home * Config.coreSpan + a) 8))
  | (a, .cw) => some (wordOfBytes (s.padRead t a 8))
  | (_, .cx) => none

/-- A thread blocked on a barrier word may go on (R184), whether or not a prefix stands before its `bar` or `barw`. -/
def State.barPassed (s : State) (t : Thread) : Bool :=
  t.block == .bar && (match s.barWordOf t with
    | some w => barCompleted w t.savedPhase24
    | none => false)

/-- After a write every thread blocked on a barrier word evaluates it again (R187). -/
def State.wakeBarriers (s : State) : State :=
  if s.threads.any (fun t => t.block == .bar && t.waitsHere) then s.releaseThreads s.barPassed else s

/-- A write of device memory at its home, through a mapping. -/
def State.storeHome (s : State) (via : Via) (pa : Nat) (bs : List Byte) (by' : Option (Nat × Nat)) : State :=
  (((s.dirtied via pa bs).writePA pa bs).touchLines pa bs.length by').wakeBarriers
/-- A write of device memory by a task's thread or engine, which a fetch may not see yet (R129). -/
def State.storeTask (s : State) (asid : Nat) (t : Thread) (via : Via) (pa : Nat) (bs : List Byte) (by' : Option (Nat × Nat)) : State :=
  (s.codeNoted asid t.id.task pa bs.length).storeHome via pa bs by'

/-- The classes of R371 for the accesses of one cycle to one line: local atomics and barrier arrivals by core, remote atomics by
device, core and number, local stores and engine writes, remote ones like remote atomics. -/
def localAtomicRank (core : Nat) : List Nat := [0, core]
def remoteAtomicRank (dev core seq : Nat) : List Nat := [1, dev, core, seq]
def localStoreRank : List Nat := [2]
def remoteStoreRank (dev core seq : Nat) : List Nat := [3, dev, core, seq]

/-- An access reaches the home of a line of device memory (R371). -/
def State.atHome (s : State) (pa : Nat) (rank : List Nat) : State := s.inOrder (.access (pa / 256) rank)

/-- An access reaches a line of a gang's scratchpad (R187). -/
def State.atPad (s : State) (t : Thread) (key : Nat) (rank : List Nat) : State :=
  s.inOrder (.pad t.id.task t.id.gang (key / 256) rank)

/-- A write of a gang's scratchpad, a store or an engine write unless its class is given. -/
def State.storePad (s : State) (t : Thread) (key : Nat) (bs : List Byte) (rank : List Nat := localStoreRank) : State :=
  ((s.atPad t key rank).padWrite t key bs).wakeBarriers

/-- DATAERR of a lane: ADDR names the damaged line, and a damaged line is retired (R340, R358). -/
def State.dataErr (s : State) (pa n addr lane : Nat) : State × TrapInfo :=
  (s.retireRange pa n, { cause := .dataErr, detail := 1, addr := BitVec.ofNat 64 (addr / 256 * 256), lane := lane })

/-! ## Other devices and the host: loads (R201, R316, R317, R369) -/

/-- Why a place outside the device cannot be reached at all (R346, R350). -/
def State.unreachable (s : State) (dev : BitVec 16) : Option Nat :=
  if dev = 0xFFFF then (if s.site.pasid then none else some 0) else if s.hasFabric then none else some 3

/-- A page of mode 2 of another device than the host (R316). -/
def cachedRemote (dev : BitVec 16) (leaf : Word) : Bool := pteMode leaf == 2 && dev != 0xFFFF

/-- The local copy of a sector of a mode-2 page under the current remote epoch (R317). -/
def State.localCopy (s : State) (asid va : Nat) : Option (List Byte) :=
  (s.remLines.find? (fun r => r.asid == asid && r.va == va / 32 * 32 && r.epoch == s.remEpoch)).map (·.data)

/-- What is asked of the peer for a place: a whole line fills the local copies of mode 2, else one sector (R369). -/
def askRange (dev : BitVec 16) (leaf : Word) (va : Nat) : Nat × Nat :=
  if cachedRemote dev leaf then (va / 256 * 256, 256) else (va / 32 * 32, 32)

/-- A request whose answer is still needed: device, VA and bytes, and the leaf and its size for counting. -/
structure Wanted where
  dev  : BitVec 16
  va   : Nat
  n    : Nat
  size : Nat
  leaf : Word
  deriving DecidableEq, Repr

/-- The ranges that elements need from outside and that no local copy serves; `fresh` ignores local copies. -/
def State.wanted (s : State) (asid : Nat) (fresh : Bool) (es : List Elem) : List Wanted :=
  (es.filterMap (fun e => match e.place with
    | .peer dev size leaf =>
      if cachedRemote dev leaf && !fresh && (s.localCopy asid e.addr).isSome then none
      else let (va, n) := askRange dev leaf e.addr
        some ⟨dev, va, n, size, leaf⟩
    | _ => none)).foldl (fun acc w => if acc.any (fun v => decide (v = w)) then acc else acc ++ [w]) []

/-- The bytes of a range as they came from outside; none when the request failed or is not answered. -/
def State.answered (s : State) (o : Owner) (w : Wanted) : Option Answer :=
  match s.pend? o (.bytes (BitVec.ofNat 64 w.va) w.n) with
  | some p => p.answer
  | none => none

/-- Copies of the sectors that an answer brought, under an epoch (R317). -/
def State.fillCopies (s : State) (asid epoch : Nat) (w : Wanted) (bs : List Byte) : State :=
  let keep := s.remLines.filter (fun r => !(r.asid == asid && decide (w.va ≤ r.va ∧ r.va < w.va + w.n)))
  { s with remLines := keep ++ tabulate (w.n / 32) (fun i => ⟨asid, w.va + 32 * i, epoch, (bs.drop (32 * i)).take 32⟩) }

/-- Requests that meet a range, but for one, fill no line any more. -/
def State.staleOthers (s : State) (tag va n : Nat) : State :=
  { s with pends := s.pends.map (fun p => match p.asked with
    | .bytes a k => if p.tag ≠ tag ∧ meets a.toNat k va n then { p with stale := true } else p
    | .atomic _ => p) }

/-- An answer may fill lines: of a mode-2 page, on a ceiling and EVICT that allocate (R179), with data that are the latest fetched and
that hold every store of this device (R191, R317), under the TLB epoch of its request (R307). -/
def State.mayFill (s : State) (evict : BitVec 3) (w : Wanted) (p : Pending) : Bool :=
  cachedRemote w.dev w.leaf && pteCeil w.leaf != 0 && evict != 7 && !p.stale && p.tlb == s.epoch

/-- A thread takes an answer. It fills the lines, or the lines that are there go, since they may be older than what the thread has
now read; what others have asked for may be older too, and fills nothing (R191, R317). The lines of an acquire that advances the
remote epoch, from `was`, are of the new epoch. -/
def State.takeAnswer (s : State) (asid : Nat) (evict : BitVec 3) (was : Nat) (w : Wanted) (p : Pending) (bs : List Byte) : State :=
  if !cachedRemote w.dev w.leaf then s
  else
    let fills := s.mayFill evict w p
    let s := s.staleOthers p.tag w.va w.n
    if fills then s.fillCopies asid (if p.epoch = was then s.remEpoch else p.epoch) w bs
    else { s with remLines := s.remLines.filter (fun r => !(r.asid == asid && decide (w.va ≤ r.va ∧ r.va < w.va + w.n))) }

/-- What an outside failure raises at a lane (R369, R372). -/
def remoteTrap (f : RemoteFail) (detail addr lane : Nat) : TrapInfo :=
  { cause := f.cause
    detail := match f.cause with
      | .page | .prot | .addr => detail
      | .dataErr => 1
      | _ => f.detail
    addr := BitVec.ofNat 64 addr, lane := lane }

/-- A store or atomic of the thread or of its engines to some of these bytes is not yet acknowledged: a load of them
follows it (R200 rule 3). -/
def State.unackedTo (s : State) (id : ThreadId) (dev : BitVec 16) (va n : Nat) : Bool :=
  let mine (u : Owner) : Bool := Owner.counts (.thread id) u || Owner.counts (.engine id) u || decide (u = .matrix id)
  s.tx.any (fun x => x.dev == dev && x.unacked.any (fun u => mine u.owner && (let (a, k) := writtenRange u.frame.payload; meets a k va n)))
    || s.outQ.any (fun q => q.dev == dev && mine q.owner && meets q.va q.data.length va n)
    || s.pends.any (fun p => dev == 0xFFFF && p.owner.isHostNr && mine p.owner && (match p.asked with
      | .atomic a => meets a.toNat 8 va n
      | .bytes .. => false))

/-- How far the outside part of a load has come. -/
inductive Outside where
  | ready
  | asked (s : State)
  | failed (i : TrapInfo)

/-- The requests of a load: those not yet sent are sent; a failed answer names its lowest lane; else ready when all have
come. -/
def State.outside (s : State) (o : Owner) (t : Thread) (asid : Nat) (fresh : Bool) (detail : Nat) (es : List Elem) : Outside :=
  match (es.filterMap (fun e => match e.place with
    | .peer dev _ _ => (s.unreachable dev).map (fun d => remoteTrap ⟨.remoteUnsup, d⟩ detail e.addr e.lane)
    | _ => none)).head? with
  | some i => .failed i
  | none =>
    let ws := s.wanted asid fresh es
    let missing := ws.filter (fun w => (s.pend? o (.bytes (BitVec.ofNat 64 w.va) w.n)).isNone)
    if !missing.isEmpty then
      let asks := missing.filter (fun w => !s.unackedTo t.id w.dev w.va w.n)
      .asked (asks.foldl (fun s w => s.askBytes o t ((s.coreOf t).getD 0) asid w.dev w.va w.n (cachedRemote w.dev w.leaf))
        (s.countLines asid (asks.map (fun w => (w.va, w.size, w.leaf)))))
    else if ws.any (fun w => (s.answered o w).isNone) then .asked s
    else match (es.filterMap (fun e => match e.place with
        | .peer dev size leaf =>
          let (va, n) := askRange dev leaf e.addr
          match s.answered o ⟨dev, va, n, size, leaf⟩ with
          | some (.fail f) => some (remoteTrap f detail e.addr e.lane)
          | _ => none
        | _ => none)).head? with
      | some i => .failed i
      | none => .ready

/-- The bytes of an element whose outside part is ready. -/
def State.elemBytes (s : State) (o : Owner) (t : Thread) (asid : Nat) (e : Elem) (n : Nat) : List Byte :=
  match e.place with
  | .hbm pa leaf => s.readVia (viaOf asid e.addr leaf) pa n
  | .pad key => s.padRead t key n
  | .ctx off => s.ctxRead t off n
  | .peer dev size leaf =>
    let (va, len) := askRange dev leaf e.addr
    match s.answered o ⟨dev, va, len, size, leaf⟩ with
    | some (.data bs) => (bs.drop (e.addr - va)).take n
    | _ => match s.localCopy asid e.addr with
      | some bs => (bs.drop (e.addr % 32)).take n
      | none => List.replicate n 0

/-! ## Ordering fields (R174, R183, R200, R317) -/

/-- ORD makes the access a release, or an acquire. -/
def ordReleases : MemOrd → Bool
  | .rel | .sc => true
  | _ => false
def ordAcquires : MemOrd → Bool
  | .acq | .sc => true
  | _ => false

/-- Scope 4 or 5. -/
def wideScope (sc : Scope) : Bool := sc == .grp || sc == .sys

/-- A release at scope 4 or 5 waits until every remote store of the thread has been acknowledged (R183, R200). -/
def State.mayRelease (s : State) (t : Thread) (releases : Bool) (sc : Scope) : Bool :=
  !(releases && wideScope sc) || !s.unackedBy (.thread t.id)

/-- An acquire at scope 4 or 5 advances the remote epoch (R317). -/
def State.acquired (s : State) (acquires : Bool) (sc : Scope) : State :=
  if acquires && wideScope sc then { s with remEpoch := s.remEpoch + 1 } else s

/-! ## The checks of one instruction -/

/-- Lines of the context block that elements in `cx:` touch and that the register cache lacks. -/
def Thread.ctxMissing (t : Thread) (n : Nat) (es : List Elem) : Lines :=
  es.foldl (fun acc e => match e.place with
    | .ctx off => acc ||| linesOfRange off n
    | _ => acc) 0 &&& ~~~t.resident

/-- An element overlaps an engine command's footprint (R204). -/
def Thread.elemHeld (t : Thread) (a : Acc) (space : Space) (n : Nat) (e : Elem) : Bool :=
  match domOf t.home space e.addr with
  | some (d, x) => t.engineHolds a.writes d x n
  | none => false

/-- The elements of an instruction, checked (R172), watched (R336), held back by an engine's footprint (R204) or a missing
context part (R51), then performed. `value` gives what a lane stores, for a watchpoint that matches values. -/
def withElems (s : State) (t : Thread) (a : Acc) (space : Space) (n : Nat) (lanes : List (Nat × Nat))
    (value : Nat → Option (Nat × Nat)) (k : State → List Elem → Res) : Res :=
  match State.checkElems t a space n s lanes with
  | .trap s i => .trap s i
  | .wait s => .retry s .none
  | .ok s es =>
    match t.watchHit a space n (lanes.map (fun l => (l.1, l.2, value l.1))) with
    | some i => .trap s i
    | none =>
      if t.ctxMissing n es ≠ 0 then .fill s (t.ctxMissing n es)
      else if es.any (t.elemHeld a space n) then .retry s .none
      else k s es

/-! ## Loads -/

/-- Scratchpad bytes of the thread's gang that hold an uncorrectable error (R357). -/
def State.padBad (s : State) (t : Thread) (key n : Nat) : Bool := match s.gangOf t with
  | some g => g.badPad.any (fun w => meets (8 * w) 8 key n)
  | none => false

/-- The damaged words under a range of a scratchpad are lost: their line is disabled, and what they read is free (R358). -/
def State.padLost (s : State) (t : Thread) (key n : Nat) : State :=
  match s.gangOf t with
  | none => s
  | some g =>
    let ws := g.badPad.filter (fun w => meets (8 * w) 8 key n)
    let s := (s.sramLost ((s.coreOf t).getD 0)).setGang { g with badPad := g.badPad.filter (fun w => !ws.contains w) }
    ws.foldl (fun s w => let (s, bs) := s.lostBytes 8; s.padWrite t (8 * w) bs) s

/-- The first element whose data are damaged. -/
def State.firstBad (s : State) (t : Thread) (n : Nat) (es : List Elem) : Option Elem :=
  es.find? (fun e => match e.place with
    | .hbm pa _ => s.dataBad pa n
    | .pad key => s.padBad t key n
    | .ctx off => off < 0x3000 && t.badRegs &&& onesAt 1536 (off / 8) ((off + n - 1) / 8 - off / 8 + 1) != 0
    | .peer .. => false)

/-- DATAERR of a damaged element (R340, R358): ADDR is the VA of its line, or the line's context offset. -/
def State.elemErr (s : State) (t : Thread) (n : Nat) (e : Elem) : State × TrapInfo :=
  match e.place with
  | .hbm pa _ => s.dataErr pa n e.addr e.lane
  | .pad key => (s.padLost t key n, { cause := .dataErr, detail := 1, addr := BitVec.ofNat 64 (e.addr / 256 * 256), lane := e.lane })
  | .ctx off => (s.sramLost ((s.coreOf t).getD 0), { cause := .dataErr, detail := 2, addr := BitVec.ofNat 64 (off / 256 * 256), lane := e.lane })
  | .peer .. => (s, { cause := .dataErr, detail := 1 })

/-- A load corrects and counts the errors that its elements meet (R357). -/
def State.correctElems (s : State) (n : Nat) (es : List Elem) : State :=
  if s.softLines.isEmpty then s
  else es.foldl (fun s e => match e.place with
    | .hbm pa _ => s.corrected pa n
    | _ => s) s

/-- A load of checked elements (R170, R171, R369): each lane's number. -/
def loadElems (s : State) (t : Thread) (c : Ctx) (n : Nat) (ord : MemOrd) (sc : Scope) (evict : BitVec 3) (es : List Elem)
    (k : State → List (Nat × Nat) → Res) : Res :=
  let asid := s.asidOf t
  let o := Owner.thread t.id
  let fresh := ordAcquires ord && wideScope sc
  if ord == .sc && !s.mayRelease t true sc then .retry (s.flushLast o) .none
  else match s.outside o t asid fresh 1 es with
    | .failed i => .trap (s.dropPends o) i
    | .asked s => .retry s .none
    | .ready =>
      match s.firstBad t n es with
      | some e => let (s, i) := s.elemErr t n e; .trap s i
      | none =>
        let s := s.correctElems n es
        let got := es.map (fun e => (e.lane, natOfBytes (s.elemBytes o { t with pc := c.pc0 } asid e n)))
        let was := s.remEpoch
        let s := s.acquired (ordAcquires ord) sc
        let ws := s.wanted asid true es
        let s := ws.foldl (fun s w => match s.pend? o (.bytes (BitVec.ofNat 64 w.va) w.n) with
          | some p => (match p.answer with
            | some (.data bs) => s.takeAnswer asid evict was w p bs
            | _ => s)
          | none => s) s
        k (s.dropPends o) got

/-! ## Stores -/

/-- One operation of a stream: the run of bytes of one sector that it carries. -/
structure StoreRun where
  dev  : BitVec 16
  va   : Nat
  data : List Byte
  deriving DecidableEq, Repr

/-- Runs of adjacent lanes within one 32-byte sector (R365). -/
def runsOf : List StoreRun → List StoreRun
  | [] => []
  | r :: rest =>
    match runsOf rest with
    | q :: qs =>
      if r.dev = q.dev ∧ r.va + r.data.length = q.va ∧ r.va / 32 = q.va / 32 then { r with data := r.data ++ q.data } :: qs
      else r :: q :: qs
    | [] => [r]

/-- The outside stores of an instruction, in ascending lane order. -/
def outsideRuns (xs : List (Elem × List Byte)) : List StoreRun :=
  runsOf (xs.filterMap (fun x => match x.1.place with
    | .peer dev _ _ => some ⟨dev, x.1.addr, x.2⟩
    | _ => none))

/-- Requests whose answers must no longer fill a line, for a store of this device to their bytes (R317). -/
def State.stalePends (s : State) (va n : Nat) : List Pending :=
  s.pends.map (fun p => match p.asked with
    | .bytes a k => if meets a.toNat k va n then { p with stale := true } else p
    | .atomic _ => p)

/-- A store to a mode-2 page updates the local copy of its sector, and answers asked before it fill none (R317). -/
def State.updateCopy (s : State) (asid va : Nat) (bs : List Byte) : State :=
  { s with pends := s.stalePends va bs.length, remLines := s.remLines.map (fun r =>
      if r.asid = asid ∧ r.va = va / 32 * 32 then
        { r with data := r.data.take (va % 32) ++ bs ++ r.data.drop (va % 32 + bs.length) }
      else r) }

/-- The local copies of a range are dropped (R369). -/
def State.dropCopies (s : State) (asid va n : Nat) : State :=
  { s with pends := s.stalePends va n, remLines := s.remLines.filter (fun r => !(r.asid == asid && meets r.va 32 va n)) }

/-- The streams of a core have room for runs (R365). -/
def State.roomFor (s : State) (core : Nat) (rs : List StoreRun) : Bool :=
  rs.all (fun r => r.dev == 0xFFFF || s.canSend core r.dev (rs.filter (fun q => q.dev == r.dev)).length)

/-- A run leaves: in the stream, or as a posted write to the host (R201, R365). -/
def State.sendRun (s : State) (o : Owner) (t : Thread) (core asid : Nat) (flush : Bool) (r : StoreRun) : State :=
  if r.dev = 0xFFFF then { s with pcie := s.pcie ++ [.write t.id asid (BitVec.ofNat 64 r.va) r.data] }
  else (s.streamOp core r.dev o (s.jobOf t) 2 (.store (BitVec.ofNat 64 r.va) r.data flush)).updateCopy asid r.va r.data

/-- One element stored where it lies, under an EVICT; what lies outside goes by its run. -/
def State.storeElem (s : State) (t : Thread) (evict : BitVec 3) (e : Elem) (bs : List Byte) : State × Thread :=
  match e.place with
  | .hbm pa leaf => ((s.atHome pa localStoreRank).storeTask (s.asidOf t) t (viaOf (s.asidOf t) e.addr leaf evict) pa bs none, t)
  | .pad key => (s.storePad t key bs, t)
  | .ctx off => (s, t.ctxWrite off bs)
  | .peer .. => (s, t)

/-- Line requests of mode-3 pages are counted (R318). -/
def State.countElems (s : State) (asid : Nat) (es : List Elem) : State :=
  s.countLines asid (es.filterMap (fun e => match e.place with
    | .peer _ size leaf => some (e.addr, size, leaf)
    | _ => none))

/-- A store of checked elements with their bytes (R170, R171, R369). -/
def storeElems (s : State) (t : Thread) (ord : MemOrd) (sc : Scope) (evict : BitVec 3) (xs : List (Elem × List Byte)) (k : State → Thread → Res) : Res :=
  let asid := s.asidOf t
  let core := (s.coreOf t).getD 0
  let o := Owner.thread t.id
  let runs := outsideRuns xs
  match (xs.filterMap (fun x => match x.1.place with
    | .peer dev _ _ => (s.unreachable dev).map (fun d => remoteTrap ⟨.remoteUnsup, d⟩ 2 x.1.addr x.1.lane)
    | .hbm pa _ => if s.resident pa then none else some (s.dataErr pa x.2.length x.1.addr x.1.lane).2
    | _ => none)).head? with
  | some i => .trap s i
  | none =>
    if !s.mayRelease t (ordReleases ord) sc then .retry (s.flushLast o) .none
    else if !s.roomFor core runs then .retry s .none
    else
      let s := s.countElems asid (xs.map (·.1))
      let (s, t) := xs.foldl (fun (p : State × Thread) x => p.1.storeElem p.2 evict x.1 x.2) (s, t)
      let s := runs.foldl (fun s r => s.sendRun o t core asid (ordReleases ord) r) s
      let t := if runs.any (fun r => r.dev == 0xFFFF) then { t with wroteHost := true } else t
      -- the SC fence after the store waits for the store's own acknowledgement (R174, R183, R198)
      let fence := ord == .sc && wideScope sc && runs.any (fun r => r.dev != 0xFFFF)
      k (s.acquired (ord == .sc) sc) (if fence then { t with fencing := true } else t)

/-! ## Writes of engines to other devices (R365, R399) -/

/-- A write of an engine's unit to another device: it leaves at once where its stream has room and nothing waits before it, else it
waits at issue. -/
def State.postOp (s : State) (q : OutOp) : State :=
  if s.canSend q.core q.dev 1 && !s.outQ.any (fun r => r.core == q.core && r.dev == q.dev) then
    let s := s.streamOp q.core q.dev q.owner q.job 2 (.store (BitVec.ofNat 64 q.va) q.data q.flush) q.since
    match q.owner with
    | .rank .. => s
    | _ => s.updateCopy q.asid q.va q.data
  else { s with outQ := s.outQ ++ [q] }

/-- Writes that waited leave, in their order, while their streams have room. -/
def State.pump (s : State) : State :=
  if s.outQ.isEmpty then s else s.outQ.foldl State.postOp { s with outQ := [] }

end Sys2Proof.Machine
end

