-- ==== Sys2Proof/Machine/EngineQueue.lean ====
section
/-! DEFINITION. Pushing commands into a thread's matrix queue and copy-engine queue (R228, R249, R250). -/

namespace Sys2Proof.Machine

/-- The thread's matrix entries. -/
def Thread.mxEntries (t : Thread) : List MxEntry := t.mx0.toList ++ t.mx1.toList
/-- The thread's copy-engine entries. -/
def Thread.ceEntries (t : Thread) : List CeEntry := t.ce0.toList ++ t.ce1.toList

/-- A matrix command enters the first free entry; HEAD names the one pushed earlier (R228, R239). -/
def Thread.pushMx (t : Thread) (e : MxEntry) : Thread :=
  match t.mx0, t.mx1 with
  | none, none => { t with mx0 := some e, mxHead := false }
  | none, some _ => { t with mx0 := some e, mxHead := true }
  | some _, _ => { t with mx1 := some e, mxHead := false }

/-- A copy-engine command enters a free entry; HEAD marks the one pushed earlier (R250). -/
def Thread.pushCeEntry (t : Thread) (word : Word) (ops : List Word) (progress : BitVec 48 := 0) : Thread :=
  let e (head : Bool) : CeEntry := { word := word, ops := ops, progress := progress, started := false, head := head }
  match t.ce0, t.ce1 with
  | none, none => { t with ce0 := some (e true) }
  | none, some b => { t with ce0 := some (e false), ce1 := some { b with head := true } }
  | some a, _ => { t with ce0 := some { a with head := true }, ce1 := some (e false) }

/-- Captured operands filled to six words. -/
def sixWords (ws : List Word) : List Word := ws ++ List.replicate (6 - ws.length) 0

/-- A push (R249): it stalls while both entries are held, or while a matrix command that it overlaps runs (R204). D and
the other registers that the command writes become pending. -/
def pushCe (i : Instr) (ops : List Word) (pend : List RegRef) (s : State) (t : Thread) (progress : BitVec 48 := 0) : Res :=
  let entry : CeEntry := { word := i.word, ops := sixWords ops, progress := progress, started := false, head := false }
  if t.ce0.isSome && t.ce1.isSome then .retry s .queue
  else if t.mxEntries.any (fun e => enginesClash e.cmd entry t.home) then .retry s .none
  else .ok s (pend.foldl Thread.setPending (t.pushCeEntry i.word (sixWords ops) progress))

end Sys2Proof.Machine
end

