-- ==== Sys2Proof/Machine/Status.lean ====
section
/-! DEFINITION. Status words (R248) and the writes that engines and ports make in a thread's registers (R50). -/

namespace Sys2Proof.Machine

/-- The status word (R248): PROGRESS, DETAIL, CODE. -/
def statusWord (code detail progress : Nat) : Word := BitVec.ofNat 48 progress ++ BitVec.ofNat 8 detail ++ BitVec.ofNat 8 code

/-- Register writes of an engine in a thread (R50). -/
def State.landWrites (s : State) (id : ThreadId) (ws : List RegWrite) : Reach State :=
  match s.thread? id with
  | none => .ok s
  | some t => (s.loadRegs t (ws.map RegWrite.ref)).bind (fun (_, u) =>
      s.editThread id (ws.foldl (fun acc w => acc ||| u.lines w.ref) controlLine) (fun t => ws.foldl Thread.apply t))

/-- Writes held for a thread's context page, with one notice where the page does not translate (R50); one under migration is
only waited for (R320). -/
def State.holdWrites (s : State) (id : ThreadId) (ws : List RegWrite) (posting : Option (Word × Word)) (failed : Bool) : State :=
  match s.thread? id with
  | none => s
  | some t =>
    let s := { s with deferred := s.deferred ++ [{ owner := id, cbase := t.cbase, writes := ws, posting := posting }] }
    if failed then s.ctxNotice t (t.cbase + 8) none else s

/-- An engine's writes land, or wait for the page (R50), behind those that wait already. -/
def State.engineWrite (s : State) (id : ThreadId) (ws : List RegWrite) : State :=
  if s.deferred.any (fun (d : Deferred) => decide (d.owner = id)) then s.holdWrites id ws none false
  else match s.landWrites id ws with
    | .ok s => s
    | .wait => s.holdWrites id ws none false
    | .bad => s.holdWrites id ws none true

/-- A command's status (R248): at system scope when it writes another device (R205). -/
def State.putStatus (s : State) (id : ThreadId) (reg : SReg) (wide : Bool) (w : Word) : State :=
  s.engineWrite id [if wide then .wideStatus reg w else .scalar reg w]

end Sys2Proof.Machine
end

