-- ==== Sys2Proof/Machine/Engine.lean ====
section
/-! DEFINITION. What every copy-engine command shares (R248 to R255, R399): the order of the entries, reading and writing
memory for a unit, requests to other devices, failures, and the end of a command. -/

namespace Sys2Proof.Machine

/-! ## The computation of one unit -/

/-- The state during a unit: the device; the writes to other devices that leave when the unit has succeeded, oldest first:
device, VA, bytes and flush bit; their line requests, counted then: VA, page size and leaf (R318); and the pages that the unit has
translated, which a waiting segment keeps (R253). -/
structure Eng where
  s      : State
  out    : List (BitVec 16 × Nat × List Byte × Bool × Nat) := []
  counts : List (Nat × Nat × Word) := []
  held   : List HeldPage := []

/-- Why a unit does not run to its end: a failure with CODE and DETAIL; answers from outside still to come, with the requests to send,
or with an atomic on a word; or it starts anew, since another agent has changed what it has read. -/
inductive Stop where
  | fail (code detail : Nat)
  | wait (asks : List Wanted)
  | atomic (word : Wanted) (kind : AtomKind) (b c : Word)
  | again
  deriving Repr

/-- A computation of a unit. A unit that waits is tried again from its beginning, and only its requests are kept. -/
abbrev E := EStateM Stop Eng

/-- Who runs a command: the thread, whose requests they are, its ASID and core, whether its pages must be USER, and the
walk table, with its ASID, whose own writes a watch filter does not count (R277). -/
structure EngCtx where
  t     : Thread
  owner : Owner
  asid  : Nat
  core  : Nat
  user  : Bool
  mine  : Option (Nat × Nat)

def engFail {α : Type} (code detail : Nat) : E α := throw (.fail code detail)
def engState : E State := do
  let e ← get
  pure e.s
def engSet (s : State) : E Unit := modify (fun e => { e with s := s })

/-- What a failure of R369 or R372 is in a status (R399). -/
def failStatus (f : RemoteFail) : Nat × Nat :=
  match f.cause with
  | .page => (5, 1)
  | .prot => (5, 2)
  | .addr => (5, 3)
  | .dataErr => (5, 4)
  | .remoteUnsup => (11, 3)
  | _ => (11, 1)

/-- A VA of the command's ASID translated (R309, R313): its page, the page's bytes, and its place. A table fault also goes
to the host (R314); a place outside that cannot be reached ends 11 ABSENT, detail 3 (R399, R346). -/
def engTranslate (x : EngCtx) (va : Nat) (write : Bool) : E (Nat × Nat × Place) := do
  let s ← engState
  let place (s : State) (page size : Nat) (leaf : Word) : E (Nat × Nat × Place) :=
    if pteMode leaf = 0 then pure (page, size, .hbm (leafPA page leaf va) leaf)
    else match s.unreachable (ptePeer leaf) with
      | some _ => engFail 11 3
      | none => pure (page, size, .peer (ptePeer leaf) size leaf)
  -- a segment that has waited finishes under the translation with which it began (R253)
  match s.segs.find? (fun h => decide (x.owner = .engine h.owner) && h.write == write && decide (h.page ≤ va ∧ va < h.page + h.size)) with
  | some h => do
    modify (fun e => { e with held := e.held ++ [h] })
    place s h.page h.size h.leaf
  | none =>
    match s.translate none x.asid va ⟨!write, write, false, x.user⟩ with
    | .wait => throw (.wait [])
    | .fault s c table pa =>
      if table then engSet (s.event 0x03 x.asid (BitVec.ofNat 64 va) (BitVec.ofNat 64 pa))
      engFail 5 (match c with
        | .prot => 2
        | .addr => 3
        | _ => 1)
    | .ok s page size leaf =>
      modify (fun e => { e with s := s, held := e.held ++ [⟨x.t.id, page, size, leaf, write, s.tick⟩] })
      place s page size leaf

/-! ## Reading and writing -/

/-- A range cut at multiples of 256 bytes. -/
def linePieces (va n : Nat) : List (Nat × Nat) :=
  let rec go : Nat → Nat → Nat → List (Nat × Nat)
    | 0, _, _ => []
    | fuel + 1, va, n => if n = 0 then [] else let k := min n (256 - va % 256); (va, k) :: go fuel (va + k) (n - k)
  go (n / 256 + 2) va n

/-- Bytes of a range as the unit's own writes to other devices leave them. -/
def Eng.overlay (e : Eng) (va : Nat) (bs : List Byte) : List Byte :=
  e.out.foldl (fun bs w => tabulate bs.length (fun i =>
    if w.2.1 ≤ va + i ∧ va + i < w.2.1 + w.2.2.1.length then w.2.2.1.getD (va + i - w.2.1) 0 else bs.getD i 0)) bs

/-- Bytes within one line (R252, R399): an uncorrectable error or a frame that is not resident is detail 4. -/
def readPiece (x : EngCtx) (va n : Nat) : E (List Byte) := do
  let (_, _, place) ← engTranslate x va false
  let s ← engState
  match place with
  | .hbm pa leaf =>
    if s.badAt pa n then do engSet (s.retireRange pa n); engFail 5 4
    else if !s.resident pa then engFail 5 4
    else do
      engSet (s.corrected pa n)
      pure (s.readVia (viaOf x.asid va leaf) pa n)
  | .peer dev size leaf =>
    let a := va / 32 * 32
    let w : Wanted := ⟨dev, a, roundUp (va + n) 32 - a, size, leaf⟩
    if s.unackedTo x.t.id dev a w.n then throw (.wait [])
    else match s.answered x.owner w with
      | some (.data bs) => do
        let e ← get
        pure (e.overlay va ((bs.drop (va - a)).take n))
      | some (.fail f) => engFail (failStatus f).1 (failStatus f).2
      | _ => throw (.wait (if (s.pend? x.owner (.bytes (BitVec.ofNat 64 w.va) w.n)).isSome then [] else [w]))
  | _ => engFail 5 3

/-- Pieces read in order. While one waits, the others only send their requests; the first failure before that ends all. -/
def readPieces (x : EngCtx) : List (Nat × Nat) → Option (List Wanted) → E (List Byte)
  | [], none => pure []
  | [], some asks => throw (.wait asks)
  | (va, n) :: rest, waiting => fun e =>
    match readPiece x va n e with
    | .ok bs e' =>
      match readPieces x rest waiting e' with
      | .ok cs e' => .ok (bs ++ cs) e'
      | r => r
    | .error (.wait asks) _ => readPieces x rest (some (waiting.getD [] ++ asks)) e
    | .error f e' => match waiting with
      | some asks => .error (.wait asks) e
      | none => .error f e'

/-- `n` bytes at a VA. -/
def engRead (x : EngCtx) (va n : Nat) : E (List Byte) := readPieces x (linePieces va n) none

/-- A word at a VA. -/
def engWord (x : EngCtx) (va : Nat) : E Word := do
  let bs ← engRead x va 8
  pure (wordOfBytes bs)

/-- Every line of a range can be written. -/
def probePieces (x : EngCtx) : List (Nat × Nat) → E Unit
  | [] => pure ()
  | (va, _) :: rest => do
    let (_, _, place) ← engTranslate x va true
    let s ← engState
    match place with
    | .hbm pa _ => if s.resident pa then probePieces x rest else engFail 5 4
    | _ => probePieces x rest

/-- Bytes written within one line that has been probed. -/
def writePiece (x : EngCtx) (va : Nat) (bs : List Byte) (flush : Bool) : E Unit := do
  let (_, _, place) ← engTranslate x va true
  let s ← engState
  match place with
  | .hbm pa leaf => engSet ((s.atHome pa localStoreRank).storeTask x.asid x.t (viaOf x.asid va leaf) pa bs x.mine)
  | .peer dev size leaf => modify (fun e => { e with out := e.out ++ [(dev, va, bs, flush, (e.held.getLast?.map (·.since)).getD s.tick)], counts := e.counts ++ [(va, size, leaf)] })
  | _ => pure ()

def writePieces (x : EngCtx) (flush : Bool) : List (Nat × Nat) → List Byte → E Unit
  | [], _ => pure ()
  | (va, n) :: rest, bs => do
    writePiece x va (bs.take n) (flush && rest.isEmpty)
    writePieces x flush rest (bs.drop n)

/-- Bytes at a VA, written whole or not at all: of a line that straddles a good and a bad page no byte is written, DESIGN CHOICE
(log 128), since R245 speaks of the lines before the faulting one only; `flush` marks the last remote store (R256). -/
def engWrite (x : EngCtx) (va : Nat) (bs : List Byte) (flush : Bool := false) : E Unit := do
  probePieces x (linePieces va bs.length)
  writePieces x flush (linePieces va bs.length) bs

def engPutWord (x : EngCtx) (va : Nat) (w : Word) : E Unit := engWrite x va (bytesOfWord w)

/-- Runs of one sector of a unit's writes to other devices: one stream operation each (R365). -/
def sectorRuns (w : BitVec 16 × Nat × List Byte × Bool × Nat) : List (StoreRun × Bool) :=
  let rec go : Nat → Nat → List Byte → List (StoreRun × Bool)
    | 0, _, _ => []
    | fuel + 1, va, bs =>
      if bs.isEmpty then []
      else
        let k := min bs.length (32 - va % 32)
        (⟨w.1, va, bs.take k⟩, w.2.2.2.1 && k == bs.length) :: go fuel (va + k) (bs.drop k)
  go (w.2.2.1.length / 32 + 2) w.2.1 w.2.2.1

/-- One write of a unit to another device or to the host leaves, or waits at issue (R201, R365). -/
def State.postRun (s : State) (x : EngCtx) (owner : Owner) (flush : Bool) (since : Nat) (r : StoreRun) : State :=
  if r.dev = 0xFFFF then s.sendRun owner x.t x.core x.asid flush r
  else s.postOp ⟨x.core, r.dev, owner, s.jobOf x.t, x.asid, r.va, r.data, flush, since⟩

/-- A unit's writes to other devices leave, those for which a stream has no room when it has (R365), and their requests are counted
(R318). -/
def Eng.commit (e : Eng) (x : EngCtx) : State :=
  (e.out.flatMap (fun w => (sectorRuns w).map (fun r => (r, w.2.2.2.2)))).foldl
    (fun s r => s.postRun x x.owner r.1.2 r.2 r.1.1) (e.s.countLines x.asid e.counts)

/-- Requests leave, each once. -/
def State.sendAsks (s : State) (x : EngCtx) (asks : List Wanted) : State :=
  let new := asks.filter (fun w => (s.pend? x.owner (.bytes (BitVec.ofNat 64 w.va) w.n)).isNone)
  new.foldl (fun s w =>
    if (s.pend? x.owner (.bytes (BitVec.ofNat 64 w.va) w.n)).isSome then s
    -- a whole line may travel compressed (R265)
    else s.askBytes x.owner x.t x.core x.asid w.dev w.va w.n (w.n == 256)) (s.countLines x.asid (new.map (fun w => (w.va, w.size, w.leaf))))

/-- An atomic of a command on a word of another device or of the host leaves (R276, R289). None while its stream has no room. -/
def State.sendEngAtomic (s : State) (x : EngCtx) (w : Wanted) (kind : AtomKind) (b c : Word) : Option State :=
  let va := BitVec.ofNat 64 w.va
  if w.dev ≠ 0xFFFF ∧ s.canSend x.core w.dev 1 = false then none
  else
    let (s, tag) := (s.countLines x.asid [(w.va, w.size, w.leaf)]).addPend x.owner (.atomic va)
    let s := s.dropCopies x.asid w.va 8
    some (if w.dev = 0xFFFF then { s with pcie := s.pcie ++ [.atomic tag x.asid va kind .n64 b c] }
      else s.streamOp x.core w.dev x.owner (s.jobOf x.t) 3 (.atomic tag kind .n64 va b c false false))

/-- The pages of a waiting segment are kept for it (R253). -/
def State.keepSegs (s : State) (id : ThreadId) (held : List HeldPage) : State :=
  { s with segs := s.segs.filter (fun h => !decide (h.owner = id)) ++ held.eraseDups }
/-- A command's segment holds no page any more. -/
def State.dropSegs (s : State) (id : ThreadId) : State := s.keepSegs id []

/-! ## The walk state (R250). DESIGN CHOICE (log 41): which words a command keeps there, but for word 0 of `xpand`. -/

/-- Words that every command keeps: the progress that a unit's outstanding writes will confirm, whether the command has
written another device, and the status that waits for acknowledgements. -/
def walkPending : Nat := 85
def walkWide : Nat := 86
def walkEnding : Nat := 87

def Thread.walkAt (t : Thread) (i : Nat) : Word := t.walk.getD i 0
def Thread.setWalk (t : Thread) (i : Nat) (w : Word) : Thread := { t with walk := t.walk.set i w }

/-- A word of the running command's walk state. -/
def walkGet (x : EngCtx) (i : Nat) : E Nat := do
  let s ← engState
  pure (match s.thread? x.t.id with
    | some t => (t.walkAt i).toNat
    | none => 0)
def walkPut (x : EngCtx) (i w : Nat) : E Unit := do
  let s ← engState
  engSet (s.onThread x.t.id (fun t => t.setWalk i (BitVec.ofNat 64 w)))

/-! ## The queue (R249, R250) -/

/-- The running command: the only entry, or the one pushed earlier; true for entry 1. -/
def Thread.ceHead (t : Thread) : Option (Bool × CeEntry) :=
  match t.ce0, t.ce1 with
  | some a, none => some (false, a)
  | none, some b => some (true, b)
  | some a, some b => if b.head && !a.head then some (true, b) else some (false, a)
  | none, none => none

/-- The running command's entry changed. -/
def Thread.setCeHead (t : Thread) (f : CeEntry → Option CeEntry) : Thread :=
  match t.ceHead with
  | some (false, e) => { t with ce0 := f e }
  | some (true, e) => { t with ce1 := f e }
  | none => t

/-- The running command leaves the queue; the other entry becomes the earlier. -/
def Thread.popCe (t : Thread) : Thread :=
  let t := t.setCeHead (fun _ => none)
  t.setCeHead (fun e => some { e with head := true })

/-- The mark that an operation of a command has failed (R399). -/
def engFailed : Asked := .atomic 0

/-- The failure of one of the command's outstanding writes. -/
def State.engFailure (s : State) (o : Owner) : Option RemoteFail :=
  match s.pend? o engFailed with
  | some p => (match p.answer with
    | some (.fail f) => some f
    | _ => none)
  | none => none

/-- A failed operation of an engine command is noted; the first one counts. -/
def State.noteEngFailure (s : State) (o : Owner) (f : RemoteFail) : State :=
  if (s.engFailure o).isSome then s
  else { s with stamp := s.stamp + 1, pends := s.pends ++ [⟨s.stamp, o, engFailed, s.tick, s.remEpoch, s.epoch, true, some (.fail f)⟩] }

/-- What a command writes besides its status, before it (R278, R292). -/
def finalWrites (t : Thread) (e : CeEntry) (code : Nat) : List RegWrite :=
  let good := code == 0 || code == 3
  match ceInstr e with
  | some (.gcopy _ _ _ _ n _) | some (.gfree _ _ _ _ n _) | some (.gcount _ _ _ n _) => if n = 0 then [] else [.scalar n (if good then t.walkAt 5 else 0)]
  | some (.ghash _ _ _ c _) =>
    [.vector c (if code == 0 then t.walkAt 9 ++ t.walkAt 8 ++ t.walkAt 7 ++ t.walkAt 6 |>.zeroExtend 2048 else 0)]
  | some (.mldr _ _ b c _) => [.vector c 0, .unpend b]
  | some (.mst _ _ _ c _ _ _) => [.vector c 0]
  | _ => []

/-- A command's status is at system scope when it writes another device (R205), and always for `gsend` (R292). -/
def wideCommand (t : Thread) (e : CeEntry) : Bool :=
  t.walkAt walkWide != 0 || (match ceInstr e with
    | some (.gsend ..) | some (.mst ..) => true
    | _ => false)

/-- What the device keeps for a thread's running command: its requests, its segment's pages, its ranks and its decoder. -/
def State.leaveCommand (s : State) (id : ThreadId) : State :=
  let s := (s.dropPends (.engine id)).dropSegs id
  { s with xpands := s.xpands.filter (fun p => !decide (p.1 = id)), rankCmds := s.rankCmds.filter (fun c => !decide (c.owner = id)) }

/-- The running command ends: it leaves the queue, and its registers are written, the status last (R248, R50). -/
def State.endCe (s : State) (id : ThreadId) (writes : Thread → CeEntry → List RegWrite) (code detail progress : Nat) : State :=
  match s.thread? id with
  | none => s
  | some t => match t.ceHead with
    | none => s
    | some (_, e) =>
      let t' := t.popCe
      let s := ((s.setThread t').leaveCommand id).mirrorEngines t t'
      let reg : SReg := getBits e.word 45 6
      let st := statusWord code detail progress
      s.engineWrite id (writes t e ++ [if wideCommand t e then .wideStatus reg st else .scalar reg st])

def State.finishCe (s : State) (id : ThreadId) (code detail progress : Nat) : State :=
  s.endCe id (fun t e => finalWrites t e code) code detail progress

/-- How a unit ends: the command goes on with the progress so far, ends with CODE, DETAIL and PROGRESS, or cannot proceed. -/
inductive Unit' where
  | go (progress : Nat)
  | done (code detail progress : Nat)
  | idle
  deriving DecidableEq, Repr

/-- After a unit: its writes leave; a command that ends, or a unit that is to be confirmed, waits while writes to other
devices are unacknowledged (R254, R399). -/
def State.afterUnit (x : EngCtx) (u : Unit') (e : Eng) : Option State :=
  match u with
  | .idle => none
  | u =>
    let s := e.commit x
    let id := x.t.id
    let s := (s.dropPends (.engine id)).dropSegs id
    let s := if e.out.any (fun w => w.1 != 0xFFFF) then s.onThread id (fun t => t.setWalk walkWide 1) else s
    let waits := s.unackedBy (.engine id)
    some (match u with
      | .go p =>
        if waits then s.onThread id (fun t => t.setWalk walkPending (BitVec.ofNat 64 (p + 1)))
        else s.onThread id (fun t => t.setCeHead (fun c => some { c with progress := BitVec.ofNat 48 p }))
      | .done c d p =>
        if waits then s.onThread id (fun t => t.setWalk walkEnding ((statusWord c d p) ||| (1#64 <<< 7)))
        else s.finishCe id c d p
      | .idle => s)

end Sys2Proof.Machine
end

