-- ==== Sys2Proof/Machine/Resume.lean ====
section
/-! DEFINITION. How a thread runs again: issue slots (R31, R33), the reload of its context (R50, R51, R251), the checks of
`tresume` (R333), and a barrier it was blocked at (R140, R141, R186). -/

namespace Sys2Proof.Machine

/-! ## Issue slots -/

/-- The core of a thread that runs where it is placed: none for a halted one. -/
def State.runsOn (s : State) (id : ThreadId) : Option Nat :=
  (s.thread? id).bind (fun t => if t.run == .halted then none else s.coreOf t)

/-- The lowest free issue slot of a core (R31). -/
def State.freeSlot (s : State) (core : Nat) : Option Nat :=
  (List.range 16).find? (fun i => !s.threads.any (fun t => t.slot == some i && s.coreOf t == some core))

/-- A thread takes an issue slot. DESIGN CHOICE (log 135): its 64-cycle counts of both halves begin here (R81). -/
def Thread.seatedIn (t : Thread) (n cycle : Nat) : Thread :=
  { t with run := .active, slot := some n, seatedAt := cycle, lastA := cycle, lastE := cycle }

/-- A thread runs as placement allows (R30, R151): active, resident without a free slot, or parked. -/
def State.seat (s : State) (t : Thread) : Thread :=
  match s.coreOf t with
  | none => { t with run := .parked, slot := none }
  | some c => match s.freeSlot c with
    | some n => t.seatedIn n s.cycle
    | none => { t with run := .resident, slot := none, readyAt := s.cycle }

/-! ## REP state (R115) -/

/-- A thread that continues at a PC that is no `rep` word, as no misaligned one is, has no REP state (R115). -/
def State.repCleared (s : State) (t : Thread) : Thread :=
  if t.repLeft = 0 && t.repIter = 0 then t
  else match s.fetchWord (s.coreOf t) (s.asidOf t) t.pc with
    | .ok _ w => if majorOf w = 0xF1 then t else t.clearRep
    | _ => if t.pc.toNat % 8 = 0 then t else t.clearRep

/-! ## Writes held for a context page (R50, R110) -/

/-- A thread that a posting has moved past its `uni` group: with SS it halts after the group (R338). `t` is the thread before. -/
def State.stepPosted (s : State) (t : Thread) (next : Word) : State :=
  if t.ss && t.waitsHere then
    match s.thread? t.id with
    | some t' => s.takeTrap t' t.blockPC next t.blockWord ⟨.step, 0, 0, 0, false, none⟩
    | none => s
  else s

/-- One held write lands: register writes, then what a posting moves. -/
def State.landOne (s : State) (d : Deferred) : Reach State :=
  (s.landWrites d.owner d.writes).bind (fun s => match d.posting with
    | none => .ok s
    | some (pc, n) => match s.thread? d.owner with
      | none => .ok s
      | some t => (s.editThread d.owner controlLine (fun t => { t.executed with pc := pc, uniCount := n, block := .none })).bind
          (fun s => .ok (s.stepPosted t pc)))

/-- Held writes of a list land in order while they can; those left are the rest. -/
def State.landList (s : State) : List Deferred → State × List Deferred
  | [] => (s, [])
  | d :: ds => match s.landOne d with
    | .ok s => s.landList ds
    | _ => (s, d :: ds)

/-- All engine words of a thread's control area go to memory while the area is not cached. -/
def State.mirrorAll (s : State) (t : Thread) : State :=
  if t.hasControl then s
  else match s.ctxPage t 3 with
    | .ok (s, pa) => s.putMem (pa + 0xC10) ((t.controlHigh.drop 2).flatMap bytesOfWord)
    | _ => s

/-- A halted or parked thread whose context could not be written back whole is written back as far as it can be now (R51, R308). -/
def State.saveLeft (s : State) (id : ThreadId) : State :=
  match s.thread? id with
  | some t => if t.resident != 0 && !t.waitsHere && t.run != .retired then (let (s, t) := s.saveContext t; s.setThread t) else s
  | none => s

/-- The held writes of a thread land if its pages translate. The engine words then follow into memory. -/
def State.landDeferred (s : State) (id : ThreadId) : State :=
  let mine := s.deferred.filter (fun (d : Deferred) => d.owner = id)
  if mine.isEmpty then s
  else
    let (s, left) := s.landList mine
    let s := { s with deferred := s.deferred.filter (fun (d : Deferred) => d.owner ≠ id) ++ left }
    match s.thread? id with
    | some t => if left.isEmpty then s.mirrorAll t else s
    | none => s

/-! ## Reload (R51, R251) -/

/-- The status register of a copy-engine entry. -/
def ceReg (e : CeEntry) : SReg := getBits e.word 45 6

/-- An entry that the device held and the context no longer does was cancelled by a debugger (R251). -/
def ceCancelled (old new : Option CeEntry) : List CeEntry :=
  match old, new with
  | some e, none => [e]
  | _, _ => []

/-- A copy-engine command that is no longer in its queue ends: what the device kept for it goes, and its result registers are written,
then its status (R251, R50). -/
def State.endCommand (s : State) (t : Thread) (e : CeEntry) (detail : Nat) : State :=
  let st := statusWord 2 detail 0
  let s := if e.started then s.leaveCommand t.id else s
  s.engineWrite t.id (finalWrites t e 2 ++ [if wideCommand t e then .wideStatus (ceReg e) st else .scalar (ceReg e) st])

/-- Copy-engine commands of a thread whose control area has just been read: those that a debugger has cancelled, and one whose
walk state fails its CRC, end with 2 BROKEN (R251). `old` is the thread as the device held it. -/
def State.checkEngines (s : State) (old : Thread) (crc : Word) : State :=
  match s.thread? old.id with
  | none => s
  | some u =>
    let started (e : Option CeEntry) : Bool := match e with
      | some e => e.started
      | none => false
    let broken := (started u.ce0 || started u.ce1) && crc != walkCrc u.walk
    let drop (e : Option CeEntry) : Option CeEntry := if broken && started e then none else e
    let bad := (if broken && started u.ce0 then u.ce0.toList else []) ++ (if broken && started u.ce1 then u.ce1.toList else [])
    let s := s.setThread { u with ce0 := drop u.ce0, ce1 := drop u.ce1 }
    let s := (ceCancelled old.ce0 u.ce0 ++ ceCancelled old.ce1 u.ce1).foldl (fun s e => s.endCommand old e 0xFD) s
    bad.foldl (fun s e => s.endCommand u e 0xFE) s

/-- A control area that is to be read holds an uncorrectable error, or still waits for the host: the thread halts with DATAERR, detail
5, whose notice goes to the host (R340). -/
def State.damagedArea (s : State) (t : Thread) (off : Nat) : State :=
  s.haltWith t t.pc t.pc (s.wordAtPC t) { cause := .dataErr, detail := 5, addr := t.cbase + BitVec.ofNat 64 off }

/-- A thread's context when it runs again or its gang is placed: what could not be written back is written back now, and the
control area comes from memory (R51). With `keep` false it returns there, for a thread that stays halted. A damaged area stops one
that would run (R340). -/
def State.reload (s : State) (id : ThreadId) (keep : Bool) : State :=
  let s := (s.landDeferred id).saveLeft id
  match s.thread? id with
  | none => s
  | some t =>
    if t.hasControl then s
    else if t.damaged ≠ 0 then
      (if t.run == .halted then s else s.damagedArea { t with resident := t.resident ||| controlLine } 0x3000)
    else match s.badLine t controlLine with
    | some (l, off) => if keep then (match s.loadLine t l with
        | .ok (s, t) => s.damagedArea t off
        | _ => s) else s
    | none => match s.loadLines t controlLine, s.ctxPage t 3 with
      | .ok (s, u), .ok (_, pa) =>
        let s := (s.setThread u).checkEngines t (s.readWordPA (pa + 0xFF8))
        if keep then s else s.saveLeft id
      | _, _ => s

/-! ## The checks of a resumption (R333) -/

/-- A word of the control area as the thread will take it. -/
def State.ctxWord (s : State) (t : Thread) (off : Nat) : Word := wordOfBytes (s.ctxControl t off 8)
/-- The same word in memory, where the area is not cached. -/
def State.savedWord (s : State) (t : Thread) (off : Nat) : Word :=
  if t.hasControl then s.ctxWord t off
  else match s.ctxPage t 3 with
    | .ok (s, pa) => s.readWordPA (pa + (off - 0x3000))
    | _ => s.ctxWord t off

/-- The view offsets meet R46. -/
def viewsOk (vs vk vv : Nat) : Bool :=
  vs % 8 == 0 && vk % 32 == 0 && vv % 256 == 0 && decide (vs + 512 ≤ 0x3000 ∧ vk + 256 ≤ 0x3000 ∧ vv + 8192 ≤ 0x3000)

/-- `tresume` may resume the thread. A context that does not translate is met by R52 when the thread runs. -/
def State.resumeOk (s : State) (t : Thread) : Bool :=
  let w := s.savedWord t
  t.damaged == 0 && (w 0x3000).toNat % 8 == 0 && viewsOk (w 0x3010).toNat (w 0x3018).toNat (w 0x3020).toNat
    && controlReserved.all (fun r => w r.1 &&& r.2 == 0) && (w 0x32C0).toNat % 8 == 0

/-- What is wrong with the copy-engine entries (R333): DETAIL of ENGINE. -/
def Thread.engineFault (t : Thread) : Option Nat :=
  let foreign (e : Option CeEntry) : Bool := match e with
    | some e => (match decodeWord e.word with
        | .ok i => !(match i.major with
            | some m => m == 0x88 || m == 0x90 || (match i with | .mldr .. | .mst .. => true | _ => false)
            | none => false)
        | .error _ => true)
    | none => false
  if foreign t.ce0 || foreign t.ce1 then some 1
  else match t.ce0, t.ce1 with
    | some a, some b => if a.head = b.head then some 2 else none
    | _, _ => none

/-! ## Barriers (R140, R186, R333) -/

/-- The barrier a thread is blocked at has completed the phase it awaits. -/
def State.phaseOver (s : State) (t : Thread) : Bool :=
  match t.block with
  | .bar => s.barPassed t
  | .gbar => (match s.gangOf t with
      | some g => phasePassed g.phase t.savedPhase32
      | none => true)
  | .dbar =>
    if t.savedLevel = 0 then true
    else if t.savedLevel = 1 then (match s.gangOf t with
      | some g => phasePassed g.phase t.savedPhase32
      | none => true)
    else phasePassed (s.domain t.savedLevel (s.domainKey t t.savedLevel)).phase t.savedPhase32
  | _ => false

/-- A thread that runs again at a barrier goes on when its phase is over, arrives at the phase that it awaited and that is
now open (R139), or waits again. -/
def State.rewait (s : State) (id : ThreadId) : State :=
  match s.thread? id with
  | none => s
  | some t =>
    if s.phaseOver t then s.unblock id
    else
      let l := t.savedLevel
      let key := s.domainKey t l
      let d := s.domain l key
      if t.block == .dbar && t.nextPhase && d.phase == t.savedPhase32 && (!d.open' || d.members.contains t.id.task) then
        ((s.setDomain (s.arriveAt d id)).onThread id (fun t => { t with nextPhase := false })).domainsCheck
      else s

/-- A parked gang becomes ready to place again, if it is not (R35, R83). -/
def State.readyGang (s : State) (task index : Nat) : State :=
  match s.gang? task index, s.task? task with
  | some g, some k =>
    if g.cluster.isNone && !g.ready && g.imaged then
      s.setGang { g with ready := true, readyAt := s.tick, ageFrom := s.tick, prio := k.prio }
    else s
  | _, _ => s

/-- A thread that runs again while its gang is not placed lies in its context block, with the new RUN (R30, R151). -/
def State.settleParked (s : State) (id : ThreadId) : State :=
  match s.thread? id with
  | some t => if t.run == .parked then (let (s, t) := s.saveContext t; s.setThread t) else s
  | none => s

/-- BLOCK names a barrier (R141). -/
def Thread.atBarrier (t : Thread) : Bool := t.block == .bar || t.block == .gbar || t.block == .dbar

/-- A thread at its resumption (R333, R337): BLOCK and the saved wait stay where it waits at a barrier; a prefixed `bar` whose
BLOCK a debugger has cleared is past its barrier. `was` is the block at the halt. -/
def Thread.resumedAs (t : Thread) (was : Block) (cycle : Nat) : Thread :=
  let keeps := t.atBarrier
  { t with
    block := if keeps then t.block else .none
    saved := if keeps then t.saved else List.replicate 4 0
    passed := t.pc == t.blockPC && ((was == .bar && !keeps) || t.passed)
    since := cycle, deadline := none, zeroed := 0, resumed := true
    -- NPEND is cleared at once (R331)
    trapRec := { t.trapRec with info := t.trapRec.info &&& ~~~(0x1000#64) } }

/-- Lines leave the register cache of a thread's core while it holds more than it has (R2, R51). -/
def State.trimCacheOf (s : State) (t : Thread) : State := match s.coreOf t with
  | some core => s.trimCache core
  | none => s

/-- A halted thread, or one parked by a context fault, runs again (R151, R333, R338), and makes its parked gang ready (R35). One whose
control area still does not translate is parked again (R52), but for one that waits at a barrier: it issues nothing, and waits on
with what its area last held, DESIGN CHOICE (log 145). -/
def State.resume (s : State) (id : ThreadId) : State :=
  match s.thread? id with
  | none => s
  | some t0 =>
    let s := ((s.withdrawNotice id).reload id true).writeIdentity id
    match s.thread? id with
    | none => s
    | some t =>
      if t.damaged ≠ 0 then s
      else if s.linesFail t controlLine && !t.atBarrier then s.contextFault t (s.wordAtPC t)
      else
        let s := s.trimCacheOf t
        let t := ((s.thread? id).getD t).resumedAs t0.block s.cycle
        let s := s.setThread (s.seat (s.repCleared t))
        match s.thread? id, t.engineFault with
        | some t, some d => s.haltWith t t.pc t.pc (s.wordAtPC t) { cause := .engine, detail := d }
        | _, _ => ((s.rewait id).settleParked id).readyGang id.task id.gang

end Sys2Proof.Machine
end

