-- ==== Sys2Proof/Machine/Fetch.lean ====
section
/-! DEFINITION. What stands before `exec` in a step: fetching a prefix group (R103, R106, R107), instruction breakpoints
(R335 to R337), and the thread that a core half issues (R80, R81). -/

namespace Sys2Proof

/-- The access half takes majors 0x40 to 0x42, 0x50, 0x51, 0x80, 0x88, 0x90 and 0xA0, with their prefixes (R80). -/
def Instr.accessHalf : Instr → Bool
  | .uni i => i.accessHalf
  | .rep _ _ _ _ _ i => i.accessHalf
  | .imx _ i => i.accessHalf
  | i => match i.major with
    | some m => (0x40 ≤ m && m ≤ 0x42) || m == 0x50 || m == 0x51 || m == 0x80 || m == 0x88 || m == 0x90 || m == 0xA0
    | none => false

end Sys2Proof

namespace Sys2Proof.Machine

/-! ## Fetching groups -/

/-- A group as fetched and decoded. -/
inductive Fetched where
  | ok (s : State) (i : Instr)
  | trap (s : State) (i : TrapInfo)
  | wait

/-- Words one after another until they make a group or cannot (R106, R107): at most three. -/
def State.fetchFrom (core : Option Nat) (asid : Nat) : Nat → Word → List Word → State → Fetched
  | 0, _, _, s => .trap s { cause := .illegal, detail := 11 }
  | fuel + 1, va, got, s =>
    match s.fetchWord core asid va with
    | .wait => .wait
    | .trap s i => .trap s i
    | .ok s w =>
      match decodeGroup (got ++ [w]) with
      | .ok i => .ok s i
      | .bad e => .trap s { cause := .illegal, detail := e.detail }
      | .more => State.fetchFrom core asid fuel (va + 8) (got ++ [w]) s

/-- The group at a thread's PC. -/
def State.fetch (s : State) (t : Thread) : Fetched := State.fetchFrom (s.coreOf t) (s.asidOf t) 3 t.pc [] s

/-! ## Breakpoints (R335, R336) -/

/-- A breakpoint entry matches a PC: enabled, no reserved bit, its own PC a multiple of 8. -/
def DebugEntry.breaksAt (e : DebugEntry) (pc : Word) : Bool := e.ctl == 1 && e.addr == pc && e.addr.toNat % 8 == 0

/-- The first breakpoint that matches at the thread's PC, unless the group is exempt (R337) or is a `rep` group between two
iterations (R106). -/
def Thread.breakHit (t : Thread) : Option Nat :=
  if t.skipsBreaks || (t.repLeft != 0 && !t.resumed) then none
  else (List.range t.breaks.length).find? (fun n => match t.breaks[n]? with
    | some e => e.breaksAt t.pc
    | none => false)

/-! ## Before a group runs -/

/-- What a step does with the thread it issues. -/
inductive Ready where
  /-- the group that runs, and the state in which it runs -/
  | run (s : State) (i : Instr)
  /-- nothing more in this step -/
  | stop (s : State)

/-- The writes that wait for a page of the thread's context land before it runs; a thread whose page still does not
translate takes a context fault, and one whose page is under migration waits (R50, R52, R320). One that a posting has halted after its
group runs nothing more (R338). -/
def State.landFirst (s : State) (t : Thread) : State × Option Thread :=
  let waiting (s : State) : Bool := s.deferred.any (fun (d : Deferred) => decide (d.owner = t.id))
  if !waiting s then (s, some t)
  else
    let s := s.landDeferred t.id
    let t := (s.thread? t.id).getD t
    if !waiting s then (s, if t.waitsHere then some t else none)
    else (if s.linesFail t allLines then s.contextFault t (s.wordAtPC t) else s, none)

/-- A thread with no write waiting: the context lines of the control area, a breakpoint, and the fetch (R326 items 1, 2). -/
def State.prepareLanded (s : State) (t : Thread) : Ready :=
  let g := if t.hasControl then Gate.go s t else s.bringIn t controlLine (s.wordAtPC t)
  match g with
  | .stall s b => .stop (if t.isBlocked then s else s.setThread (t.stalled b s.cycle))
  | .ctxFault s => .stop s
  | .trap s t i => .stop (s.takeTrap t t.pc t.pc (s.wordAtPC t) i)
  | .go s t =>
    let t := s.repCleared t
    match t.breakHit with
    | some n => .stop (s.takeTrap t t.pc t.pc (s.wordAtPC t) { cause := .brk, detail := 1, which := some n })
    | none =>
      match s.fetch t with
      | .wait => .stop s
      | .trap s i => .stop (s.takeTrap t t.pc t.pc (s.wordAtPC t) i)
      | .ok s i => .run (s.setThread t) i

/-- The SC fence after a store or an atomic to another device still waits (R198). -/
def State.fenceWaits (s : State) (t : Thread) : Bool := t.fencing && !s.mayRelease t true .sys

/-- What stands before a group. An SC fence that has waited is an acquire as well (R183, R198). -/
def State.prepare (s : State) (t : Thread) : Ready :=
  if s.fenceWaits t then .stop s
  else match (s.acquired t.fencing .sys).landFirst { t with fencing := false } with
    | (s, some t) => s.prepareLanded t
    | (s, none) => .stop s

/-! ## Who issues (R80, R81) -/

/-- A thread may be issued: active, and not waiting for a release that another agent brings. -/
def Thread.mayIssue (t : Thread) : Bool :=
  t.run == .active && (match t.block with
    | .gbar | .dbar | .bar | .ctxFault => false
    | _ => true)

/-- A thread stalls at the open `uni` of its gang: arrived, with nothing of its own left to execute (R110). -/
def Gang.uniStalls (g : Gang) (t : Thread) : Bool :=
  t.block == .uni && g.uniOpen && g.uniArrived.getLsbD t.id.rank && g.uniPC == t.pc && g.uniN == t.uniCount + 1
    && !(g.uniExec.toNat == t.id.rank && !g.uniDone)

/-- A thread stalled at a `uni` posting. -/
def State.uniStalled (s : State) (t : Thread) : Bool := match s.gangOf t with
  | some g => g.uniStalls t
  | none => false

/-- A thread's next group cannot issue yet: data that it has asked for have not come, an SC fence waits, or a register that it
names is pending. -/
def State.groupHeld (s : State) (t : Thread) : Bool :=
  s.pends.any (fun p => decide (p.owner = .thread t.id) && p.answer.isNone) || s.fenceWaits t
    || (t.pending != 0 && (match s.fetch t with
      | .ok _ i => (i.core.reads ++ i.core.writes).any t.isPending
      | _ => false))

/-- A thread stalls (R32, R33): at a `uni` posting, on lines of its context, at a full command queue, or on its next group. -/
def State.isStalled (s : State) (t : Thread) : Bool :=
  match t.block with
  | .uni => s.uniStalled t
  | .regMiss => s.linesHeldUp t allLines
  | .queue => (t.ce0.isSome && t.ce1.isSome) || (t.mx0.isSome && t.mx1.isSome)
  | .none => s.groupHeld t
  | _ => false

/-- A resident thread that is ready and waits for a slot (R33). -/
def State.readyResident (s : State) (t : Thread) : Bool :=
  t.run == .resident && !t.isBlocked && t.block != .ctxFault && !s.isStalled t

/-- A thread may be issued now: its gang is placed, no `uni` holds it, and, while the gang is being parked, only to end an
atomic that is under way (R82). -/
def State.mayIssue (s : State) (t : Thread) : Bool :=
  t.mayIssue && (match s.gangOf t with
    | some g => g.cluster.isSome && (g.parking.isNone || s.midAtomic t.id) && !g.uniStalls t
    | none => false)

/-- The half of a thread's next group; a group that cannot be fetched traps in the execute half. -/
def State.wantsAccess (s : State) (t : Thread) : Bool :=
  match s.fetch t with
  | .ok _ i => i.accessHalf
  | _ => false

/-- The issue place of a thread: its core and half, or none while it is not placed. -/
def State.placeOf (s : State) (t : Thread) : Option Nat :=
  (s.coreOf t).map (fun c => 2 * c + (if s.wantsAccess t then 0 else 1))

/-- Distance from a rotation pointer to a slot. -/
def slotAfter (pointer slot : Nat) : Nat := (slot + 16 - pointer % 16) % 16

/-- The better of two candidates of one half by R81: one that has not issued there for 64 cycles first, the longest waiting
and the lowest slot among those; otherwise the first after the rotation pointer. -/
def better (s : State) (access : Bool) (pointer : Nat) (a b : Thread) : Bool :=
  let age (t : Thread) : Nat := s.cycle - (if access then t.lastA else t.lastE)
  let slot (t : Thread) : Nat := t.slot.getD 0
  if 64 ≤ age a then
    if 64 ≤ age b then age b < age a || (age a == age b && slot a < slot b) else true
  else if 64 ≤ age b then false
  else slotAfter pointer (slot a) < slotAfter pointer (slot b)

/-- The first of a list by a strict order. -/
def firstBy {α : Type} (lt : α → α → Bool) : List α → Option α
  | [] => none
  | a :: as => match firstBy lt as with
    | none => some a
    | some b => if lt b a then some b else some a

/-- The thread that issues next in the default order, and its place: the first core half after the last one that has a
ready thread, and in it the thread of R81. -/
def State.pick (s : State) : Option (Nat × Thread) :=
  let cand := s.threads.filterMap (fun t =>
    if t.notBefore ≤ s.cycle && s.mayIssue t then (s.placeOf t).map (fun p => (p, t)) else none)
  let later := cand.filter (fun c => s.turn < c.1)
  let pool := if later.isEmpty then cand else later
  match firstBy (fun (a b : Nat × Thread) => decide (a.1 < b.1)) pool with
  | none => none
  | some (p, _) =>
    let k := s.core (p / 2)
    let access := p % 2 == 0
    (firstBy (better s access (if access then k.turnA else k.turnE)) ((pool.filter (fun c => c.1 == p)).map (·.2))).map (fun t => (p, t))

/-- The state in which the picked thread issues: a cycle passes when the rotation over core halves begins again. -/
def State.turnTo (s : State) (p : Nat) : State := { s with turn := p, cycle := if p ≤ s.turn then s.cycle + 1 else s.cycle }

/-- A thread that an attempt has left where it was is passed over for a tick. -/
def State.noteStall (s : State) (before : Thread) : State :=
  s.onThread before.id (fun t =>
    if t.trapRec.count == before.trapRec.count then { t with notBefore := s.cycle + Config.cyclesPerTick } else t)

/-- Issue counts and rotation pointers after a group of a thread that stood at `before` (R81, R356). A group that must be
tried again has not issued; an iteration of a `rep` has, and the group counts when its last one has (R114). -/
def State.noteIssue (s : State) (before : Thread) (i : Instr) : State :=
  match s.thread? before.id with
  | none => s
  | some t =>
    let iterated := t.pc == before.pc && t.repLeft != 0 && t.repIter != before.repIter
    let stays := t.pc == before.pc && t.run == .active && t.trapRec.count == before.trapRec.count && i.major != some 0x60
    match !stays || iterated, s.coreOf before with
    | true, some c =>
      let k := s.core c
      let next := (before.slot.getD 0 + 1) % 16
      let one := if iterated then 0 else 1
      let t := { t with lately := t.boxesIn (before.granulesOf i.core.reads &&& before.granulesOf i.core.writes) }
      if i.accessHalf then
        (s.setThread { t with lastA := s.cycle }).setCore { k with turnA := next, groupsA := k.groupsA + one }
      else (s.setThread { t with lastE := s.cycle }).setCore { k with turnE := next, groupsE := k.groupsE + one }
    | false, _ => s.noteStall before
    | true, none => s

end Sys2Proof.Machine
end

