-- ==== Sys2Proof/Machine/Atomic.lean ====
section
/-! DEFINITION. Atomics, major 0x50 (R180 to R182), on this device, on another (R371) and on the host (R373). -/

namespace Sys2Proof.Machine

/-- The new value of an atomic (R181). -/
def atomicNew (kind : AtomKind) (ty : ElemType) (m b c : Nat) : Nat :=
  let w := ty.width
  match kind with
  | .add => (m + b) % 2 ^ w
  | .and => m &&& b
  | .or => m ||| b
  | .xor => m ^^^ b
  | .min => if signedNat b w < signedNat m w then b else m
  | .max => if signedNat m w < signedNat b w then b else m
  | .minn => if b < m then b else m
  | .maxn => if m < b then b else m
  | .swp => b
  | .cas => if m = c then b else m
  | .inc => if b ≤ m then 0 else m + 1
  | .dec => if m = 0 ∨ b < m then b else m - 1
  | .fadd => (fpAdd ty.fmt .rne 0 m b).1
  | .fmin => (fpMin ty.fmt m b).1
  | .fmax => (fpMax ty.fmt m b).1

/-- What S(D) receives (R181): the old value, sign-extended for TYPE 2 and 3. -/
def oldResult (ty : ElemType) (m : Nat) : Word := if ty.signed then BitVec.ofInt 64 (signedNat m ty.width) else BitVec.ofNat 64 m

/-- The end of an atomic on this device: the result, unless NR is 1, and the acquire. -/
def atomicDone (s : State) (t : Thread) (o : AtomOp) (m : Nat) : Res :=
  .ok (s.acquired (ordAcquires o.ord) o.scope) (if o.nr then t else t.setS o.dst (oldResult o.ty m))

/-- Host memory serves FetchAdd, Swap and CAS of unsigned words (R373). -/
def hostServes (kind : AtomKind) (ty : ElemType) : Bool :=
  (kind == .add || kind == .swp || kind == .cas) && (ty == .n32 || ty == .n64)

/-- A failure in a core's host-path error word (R373). -/
def State.hostFail (s : State) (core cause detail : Nat) : State :=
  let k := s.core core
  s.setCore { k with
    hostFails := min 65535 (k.hostFails + 1)
    hostDetail := if k.hostCode = 0 then detail else k.hostDetail
    hostCode := if k.hostCode = 0 then cause else k.hostCode }

/-- An atomic leaves for another device or the host. -/
def State.sendAtomic (s : State) (t : Thread) (core asid : Nat) (dev : BitVec 16) (kind : AtomKind) (o : AtomOp) (va b c : Word) (tag : Nat) : State :=
  if dev = 0xFFFF then { s with pcie := s.pcie ++ [.atomic tag asid va kind o.ty b c] }
  else s.streamOp core dev (.thread t.id) (s.jobOf t) 3 (.atomic tag kind o.ty va b c o.nr (ordReleases o.ord))

/-- The SC fence after a no-return atomic on another device waits for the atomic's own acknowledgement (R180, R183, R198). -/
def Thread.fenceAfter (t : Thread) (o : AtomOp) : Thread := if o.ord == .sc && wideScope o.scope then { t with fencing := true } else t

/-- An atomic on a page of another device or of the host (R369, R372, R373). Nothing is refused in advance: a refusal comes with the
answer. -/
def remoteAtomic (s : State) (t : Thread) (kind : AtomKind) (o : AtomOp) (dev : BitVec 16) (size : Nat) (leaf : Word) (va b c : Word) : Res :=
  let asid := s.asidOf t
  let core := (s.coreOf t).getD 0
  let owner := Owner.thread t.id
  let trap (s : State) (f : RemoteFail) : Res := .trap s (remoteTrap f 3 va.toNat 0)
  match s.unreachable dev with
  | some d => trap s ⟨.remoteUnsup, d⟩
  | none =>
    if o.nr then
      if dev ≠ 0xFFFF ∧ s.canSend core dev 1 = false then .retry s .none
      else
        let s := s.countRequest asid va.toNat size leaf
        let (s, tag) := if dev = 0xFFFF then s.addPend (.hostNr core t.id) (.atomic va) else (s, 0)
        let s := (s.sendAtomic t core asid dev kind o va b c tag).dropCopies asid va.toNat o.ty.bytes
        atomicDone s ((if dev = 0xFFFF then { t with wroteHost := true } else t).fenceAfter o) o 0
    else match s.pend? owner (.atomic va) with
      | none =>
        if dev ≠ 0xFFFF ∧ s.canSend core dev 1 = false then .retry s .none
        else
          let s := s.countRequest asid va.toNat size leaf
          let (s, tag) := s.addPend owner (.atomic va)
          .retry ((s.sendAtomic t core asid dev kind o va b c tag).dropCopies asid va.toNat o.ty.bytes) .none
      | some p =>
        match p.answer with
        | none => .retry s .none
        | some (.old v) => atomicDone (s.dropPends owner) t o (v.toNat % 2 ^ o.ty.width)
        | some (.data bs) => atomicDone (s.dropPends owner) t o (natOfBytes bs % 2 ^ o.ty.width)
        | some (.fail f) => trap (s.dropPends owner) f

/-- One atomic (R180 to R182): checked as R172 gives, performed at the line's home or at the scratchpad. -/
def atomicOp (kind : AtomKind) (o : AtomOp) (creg : SReg) : Body := fun _ s t =>
  let n := o.ty.bytes
  let b := (t.s o.src).toNat % 2 ^ o.ty.width
  let c := (t.s creg).toNat % 2 ^ o.ty.width
  withElems s t .atomic o.space n [(0, (t.s o.addr).toNat)] (fun _ => some ((t.s o.src).toNat, 32)) (fun s es =>
    match es with
    | [] => .ok s t
    | e :: _ =>
      if !s.mayRelease t (ordReleases o.ord) o.scope then .retry (s.flushLast (.thread t.id)) .none
      else if (s.firstBad t n es).isSome then let (s, i) := s.elemErr t n e; .trap s i
      else match e.place with
        | .hbm pa leaf =>
          let via := viaOf (s.asidOf t) e.addr leaf o.evict
          let s := (s.corrected pa n).atHome pa (localAtomicRank ((s.coreOf t).getD 0))
          let m := natOfBytes (s.readVia via pa n)
          atomicDone (s.storeTask (s.asidOf t) t via pa (bytesOfNat n (atomicNew kind o.ty m b c)) none) t o m
        | .pad key =>
          let m := natOfBytes (s.padRead t key n)
          atomicDone (s.storePad t key (bytesOfNat n (atomicNew kind o.ty m b c)) (localAtomicRank ((s.coreOf t).getD 0))) t o m
        | .peer dev size leaf => remoteAtomic s t kind o dev size leaf (t.s o.addr) (BitVec.ofNat 64 b) (BitVec.ofNat 64 c)
        | .ctx _ => .trap s { cause := .illegal, detail := 7 })

/-! ## Major 0x50 (R181) -/

/-- m + b -/
def bodyAadd (o : AtomOp) : Body := atomicOp .add o 0
def execAadd (o : AtomOp) (s : State) : Host.Outcome State Fault Refusal :=
  issue (.aadd o) (bodyAadd o) s

/-- m AND b -/
def bodyAand (o : AtomOp) : Body := atomicOp .and o 0
def execAand (o : AtomOp) (s : State) : Host.Outcome State Fault Refusal :=
  issue (.aand o) (bodyAand o) s

/-- m OR b -/
def bodyAor (o : AtomOp) : Body := atomicOp .or o 0
def execAor (o : AtomOp) (s : State) : Host.Outcome State Fault Refusal :=
  issue (.aor o) (bodyAor o) s

/-- m XOR b -/
def bodyAxor (o : AtomOp) : Body := atomicOp .xor o 0
def execAxor (o : AtomOp) (s : State) : Host.Outcome State Fault Refusal :=
  issue (.axor o) (bodyAxor o) s

/-- Signed lesser -/
def bodyAmin (o : AtomOp) : Body := atomicOp .min o 0
def execAmin (o : AtomOp) (s : State) : Host.Outcome State Fault Refusal :=
  issue (.amin o) (bodyAmin o) s

/-- Signed greater -/
def bodyAmax (o : AtomOp) : Body := atomicOp .max o 0
def execAmax (o : AtomOp) (s : State) : Host.Outcome State Fault Refusal :=
  issue (.amax o) (bodyAmax o) s

/-- Unsigned lesser -/
def bodyAminn (o : AtomOp) : Body := atomicOp .minn o 0
def execAminn (o : AtomOp) (s : State) : Host.Outcome State Fault Refusal :=
  issue (.aminn o) (bodyAminn o) s

/-- Unsigned greater -/
def bodyAmaxn (o : AtomOp) : Body := atomicOp .maxn o 0
def execAmaxn (o : AtomOp) (s : State) : Host.Outcome State Fault Refusal :=
  issue (.amaxn o) (bodyAmaxn o) s

/-- b -/
def bodyAswp (o : AtomOp) : Body := atomicOp .swp o 0
def execAswp (o : AtomOp) (s : State) : Host.Outcome State Fault Refusal :=
  issue (.aswp o) (bodyAswp o) s

/-- b if m = c, else m -/
def bodyAcas (o : AtomOp) (c : SReg) : Body := atomicOp .cas o c
def execAcas (o : AtomOp) (c : SReg) (s : State) : Host.Outcome State Fault Refusal :=
  issue (.acas o c) (bodyAcas o c) s

/-- 0 if m ≥ b, else m + 1 -/
def bodyAinc (o : AtomOp) : Body := atomicOp .inc o 0
def execAinc (o : AtomOp) (s : State) : Host.Outcome State Fault Refusal :=
  issue (.ainc o) (bodyAinc o) s

/-- b if m = 0 or m > b, else m - 1 -/
def bodyAdec (o : AtomOp) : Body := atomicOp .dec o 0
def execAdec (o : AtomOp) (s : State) : Host.Outcome State Fault Refusal :=
  issue (.adec o) (bodyAdec o) s

/-- m + b, rounded to nearest even; no FLAGS -/
def bodyAfadd (o : AtomOp) : Body := atomicOp .fadd o 0
def execAfadd (o : AtomOp) (s : State) : Host.Outcome State Fault Refusal :=
  issue (.afadd o) (bodyAfadd o) s

/-- The lesser, as `vfmin` -/
def bodyAfmin (o : AtomOp) : Body := atomicOp .fmin o 0
def execAfmin (o : AtomOp) (s : State) : Host.Outcome State Fault Refusal :=
  issue (.afmin o) (bodyAfmin o) s

/-- The greater, as `vfmax` -/
def bodyAfmax (o : AtomOp) : Body := atomicOp .fmax o 0
def execAfmax (o : AtomOp) (s : State) : Host.Outcome State Fault Refusal :=
  issue (.afmax o) (bodyAfmax o) s

end Sys2Proof.Machine
end

