-- ==== Sys2Proof/Machine/Copy.lean ====
section
/-! DEFINITION. The copy instructions of major 0x88 (R252 to R263): what a push captures, and the units of `cpy`, `cpy2d`,
`cfill`, `cmcast` and `cpyc`. -/

namespace Sys2Proof.Machine

/-! ## Pushes (R249, R256 to R263) -/

/-- n64 lane `i` of a vector register. -/
def Thread.lane64 (t : Thread) (n : VReg) (i : Nat) : Word := getBits (t.v n) (64 * i) 64


/-- Pushes a linear copy (R256): S(A), S(B) and S(C) are captured -/
def bodyCpy (d a b c : SReg) (dsp ssp : Space) (evict : BitVec 3) (f : Bool) : Body := fun _ s t => pushCe (.cpy d a b c dsp ssp evict f) [t.s a, t.s b, t.s c] [.s d] s t
def execCpy (d a b c : SReg) (dsp ssp : Space) (evict : BitVec 3) (f : Bool) (s : State) : Host.Outcome State Fault Refusal :=
  issue (.cpy d a b c dsp ssp evict f) (bodyCpy d a b c dsp ssp evict f) s

/-- Pushes a copy of rows (R257): S(A), S(B) and n64 lanes 0 to 3 of V(C) are captured -/
def bodyCpy2d (d a b : SReg) (c : VReg) (dsp ssp : Space) (evict : BitVec 3) (f : Bool) : Body := fun _ s t => pushCe (.cpy2d d a b c dsp ssp evict f) [t.s a, t.s b, t.lane64 c 0, t.lane64 c 1, t.lane64 c 2, t.lane64 c 3] [.s d] s t
def execCpy2d (d a b : SReg) (c : VReg) (dsp ssp : Space) (evict : BitVec 3) (f : Bool) (s : State) : Host.Outcome State Fault Refusal :=
  issue (.cpy2d d a b c dsp ssp evict f) (bodyCpy2d d a b c dsp ssp evict f) s

/-- Pushes a chain of transfer records (R261) -/
def bodyCpyc (d a : SReg) (limit : BitVec 16) : Body := fun _ s t => pushCe (.cpyc d a limit) [t.s a] [.s d] s t
def execCpyc (d a : SReg) (limit : BitVec 16) (s : State) : Host.Outcome State Fault Refusal :=
  issue (.cpyc d a limit) (bodyCpyc d a limit) s

/-- Pushes a multicast to scratchpads (R263): S(A) and n64 lanes 0 to 4 of V(B) are captured -/
def bodyCmcast (d a : SReg) (b : VReg) (mask : BitVec 8) (evict : BitVec 3) : Body := fun _ s t => pushCe (.cmcast d a b mask evict) [t.s a, t.lane64 b 0, t.lane64 b 1, t.lane64 b 2, t.lane64 b 3, t.lane64 b 4] [.s d] s t
def execCmcast (d a : SReg) (b : VReg) (mask : BitVec 8) (evict : BitVec 3) (s : State) : Host.Outcome State Fault Refusal :=
  issue (.cmcast d a b mask evict) (bodyCmcast d a b mask evict) s

/-- Pushes a fill (R258) -/
def bodyCfill (d a b c : SReg) (dsp : Space) (width : FillWidth) (evict : BitVec 3) (f : Bool) : Body := fun _ s t => pushCe (.cfill d a b c dsp width evict f) [t.s a, t.s b, t.s c] [.s d] s t
def execCfill (d a b c : SReg) (dsp : Space) (width : FillWidth) (evict : BitVec 3) (f : Bool) (s : State) : Host.Outcome State Fault Refusal :=
  issue (.cfill d a b c dsp width evict f) (bodyCfill d a b c dsp width evict f) s


/-! ## Linear copies (R252 to R258) -/

/-- A copy of rows; `cpy` has one row. -/
structure Copy where
  dsp : Space
  ssp : Space
  dst : Nat
  src : Nat
  dstride : Int
  sstride : Int
  row : Nat
  rows : Nat
  flush : Bool
  deriving DecidableEq, Repr

/-- A failure caught: a wait passes on. -/
def engTry {α : Type} (m : E α) : E (Except (Nat × Nat) α) := fun e =>
  match m e with
  | .ok a e' => .ok (.ok a) e'
  | .error (.fail c d) e' => .ok (.error (c, d)) e'
  | .error w e' => .error w e'

/-- The greatest length of R252. -/
def maxLength : Nat := 2 ^ 48 - 1

def Copy.total (c : Copy) : Nat := c.row * c.rows

/-- The lowest and highest byte, the latter excluded, that rows touch. -/
def rowBounds (base : Int) (stride : Int) (rows row : Nat) : Int × Int :=
  let last := base + (rows - 1 : Nat) * stride
  (min base last, max base last + row)

/-- The scratchpad offset that an address names, as the cluster window numbers it (R255). -/
def padKey (home : Nat) (space : Space) (a : Int) : Int :=
  match space with
  | .sp => (home * Config.coreSpan : Nat) + a
  | _ => a

/-- Every row of a scratchpad side lies in an allocation of the gang (R252, R60). -/
def State.padRowsOk (s : State) (t : Thread) (space : Space) (base : Nat) (stride : Int) (rows row : Nat) : Bool :=
  match space with
  | .glob | .cx => true
  | .sp => let (lo, hi) := rowBounds base stride rows row; decide (0 ≤ lo ∧ hi ≤ s.padBytes t)
  | .cw =>
    if stride = 0 ∨ rows ≤ 1 then s.inWindow t base row
    else decide (rows ≤ 2 ^ 23) && (List.range rows).all (fun r =>
      let a := (base : Int) + r * stride
      decide (0 ≤ a) && s.inWindow t a.toNat row)

/-- The two sides overlap (R255), judged on their bounding ranges (R257). -/
def Copy.overlaps (c : Copy) (home : Nat) : Bool :=
  let (slo, shi) := rowBounds (padKey home c.ssp c.src) c.sstride c.rows c.row
  let (dlo, dhi) := rowBounds (padKey home c.dsp c.dst) c.dstride c.rows c.row
  (c.ssp == .glob) == (c.dsp == .glob) && decide (slo < dhi ∧ dlo < shi)

/-- The checks before any byte moves (R252), in the order of its table; DEDUCED (log 42). A copy of no bytes names none. -/
def Copy.refusal (c : Copy) (s : State) (t : Thread) : Option (Nat × Nat) :=
  if c.dsp = .cx ∨ c.ssp = .cx then some (12, 1)
  else if c.total = 0 then none
  else if maxLength < c.total then some (13, 1)
  else if c.overlaps t.home then some (13, 2)
  else if !(s.padRowsOk t c.dsp c.dst c.dstride c.rows c.row && s.padRowsOk t c.ssp c.src c.sstride c.rows c.row) then some (13, 3)
  else none

/-- The address of byte `q` of the transfer on a side. -/
def sideAt (base : Nat) (stride : Int) (row q : Nat) : Nat := (((base : Int) + (q / row : Nat) * stride + (q % row : Nat)) % (2 ^ 64 : Nat)).toNat

/-- The page that holds an address of a side; a scratchpad has none (R253). -/
def sidePage (x : EngCtx) (space : Space) (a : Nat) (write : Bool) : E (Nat × Nat) :=
  match space with
  | .glob => do
    let (page, size, _) ← engTranslate x a write
    pure (page, page + size)
  | _ => pure (0, 2 ^ 64)

/-- The runs of bytes, at most `left`, from byte `q` on whose both sides stay in their pages: source, destination, length. -/
def segmentRuns (c : Copy) (sp dp : Nat × Nat) : Nat → Nat → Nat → List (Nat × Nat × Nat)
  | 0, _, _ => []
  | fuel + 1, q, left =>
    let a := sideAt c.src c.sstride c.row q
    let b := sideAt c.dst c.dstride c.row q
    if left = 0 ∨ a < sp.1 ∨ sp.2 ≤ a ∨ b < dp.1 ∨ dp.2 ≤ b then []
    else
      let k := min (min left (c.row - q % c.row)) (min (sp.2 - a) (dp.2 - b))
      (a, b, k) :: segmentRuns c sp dp fuel (q + k) (left - k)

/-- Adjacent runs joined. -/
def joinRuns : List (Nat × Nat × Nat) → List (Nat × Nat × Nat)
  | [] => []
  | (a, b, k) :: rest =>
    match joinRuns rest with
    | (a', b', k') :: more => if a + k = a' ∧ b + k = b' then (a, b, k + k') :: more else (a, b, k) :: (a', b', k') :: more
    | [] => [(a, b, k)]

/-- Bytes of a side; an uncorrectable error in a scratchpad is detail 4 (R252, R358). -/
def readSide (x : EngCtx) (space : Space) (a n : Nat) : E (List Byte) :=
  match space with
  | .glob => engRead x a n
  | pad => do
    let s ← engState
    let key := (padKey x.t.home pad a).toNat
    if s.padBad x.t key n then do
      engSet (s.padLost x.t key n)
      engFail 5 4
    else pure (s.padRead x.t key n)
def writeSide (x : EngCtx) (space : Space) (a : Nat) (bs : List Byte) (flush : Bool) : E Unit :=
  match space with
  | .glob => engWrite x a bs flush
  | pad => do
    let s ← engState
    engSet (s.storePad x.t (padKey x.t.home pad a).toNat bs)
def probeSide (x : EngCtx) (space : Space) (a n : Nat) : E Unit :=
  match space with
  | .glob => probePieces x (linePieces a n)
  | _ => pure ()

/-- Runs read one after another. -/
def readRuns (x : EngCtx) (space : Space) : List (Nat × Nat × Nat) → E (List (Nat × List Byte))
  | [] => pure []
  | (a, b, k) :: rest => do
    let bs ← readSide x space a k
    let more ← readRuns x space rest
    pure ((b, bs) :: more)
def writeRuns (x : EngCtx) (space : Space) (flush : Bool) : List (Nat × List Byte) → E Unit
  | [] => pure ()
  | (b, bs) :: rest => do
    writeSide x space b bs (flush && rest.isEmpty)
    writeRuns x space flush rest

/-- The segment from byte `p` on (R253): translated, read whole, then written. The flush bit goes with its last store, or,
with `lastOnly`, with the last store of the transfer (R367). -/
def copySegment (x : EngCtx) (c : Copy) (p : Nat) (lastOnly : Bool) : E Nat := do
  let sp ← sidePage x c.ssp (sideAt c.src c.sstride c.row p) false
  let dp ← sidePage x c.dsp (sideAt c.dst c.dstride c.row p) true
  let runs := joinRuns (segmentRuns c sp dp 4097 p (min 4096 (c.total - p)))
  let p' := p + (runs.map (·.2.2)).sum
  let data ← readRuns x c.ssp runs
  data.forM (fun d => probeSide x c.dsp d.1 d.2.length)
  writeRuns x c.dsp (c.flush && (!lastOnly || p' == c.total)) data
  pure p'

/-- One unit of a copy that has come to byte `p`. -/
def copyUnit (x : EngCtx) (c : Copy) (p : Nat) : E Unit' := do
  let s ← engState
  match (if p = 0 then c.refusal s x.t else none) with
  | some (code, d) => pure (.done code d 0)
  | none =>
    if c.total ≤ p then pure (.done 0 0 p)
    else do
      let p' ← copySegment x c p false
      pure (if c.total ≤ p' then .done 0 0 p' else .go p')

/-- The copy of a `cpy` or `cpy2d` entry. -/
def linearCopy (e : CeEntry) (dsp ssp : Space) (flush : Bool) : Copy :=
  ⟨dsp, ssp, (ceOp e 0).toNat, (ceOp e 1).toNat, 0, 0, (ceOp e 2).toNat, 1, flush⟩
def rowCopy (e : CeEntry) (dsp ssp : Space) (flush : Bool) : Copy :=
  ⟨dsp, ssp, (ceOp e 0).toNat, (ceOp e 1).toNat, ceInt e 2, ceInt e 3, (ceOp e 4).toNat, (ceOp e 5).toNat, flush⟩

/-- Bytes of an element of `cfill`. -/
def fillBytes : FillWidth → Nat
  | .n8 => 1 | .n16 => 2 | .n32 => 4 | .n64 => 8

/-- One unit of `cfill` (R258): a segment of one destination page. -/
def fillUnit (x : EngCtx) (e : CeEntry) (dsp : Space) (w : FillWidth) (flush : Bool) (p : Nat) : E Unit' := do
  let s ← engState
  let n := (ceOp e 2).toNat
  let base := (ceOp e 0).toNat
  if dsp = .cx then pure (.done 12 1 0)
  else if n ≤ p then pure (.done 0 0 p)
  else if maxLength < n then pure (.done 13 1 0)
  else if p = 0 && !s.padRowsOk x.t dsp base 0 1 n then pure (.done 13 3 0)
  else do
    let a := sideAt base 0 n p
    let dp ← sidePage x dsp a true
    let k := min (min 4096 (n - p)) (dp.2 - a)
    let pattern := bytesOfNat (fillBytes w) (ceOp e 1).toNat
    probeSide x dsp a k
    writeSide x dsp a (tabulate k (fun i => pattern.getD ((p + i) % fillBytes w) 0)) flush
    pure (if n ≤ p + k then .done 0 0 (p + k) else .go (p + k))

/-! ## cmcast (R263) -/

/-- The sizes and places of a `cmcast`: common bytes, slice bytes, common offset, slice offset, slice stride. -/
structure Cast where
  lc : Nat
  ls : Nat
  oc : Nat
  os : Int
  stride : Int
  cores : List Nat
  deriving DecidableEq, Repr

def castOf (e : CeEntry) (mask : BitVec 8) : Cast :=
  ⟨(ceOp e 1).toNat, (ceOp e 2).toNat, (ceOp e 3).toNat, (ceOp e 4).toNat, ceInt e 5, castCores mask⟩
def Cast.total (c : Cast) : Nat := c.lc + c.cores.length * c.ls

/-- The checks of `cmcast` (R252). -/
def Cast.refusal (c : Cast) (s : State) (t : Thread) : Option (Nat × Nat) :=
  if maxLength < c.total then some (13, 1)
  else if c.cores.isEmpty || c.cores.any (fun k => s.padCores t ≤ k) then some (13, 4)
  else if (c.lc != 0 && decide (s.padBytes t < c.oc + c.lc))
      || (c.ls != 0 && (List.range c.cores.length).any (fun r =>
        decide (c.os + r * c.stride < 0 ∨ (s.padBytes t : Int) < c.os + r * c.stride + c.ls))) then some (13, 3)
  else none

/-- Where bytes `p` to `p + n` of the source go: source offset from `p`, length and scratchpad place, in transfer order. -/
def Cast.places (c : Cast) (p n : Nat) : List (Nat × Nat × Nat) :=
  let part (lo len : Nat) (place : Nat) : List (Nat × Nat × Nat) :=
    let a := max p lo
    let b := min (p + n) (lo + len)
    if a < b then [(a - p, b - a, place + (a - lo))] else []
  c.cores.flatMap (fun k => part 0 c.lc (k * Config.coreSpan + c.oc))
  ++ (c.cores.zip (List.range c.cores.length)).flatMap (fun k =>
    part (c.lc + k.2 * c.ls) c.ls ((k.1 * Config.coreSpan : Nat) + c.os + k.2 * c.stride).toNat)

/-- One unit of `cmcast`: a segment of the source, delivered to every place that takes its bytes. -/
def castUnit (x : EngCtx) (e : CeEntry) (mask : BitVec 8) (p : Nat) : E Unit' := do
  let s ← engState
  let c := castOf e mask
  match (if p = 0 then c.refusal s x.t else none) with
  | some (code, d) => pure (.done code d 0)
  | none =>
    if c.total ≤ p then pure (.done 0 0 p)
    else do
      let a := sideAt (ceOp e 0).toNat 0 c.total p
      let sp ← sidePage x .glob a false
      let k := min (min 4096 (c.total - p)) (sp.2 - a)
      let bs ← engRead x a k
      let s ← engState
      engSet ((c.places p k).foldl (fun s w => s.storePad x.t w.2.2 ((bs.drop w.1).take w.2.1)) s)
      pure (if c.total ≤ p + k then .done 0 0 (p + k) else .go (p + k))

/-! ## cpyc (R260 to R262). Walk state, DESIGN CHOICE (log 41): word 0 the record's VA, 1 the records done, 2 one more than the
tick at which the wait for ownership began, 3 the phase, 4 and 12 the record's bytes moved and confirmed, 5 to 11 the record. -/

/-- A record's copy, or its refusal (R252, R260). -/
def recordCopy (w : Nat → Word) : Except (Nat × Nat) Copy :=
  let f := w 6
  let c : Copy := ⟨Space.ofCode (getBits f 34 2), Space.ofCode (getBits f 32 2), (w 2).toNat, (w 1).toNat, (w 5).toInt,
    (w 4).toInt, (w 3).toNat, (getBits f 0 32).toNat, f.getLsbD 39⟩
  if getBits (w 0) 1 5 ≠ 0 ∨ getBits f 40 24 ≠ 0 then .error (12, 2) else .ok c

/-- The ownership wait of a running `cpyc` is over at a tick; a limit of 0 does not wait. -/
def cpycOver (started limit tick : Nat) : Bool := limit == 0 || (started != 0 && decide (started - 1 + limit * 1024 ≤ tick))

/-- A record ends with a status in its own word; its ownership bit stays (R261). -/
def failRecord (x : EngCtx) (code d p : Nat) : E Unit' := do
  let rec' ← walkGet x 0
  let n ← walkGet x 1
  match ← engTry (engPutWord x (rec' + 0x38) (statusWord code d p)) with
  | .ok _ => pure (.done code d n)
  | .error (code', d') => pure (.done code' d' n)

/-- One unit of `cpyc`. -/
def chainUnit (x : EngCtx) (limit : Nat) : E Unit' := do
  let rec' ← walkGet x 0
  let n ← walkGet x 1
  let fail (r : Nat × Nat) : Unit' := .done r.1 r.2 n
  let phase ← walkGet x 3
  let word (i : Nat) : E Word := do
    let v ← walkGet x (5 + i)
    pure (BitVec.ofNat 64 v)
  match phase with
  | 0 =>
    if rec' % 64 ≠ 0 then pure (.done 13 5 n)
    else match ← engTry (engWord x rec') with
      | .error r => pure (fail r)
      | .ok own =>
        let s ← engState
        if !own.getLsbD 0 then
          let started ← walkGet x 2
          if cpycOver started limit s.tick then pure (.done 11 1 n)
          else if started = 0 then do walkPut x 2 (s.tick + 1); pure (.go n)
          else pure (if s.pends.any (fun p => decide (p.owner = x.owner)) then .go n else .idle)
        else do
          match ← engTry (engRead x rec' 64) with
          | .error r => pure (fail r)
          | .ok bs =>
            let w (i : Nat) : Word := wordOfBytes ((bs.drop (8 * i)).take 8)
            engSet { s with remEpoch := s.remEpoch + 1 }
            for i in List.range 7 do walkPut x (5 + i) (w i).toNat
            walkPut x 4 0
            walkPut x 12 0
            match recordCopy w with
            | .error (code, d) => failRecord x code d 0
            | .ok c => match c.refusal s x.t with
              | some (code, d) => failRecord x code d 0
              | none => do walkPut x 3 (if c.total = 0 then 2 else 1); pure (.go n)
  | 1 =>
    let w0 ← word 0; let w1 ← word 1; let w2 ← word 2; let w3 ← word 3; let w4 ← word 4; let w5 ← word 5; let w6 ← word 6
    match recordCopy (fun i => [w0, w1, w2, w3, w4, w5, w6].getD i 0) with
    | .error (code, d) => failRecord x code d 0
    | .ok c =>
      let p ← walkGet x 4
      walkPut x 12 p
      match ← engTry (copySegment x c p true) with
      | .error (code, d) => failRecord x code d p
      | .ok p' => do
        walkPut x 4 p'
        if c.total ≤ p' then walkPut x 3 2
        pure (.go n)
  | 2 =>
    let p ← walkGet x 4
    match ← engTry (engPutWord x (rec' + 0x38) (statusWord 0 0 p)) with
    | .error r => pure (fail r)
    | .ok _ => do walkPut x 3 3; pure (.go n)
  | 3 =>
    let w0 ← word 0
    match ← engTry (engPutWord x rec' (w0 &&& ~~~1#64)) with
    | .error r => pure (fail r)
    | .ok _ => do walkPut x 3 4; pure (.go n)
  | _ =>
    let w0 ← word 0
    let next := w0.toNat / 64 * 64
    walkPut x 1 (n + 1)
    if next = 0 then pure (.done 0 0 (n + 1))
    else do
      walkPut x 0 next
      walkPut x 2 0
      walkPut x 3 0
      pure (.go (n + 1))

/-- A write of a `cpyc` unit to another device has failed (R399): a record whose data are not complete takes the status. -/
def chainFailed (x : EngCtx) (f : Nat × Nat) : E Unit' := do
  let phase ← walkGet x 3
  let n ← walkGet x 1
  if phase = 1 ∨ phase = 2 then do
    let p ← walkGet x 12
    failRecord x f.1 f.2 p
  else pure (.done f.1 f.2 n)

end Sys2Proof.Machine
end

