-- ==== Sys2Proof/Machine/Graph.lean ====
section
/-! DEFINITION. The graph instructions, major 0x90 (R273 to R303): pushes, objects and types, walk tables, arenas, the walk,
and the unit of each command. What a receiving device does with a `gsend` stands in Intake.lean. -/

namespace Sys2Proof.Machine

/-! ## Pushes (R249, R278, R280, R292, R299, R303) -/

/-- The progress VA that a push captures: S(P) with `.prog`. -/
def progWord (t : Thread) (o : GraphOpt) : Word := if o.prog then t.s o.preg else 0

/-- NREG becomes pending with D, unless it is s0 (R292). -/
def withNreg (n d : SReg) : List RegRef := if n = 0 then [.s d] else [.s n, .s d]


/-- Pushes a copy of a graph into an arena (R292, R293) -/
def bodyGcopy (d a b c nreg : SReg) (o : GraphOpt) : Body := fun _ s t => pushCe (.gcopy d a b c nreg o) [t.s a, t.s b, t.s c, progWord t o] (withNreg nreg d) s t
def execGcopy (d a b c nreg : SReg) (o : GraphOpt) (s : State) : Host.Outcome State Fault Refusal :=
  issue (.gcopy d a b c nreg o) (bodyGcopy d a b c nreg o) s

/-- Pushes the sending of a graph to an intake (R292, R300) -/
def bodyGsend (d a b c : SReg) (o : GraphOpt) : Body := fun _ s t => pushCe (.gsend d a b c o) [t.s a, t.s b, t.s c, progWord t o] [.s d] s t
def execGsend (d a b c : SReg) (o : GraphOpt) (s : State) : Host.Outcome State Fault Refusal :=
  issue (.gsend d a b c o) (bodyGsend d a b c o) s

/-- Pushes the comparison of two graphs (R280) -/
def bodyGcmp (d a b c : SReg) (o : GraphOpt) : Body := fun _ s t => pushCe (.gcmp d a b c o) [t.s a, t.s b, t.s c, progWord t o] [.s d] s t
def execGcmp (d a b c : SReg) (o : GraphOpt) (s : State) : Host.Outcome State Fault Refusal :=
  issue (.gcmp d a b c o) (bodyGcmp d a b c o) s

/-- Pushes the digest of a graph (R278) -/
def bodyGhash (d a b : SReg) (c : VReg) (o : GraphOpt) : Body := fun _ s t => pushCe (.ghash d a b c o) [t.s a, t.s b, 0, progWord t o] [.s d, .v c] s t
def execGhash (d a b : SReg) (c : VReg) (o : GraphOpt) (s : State) : Host.Outcome State Fault Refusal :=
  issue (.ghash d a b c o) (bodyGhash d a b c o) s

/-- Pushes the release of a graph (R292, R297) -/
def bodyGfree (d a b c nreg : SReg) (o : GraphOpt) : Body := fun _ s t => pushCe (.gfree d a b c nreg o) [t.s a, t.s b, t.s c, progWord t o] (withNreg nreg d) s t
def execGfree (d a b c nreg : SReg) (o : GraphOpt) (s : State) : Host.Outcome State Fault Refusal :=
  issue (.gfree d a b c nreg o) (bodyGfree d a b c nreg o) s

/-- Pushes the count of a graph's bytes (R292, R296) -/
def bodyGcount (d a b nreg : SReg) (o : GraphOpt) : Body := fun _ s t => pushCe (.gcount d a b nreg o) [t.s a, t.s b, 0, progWord t o] (withNreg nreg d) s t
def execGcount (d a b nreg : SReg) (o : GraphOpt) (s : State) : Host.Outcome State Fault Refusal :=
  issue (.gcount d a b nreg o) (bodyGcount d a b nreg o) s

/-- Pushes the registration or closing of an intake (R299) -/
def bodyGintake (d a : SReg) (index : BitVec 6) (mbox : BitVec 3) : Body := fun _ s t => pushCe (.gintake d a index mbox) [t.s a] [.s d] s t
def execGintake (d a : SReg) (index : BitVec 6) (mbox : BitVec 3) (s : State) : Host.Outcome State Fault Refusal :=
  issue (.gintake d a index mbox) (bodyGintake d a index mbox) s

/-- Pushes the check of a type entry (R303) -/
def bodyGtype (d a b : SReg) : Body := fun _ s t => pushCe (.gtype d a b) [t.s a, t.s b] [.s d] s t
def execGtype (d a b : SReg) (s : State) : Host.Outcome State Fault Refusal :=
  issue (.gtype d a b) (bodyGtype d a b) s


/-! ## Objects and types (R273, R274, R282, R283) -/

def objSize (w0 : Word) : Nat := (getBits w0 8 24).toNat
def objType (w0 : Word) : Nat := (getBits w0 32 32).toNat
def objPinned (w0 : Word) : Bool := w0.getLsbD 2
def objFrozen (w0 : Word) : Bool := w0.getLsbD 1
def objBlob (w0 : Word) : Bool := w0.getLsbD 0

/-- A type as its entry describes it: fingerprint, inline map, word 0x10, and the extended map's bits with whether there is one. -/
structure GType where
  print : Word
  inl   : Word
  count : Word
  hasExt : Bool
  ext   : Nat
  deriving DecidableEq, Repr

def GType.fixed (k : GType) : Nat := (getBits k.count 0 32).toNat
def GType.elem (k : GType) : Nat := (getBits k.count 32 16).toNat
def GType.elemPtr (k : GType) : Bool := k.count.getLsbD 48

/-- The extended-map bits that R283 reads for a type. -/
def GType.extRead (k : GType) : Nat :=
  let m := ((List.range (k.fixed - 64)).map (fun i => 2 ^ (i + 64))).sum ||| ((2 ^ k.elem - 1) * 2 ^ k.fixed)
  k.ext &&& m

/-- Two types describe their pointer words alike (R280, detail 1). -/
def GType.like (a b : GType) : Bool :=
  a.inl == b.inl && a.count == b.count && a.hasExt == b.hasExt && a.extRead == b.extRead

/-- Payload word `i` of an object of `p` payload words is a pointer. -/
def GType.isPointer (k : GType) (p i : Nat) : Bool :=
  if i < k.fixed then (if i < 64 then k.inl.getLsbD i else k.hasExt && k.ext.testBit i)
  else
    k.elem != 0 && decide (i < k.fixed + (p - k.fixed) / k.elem * k.elem)
      && (if k.hasExt then k.ext.testBit (k.fixed + (i - k.fixed) % k.elem) else k.elemPtr)

/-- An object as it has been read: its VA, its image's words, its type and its pointer words, ascending. -/
structure Obj where
  va    : Nat
  image : List Word
  type  : GType
  ptrs  : List Nat
  deriving DecidableEq, Repr

def Obj.w0 (o : Obj) : Word := o.image.headD 0
def Obj.payload (o : Obj) : List Word := o.image.drop 2
def Obj.bytes (o : Obj) : List Byte := o.image.flatMap bytesOfWord

def wordsOf (bs : List Byte) : List Word := (chunks 8 bs).map wordOfBytes

/-- What an object needs of its type's extended map (R284). -/
inductive MapUse where
  /-- a BLOB: nothing -/
  | none
  /-- an object of `p` payload words: its fixed words from 64 on, and its array elements where it has any -/
  | object (p : Nat)
  /-- all that R283 reads for the type, which `gcmp` compares (R280) -/
  | whole
  deriving DecidableEq, Repr

/-- The words of the extended map that are read, from the first to the one after the last. Bits 0 to 63 serve no fixed word (R283);
those of array elements lie from bit F on, DEDUCED (log 129). -/
def GType.mapWords (k : GType) (u : MapUse) : Nat × Nat :=
  let f := k.fixed
  let ew := k.elem
  let elems := ew != 0 && (match u with
    | .none => false
    | .object p => decide (f + ew ≤ p)
    | .whole => true)
  let words := decide (64 < f) && u != .none
  if !words && !elems then (0, 0)
  else ((if words then 64 else f) / 64, ((if elems then f + ew else f) + 63) / 64)

/-- The type entry of a number, checked for objects of `p` payload words (R274, R282, R283), with the words of its extended map that are
needed (R284). A free object has TYPE 0 (R290). -/
def readType (x : EngCtx) (num p : Nat) (use : MapUse) : E GType := do
  let s ← engState
  let bs ← engRead x ((s.typeBase x.asid).toNat + 32 * num) 32
  let w := wordsOf bs
  let k : GType := ⟨w.getD 0 0, w.getD 1 0, w.getD 2 0, false, 0⟩
  let extVA := (w.getD 3 0).toNat
  if k.print = 0 ∨ num = 0 then engFail 6 2
  else if p < k.fixed ∨ getBits k.count 49 15 ≠ 0 ∨ (k.elemPtr = true ∧ k.elem = 0) then engFail 6 3
  else if extVA = 0 then pure k
  else if extVA % 8 ≠ 0 ∨ 2 ^ 57 ≤ extVA then engFail 6 4
  else do
    let (lo, hi) := k.mapWords use
    let bits ← engRead x (extVA + 8 * lo) (8 * (hi - lo))
    pure { k with hasExt := true, ext := natOfBytes bits * 2 ^ (64 * lo) }

/-- The lines of a range in this device's memory enter the watch filter (R277). -/
def watchLines (x : EngCtx) (key : Nat × Nat) : List (Nat × Nat) → E Unit
  | [] => pure ()
  | (va, _) :: rest => do
    let (_, _, place) ← engTranslate x va false
    let s ← engState
    match place with
    | .hbm pa _ =>
      if s.watched.any (fun w => w.1 == key.1 && w.2.1 == key.2 && w.2.2.1 == pa / 256) then pure ()
      else engSet { s with watched := s.watched ++ [(key.1, key.2, pa / 256, false)] }
    | _ => pure ()
    watchLines x key rest

/-- The walking instructions. -/
inductive GKind where
  | copy | send | cmp | hash | free | count
  deriving DecidableEq, Repr

/-- What an object of `p` payload words needs of its type's extended map (R284), from its header's word 0: `gcmp` compares what types
say; a BLOB has no pointer words, nor has a FROZEN object for `gcopy` (R293). -/
def GKind.mapUse (k : GKind) (w0 : Word) (p : Nat) : MapUse :=
  if k = .cmp then .whole else if objBlob w0 || (k == .copy && objFrozen w0) then .none else .object p

/-- Read(o) of R275: the header, then the type, then the rest of the image. A pointer that names no object is found here;
DEDUCED (log 45). -/
def readObject (x : EngCtx) (watch : Option (Nat × Nat)) (kind : GKind) (va : Nat) : E Obj := do
  if va % 32 ≠ 0 ∨ 2 ^ 57 ≤ va then engFail 6 1
  else do
    let head ← engRead x va 32
    let w0 := wordOfBytes (head.take 8)
    let size := objSize w0
    if size = 0 then engFail 6 3
    else do
      let rest ← engRead x (va + 32) (32 * size - 32)
      match watch with
      | some key => watchLines x key (linePieces va (32 * size))
      | none => pure ()
      let p := 4 * size - 2
      let k ← readType x (objType w0) p (kind.mapUse w0 p)
      pure { va := va, image := wordsOf (head ++ rest), type := k
             ptrs := if objBlob w0 || kind.mapUse w0 p == .none then [] else (List.range p).filter (k.isPointer p) }

/-! ## Walk tables (R276, R285) -/

/-- A walk table in use: descriptor, entries VA and log2 of the entry count. -/
structure Table where
  desc : Nat
  ev   : Nat
  log  : Nat
  deriving DecidableEq, Repr

def Table.slots (b : Table) : Nat := 2 ^ b.log

/-- Walk-state words of a walk (log 41). -/
def gVisits : Nat := 0
def gDepth : Nat := 1
def gMax : Nat := 2
def gNext : Nat := 3
def gCount : Nat := 4
def gResult : Nat := 5
def gDigest : Nat := 6
def gChain : Nat := 14
def gStream : Nat := 18
def gBlock : Nat := 19
def gTag : Nat := 27
def gLog : Nat := 28
def gEntries : Nat := 29
def gPhase : Nat := 30
def gSlot : Nat := 31
def gCode : Nat := 32
def gDetail : Nat := 33
def gProgress : Nat := 34
def gRoot : Nat := 35

/-- Slots that have held a stack word. -/
def stackSlots (max : Nat) : Nat := (max + 1) / 2

/-- Whether one more entry or stack slot leaves a free entry; a full table ends 4 OVERFLOW, detail 1 (R285, R292). -/
def roomFor1 (b : Table) (count max : Nat) : E Unit :=
  if count + stackSlots max + 1 ≤ b.slots - 1 then pure () else engFail 4 1

def Table.isStack (b : Table) (max slot : Nat) : Bool := decide (b.slots - stackSlots max ≤ slot)

/-- The slots of a table's entries as the walk knows them. -/
def State.usedSlots (s : State) (asid desc : Nat) : Option (List Nat) :=
  (s.walkUsed.find? (fun u => u.1 == asid && u.2.1 == desc)).map (·.2.2)
/-- They are noted. -/
def noteSlots (x : EngCtx) (b : Table) (f : List Nat → List Nat) : E Unit := do
  let s ← engState
  engSet { s with walkUsed := s.walkUsed.filter (fun u => !(u.1 == x.asid && u.2.1 == b.desc))
                    ++ [(x.asid, b.desc, f ((s.usedSlots x.asid b.desc).getD []))] }

/-- The two words of a slot. -/
def readSlot (x : EngCtx) (b : Table) (slot : Nat) : E (Word × Word) := do
  let bs ← engRead x (b.ev + 16 * slot) 16
  pure (wordOfBytes (bs.take 8), wordOfBytes (bs.drop 8))

def writeSlot (x : EngCtx) (b : Table) (slot : Nat) (w0 w1 : Word) : E Unit :=
  engWrite x (b.ev + 16 * slot) (bytesOfWord w0 ++ bytesOfWord w1)

/-- Where probing for an object starts (R285). -/
def Table.home (b : Table) (va : Word) (side : Bool) : Nat :=
  (crc32c (bytesOfWord (va + if side then 1#64 <<< 63 else 0))).toNat % b.slots

/-- The slot of an object, or none at the first free slot. `sides` when entries tell two graphs apart (`gcmp`). -/
def findSlot (x : EngCtx) (b : Table) (max : Nat) (sides : Bool) (va : Word) (side : Bool) : Nat → Nat → E (Option (Nat × Word))
  | 0, _ => pure none
  | fuel + 1, slot => do
    let next := (slot + 1) % b.slots
    if b.isStack max slot then findSlot x b max sides va side fuel next
    else do
      let (w0, w1) ← readSlot x b slot
      if w0 = 0 then pure none
      else if w0 = va ∧ (!sides || w1.getLsbD 63 == side) then pure (some (slot, w1))
      else findSlot x b max sides va side fuel next

/-- The entry of an object: slot and second word. -/
def lookup (x : EngCtx) (b : Table) (sides : Bool) (va : Word) (side : Bool) : E (Option (Nat × Word)) := do
  let max ← walkGet x gMax
  findSlot x b max sides va side b.slots (b.home va side)

/-- The first free slot from one on. -/
def freeSlot (x : EngCtx) (b : Table) (max : Nat) : Nat → Nat → E Nat
  | 0, slot => pure slot
  | fuel + 1, slot => do
    if b.isStack max slot then freeSlot x b max fuel ((slot + 1) % b.slots)
    else do
      let (w0, _) ← readSlot x b slot
      if w0 = 0 then pure slot else freeSlot x b max fuel ((slot + 1) % b.slots)

/-- An object enters the table. -/
def insertEntry (x : EngCtx) (b : Table) (va : Word) (side : Bool) (w1 : Word) : E Unit := do
  let max ← walkGet x gMax
  let count ← walkGet x gCount
  roomFor1 b count max
  let slot ← freeSlot x b max b.slots (b.home va side)
  writeSlot x b slot va w1
  noteSlots x b (fun l => l ++ [slot])
  walkPut x gCount (count + 1)

/-- A stack word is pushed; an object entry in its slot moves first (R285). -/
def pushWord (x : EngCtx) (b : Table) (va : Word) : E Unit := do
  let k ← walkGet x gDepth
  let max ← walkGet x gMax
  if max ≤ k then
    if stackSlots max < stackSlots (k + 1) then
      let count ← walkGet x gCount
      roomFor1 b count max
      let slot := b.slots - 1 - k / 2
      let (w0, w1) ← readSlot x b slot
      if w0 ≠ 0 then
        let dst ← freeSlot x b (k + 1) b.slots slot
        writeSlot x b dst w0 w1
        noteSlots x b (fun l => l.map (fun i => if i = slot then dst else i))
    walkPut x gMax (k + 1)
  engPutWord x (b.ev + 16 * b.slots - 8 * (k + 1)) va
  walkPut x gDepth (k + 1)

/-- The top of the stack is popped; its bytes stay. -/
def popWord (x : EngCtx) (b : Table) : E Word := do
  let k ← walkGet x gDepth
  walkPut x gDepth (k - 1)
  engWord x (b.ev + 16 * b.slots - 8 * k)

/-- The used count while a command holds the table: one more than the object entries (R285). -/
def putUsed (x : EngCtx) (b : Table) : E Unit := do
  let n ← walkGet x gCount
  engPutWord x (b.desc + 0x10) (BitVec.ofNat 64 (n + 1))

/-- The running walk's table. -/
def walkTable (x : EngCtx) (desc : Nat) : E Table := do
  let ev ← walkGet x gEntries
  let log ← walkGet x gLog
  pure ⟨desc, ev, log⟩

/-! ## Arenas (R288 to R290) -/

/-- The words of an arena descriptor. -/
structure Arena where
  base : Nat
  limit : Nat
  bump : Nat
  head : Word
  flags : Word
  live : Word
  rest : List Word
  deriving DecidableEq, Repr

def readArena (x : EngCtx) (va : Nat) : E Arena := do
  let bs ← engRead x va 64
  let w := wordsOf bs
  pure ⟨(w.getD 0 0).toNat, (w.getD 1 0).toNat, (w.getD 2 0).toNat, w.getD 3 0, w.getD 4 0, w.getD 5 0, w.drop 6⟩

/-- A descriptor that breaks a limit (R288), in ascending offset. -/
def Arena.refusal (a : Arena) : Option (Nat × Nat) :=
  if a.base % 32 ≠ 0 ∨ a.limit % 32 ≠ 0 ∨ a.limit < a.base ∨ a.bump % 32 ≠ 0 ∨ a.bump < a.base ∨ a.limit < a.bump
      ∨ a.head.toNat % 32 ≠ 0 then some (13, 8)
  else if a.flags.toNat / 2 ≠ 0 ∨ a.rest.any (· != 0) then some (12, 2)
  else none

/-- The arena of a command, checked. -/
def checkArena (x : EngCtx) (va : Nat) : E Unit :=
  if va % 64 ≠ 0 then engFail 13 5
  else do
    let a ← readArena x va
    match a.refusal with
    | some (c, d) => engFail c d
    | none => pure ()

/-- An atomic on a word of another device or of the host, with the word that it finds, for which the unit waits; none on a word here. -/
def atomicAway (x : EngCtx) (va : Nat) (kind : AtomKind) (b c : Word) : E (Option Word) := do
  let (_, _, place) ← engTranslate x va true
  let s ← engState
  match place with
  | .peer dev size leaf =>
    match s.pend? x.owner (.atomic (BitVec.ofNat 64 va)) with
    | none => throw (.atomic ⟨dev, va, 8, size, leaf⟩ kind b c)
    | some p => match p.answer with
      | none => throw (.wait [])
      | some (.old v) => pure (some v)
      | some (.data bs) => pure (some (wordOfBytes bs))
      | some (.fail f) => engFail (failStatus f).1 (failStatus f).2
  | _ => pure none

/-- A word of an arena's descriptor goes from what has been read to another (R289, R290): at once here; elsewhere by a CAS, and the unit
starts anew where it fails. DESIGN CHOICE (log 149). -/
def moveWord (x : EngCtx) (va : Nat) (old new : Word) : E Unit := do
  match ← atomicAway x va .cas new old with
  | some v => if v ≠ old then throw .again
  | none => engPutWord x va new

/-- The live count changes, by a separate atomic (R289, R290). -/
def addLive (x : EngCtx) (va : Nat) (live by' : Word) : E Unit := do
  match ← atomicAway x (va + 0x28) .add by' 0 with
  | some _ => pure ()
  | none => engPutWord x (va + 0x28) (live + by')

/-- An operation on an arena's descriptor that changes nothing reaches its home as well, after the atomics of its cycle (R291). -/
def reachArena (x : EngCtx) (va : Nat) : E Unit := do
  let (_, _, place) ← engTranslate x va false
  let s ← engState
  match place with
  | .hbm pa _ => engSet (s.atHome pa localStoreRank)
  | _ => pure ()

/-- An object of `size` granules is allocated (R289); none when the arena is full. -/
def allocate (x : EngCtx) (va size : Nat) : E (Option Nat) := do
  let a ← readArena x va
  let h := a.head.toNat
  let w0 ← if a.flags.getLsbD 0 && h != 0 then engWord x h else pure 0
  if a.flags.getLsbD 0 && h != 0 && objSize w0 == size then
    let next ← engWord x (h + 8)
    moveWord x (va + 0x18) a.head next
    addLive x va a.live 1
    pure (some h)
  else if a.bump + 32 * size ≤ a.limit then
    moveWord x (va + 0x10) (BitVec.ofNat 64 a.bump) (BitVec.ofNat 64 (a.bump + 32 * size))
    addLive x va a.live 1
    pure (some a.bump)
  else do
    reachArena x va
    pure none

/-- An object is released into the free list (R290). DEDUCED (log 149): its header is written when the list's head has moved. -/
def release (x : EngCtx) (va : Nat) (o : Obj) : E Unit := do
  let a ← readArena x va
  moveWord x (va + 0x18) a.head (BitVec.ofNat 64 o.va)
  engWrite x o.va (bytesOfWord (BitVec.ofNat 64 (objSize o.w0 * 256)) ++ bytesOfWord a.head)
  addLive x va a.live (-1)

/-! ## Commands -/

/-- The minor of a kind (R278, R280, R292). -/
def GKind.minor : GKind → Nat
  | .copy => 0 | .send => 1 | .cmp => 2 | .hash => 3 | .free => 4 | .count => 5

/-- A walking command: its kind, roots, table and arena descriptors, `.st`, `.prog` and the progress VA. -/
structure GCmd where
  kind  : GKind
  entry : CeEntry
  roots : List Word
  desc  : Nat
  arena : Word
  st    : Bool
  prog  : Bool
  pva   : Nat

def gcmdOf (kind : GKind) (o : GraphOpt) (e : CeEntry) : GCmd :=
  { kind := kind, entry := e, roots := if kind = .cmp then [ceOp e 0, ceOp e 1] else [ceOp e 0]
    desc := (if kind = .cmp then ceOp e 2 else ceOp e 1).toNat, arena := ceOp e 2, st := o.st, prog := o.prog, pva := (ceOp e 3).toNat }

/-- The walk of a command, as the watch filter names it: its ASID and walk table, so that a held walk keeps its entries whoever resumes
it (R286). -/
def GCmd.key (c : GCmd) (x : EngCtx) : Nat × Nat := (x.asid, c.desc)
def GCmd.watch (c : GCmd) (x : EngCtx) : Option (Nat × Nat) := if c.st then some (c.key x) else none
def GCmd.usesArena (c : GCmd) : Bool := c.kind == .copy || c.kind == .free

/-- The second word of an entry when its object is discovered (R285). DESIGN CHOICE (log 155): no CRC before the visit. -/
def GKind.second (k : GKind) (index : Nat) (side : Bool) : Word :=
  match k with
  | .copy => 0
  | _ => BitVec.ofNat 64 (index * 2 ^ 32) ||| (if side then 1#64 <<< 63 else 0)

/-- The target device and intake index of a `gsend` (R300). -/
def sendDev (c : Word) : BitVec 16 := getBits c 0 16
def sendIntake (c : Word) : Nat := (getBits c 16 6).toNat

/-- A frame of a graph transfer enters the core's stream to the target (R300). -/
def sendGraph (x : EngCtx) (dev : BitVec 16) (p : Payload) : E Unit := do
  let s ← engState
  if !s.canSend x.core dev 1 then throw (.wait [])
  else engSet (s.streamOp x.core dev x.owner (s.jobOf x.t) 9 p)

/-- The sender's record of a running `gsend` is updated. -/
def State.onSend (s : State) (tag : Nat) (f : SendState → SendState) : State :=
  { s with sends := s.sends.map (fun d => if d.tag = tag then f d else d) }

def State.sendOf (s : State) (tag : Nat) : Option SendState := s.sends.find? (fun d => d.tag == tag)

/-! ## Ends of a walk (R276, R277, R286) -/

/-- The stable test (R277): whether the filter reports a write, or reports one that was not made; the entries are removed. -/
def testWatch (x : EngCtx) (c : GCmd) : E Bool := do
  let s ← engState
  let key := c.key x
  let hit := s.watched.any (fun w => w.1 == key.1 && w.2.1 == key.2 && w.2.2.2) || Config.falseMutated s.fresh
  engSet { s with fresh := s.fresh + 1, watched := s.watched.filter (fun w => !(w.1 == key.1 && w.2.1 == key.2)) }
  pure hit

/-- A walk that has claimed its table ends: the stable test, then the table is emptied. -/
def graphEnd (x : EngCtx) (c : GCmd) (code detail progress : Nat) : E Unit' := do
  let hit ← if c.st then testWatch x c else pure false
  let changes := hit && (code == 0 || code == 1)
  walkPut x gCode (if changes then 3 else code)
  walkPut x gDetail (if changes then (if c.kind = .send then detail else 0) else detail)
  walkPut x gProgress progress
  walkPut x gSlot 0
  walkPut x gPhase 2
  pure (.go progress)

/-- The slots that a command has used: those of its entries, then those of its stack (R276, R285). -/
def Table.ownSlots (b : Table) (used : List Nat) (max : Nat) : List Nat :=
  used ++ (List.range (stackSlots max)).map (fun i => b.slots - 1 - i)

/-- Of the slots that the command has used, 128 are emptied; then the used count and flags, and the command ends. A fault replaces its
code. -/
def cleanUnit (x : EngCtx) (c : GCmd) : E Unit' := do
  let b ← walkTable x c.desc
  let max ← walkGet x gMax
  let i ← walkGet x gSlot
  let visits ← walkGet x gVisits
  let work : E Unit' := do
    let s ← engState
    let own := (b.ownSlots ((s.usedSlots x.asid c.desc).getD []) max).drop i
    if own.isEmpty then
      engWrite x (b.desc + 0x10) (List.replicate 16 0)
      let s ← engState
      engSet { s with fixups := s.fixups.filter (fun f => !(f.1 == x.asid && f.2.1 == c.desc))
                      walkUsed := s.walkUsed.filter (fun u => !(u.1 == x.asid && u.2.1 == c.desc)) }
      let code ← walkGet x gCode
      let d ← walkGet x gDetail
      let p ← walkGet x gProgress
      pure (.done code d p)
    else
      for slot in own.take 128 do writeSlot x b slot 0 0
      walkPut x gSlot (i + 128)
      pure (.go visits)
  match ← engTry work with
  | .ok r => pure r
  | .error (code, d) => pure (.done code d visits)

/-- The resume record's bytes before its CRC (R286). -/
def recordBytes (x : EngCtx) (c : GCmd) : E (List Byte) := do
  let s ← engState
  match s.thread? x.t.id with
  | none => pure []
  | some t =>
    let w (i : Nat) : List Byte := bytesOfWord (t.walkAt i)
    let hash := c.kind == .hash
    let zeros (n : Nat) : List Byte := List.replicate n 0
    pure (bytesOfWord c.entry.word ++ (List.range 4).flatMap (fun i => bytesOfWord (ceOp c.entry i)) ++ w gVisits
      ++ (match c.kind with
          | .copy | .count | .free => w gResult
          | _ => zeros 8)
      ++ w gDepth
      ++ (if hash then (List.range 4).flatMap (fun i => w (gChain + i)) ++ w gStream ++ (List.range 8).flatMap (fun i => w (gBlock + i))
          else zeros 104)
      ++ (if c.kind = .send then w gTag else zeros 8) ++ zeros 72)

/-- 4 OVERFLOW: the table is left held, with its resume record (R286). -/
def holdTable (x : EngCtx) (c : GCmd) (detail : Nat) : E Unit' := do
  let b ← walkTable x c.desc
  let visits ← walkGet x gVisits
  let max ← walkGet x gMax
  let work : E Unit' := do
    let rec' ← recordBytes x c
    engWrite x (b.ev + 16 * b.slots) (rec' ++ bytesOfNat 8 (crc32c rec').toNat)
    putUsed x b
    engPutWord x (b.desc + 0x18) (BitVec.ofNat 64 (b.log * 256 + c.kind.minor * 2 + 1))
    let s ← engState
    engSet { s with heldTabs := s.heldTabs.filter (fun h => !(h.1 == x.asid && h.2.1 == c.desc)) ++ [(x.asid, c.desc, max, x.t.id)] }
    if c.kind = .send then
      let tag ← walkGet x gTag
      sendGraph x (sendDev c.arena) (.graphAbort tag 4 detail)
    pure (.done 4 detail visits)
  match ← engTry work with
  | .ok r => pure r
  | .error (code, d) => graphEnd x c code d visits

/-! ## Starting (R276, R287, R288) -/

/-- The descriptor's words. -/
def readDesc (x : EngCtx) (desc : Nat) : E (List Word) := do
  let bs ← engRead x desc 32
  pure (wordsOf bs)

/-- The limits that hold for a fresh and for a held table (R276). -/
def descRefusal (w : List Word) : Option (Nat × Nat) :=
  let l := w.getD 1 0
  if (w.getD 0 0).toNat % 16 ≠ 0 then some (13, 1)
  else if (getBits l 0 8).toNat < 4 ∨ 24 < (getBits l 0 8).toNat then some (13, 2)
  else if l.toNat / 256 ≠ 0 then some (12, 2)
  else none

/-- A word goes from 0 to 1 by one atomic, or the table is in use (R276). -/
def claimWord (x : EngCtx) (va : Nat) : E Unit := do
  match ← atomicAway x va .cas 1 0 with
  | some v => if v ≠ 0 then engFail 13 3
  | none => do
    if (← engWord x va) ≠ 0 then engFail 13 3
    engPutWord x va 1

/-- The table is claimed (R276). What is left of a held walk on it, which software has abandoned, goes (R287). -/
def claimTable (x : EngCtx) (desc : Nat) (w : List Word) : E Table := do
  claimWord x (desc + 0x10)
  let s ← engState
  engSet { s with fixups := s.fixups.filter (fun f => !(f.1 == x.asid && f.2.1 == desc))
                  walkUsed := s.walkUsed.filter (fun u => !(u.1 == x.asid && u.2.1 == desc))
                  heldTabs := s.heldTabs.filter (fun h => !(h.1 == x.asid && h.2.1 == desc))
                  watched := s.watched.filter (fun w => !(w.1 == x.asid && w.2.1 == desc)) }
  pure ⟨desc, (w.getD 0 0).toNat, (getBits (w.getD 1 0) 0 8).toNat⟩

/-- The command has claimed a table on another device and has its answer, or waits for it. -/
def State.claiming (s : State) (x : EngCtx) (desc : Nat) : Bool := (s.pend? x.owner (.atomic (BitVec.ofNat 64 (desc + 0x10)))).isSome

/-- Object entries of a table of `n` slots of which `k` are stack slots, with the bytes of the whole. -/
def heldEntries (bs : List Byte) (n k : Nat) : List (Word × Word) :=
  (List.range (n - k)).filterMap (fun i =>
    let w0 := wordOfBytes ((bs.drop (16 * i)).take 8)
    if w0 = 0 then none else some (w0, wordOfBytes ((bs.drop (16 * i + 8)).take 8)))

/-- A held table grows (R287): the added entries are zeroed, and every entry and the stack are placed again. -/
def growTable (x : EngCtx) (b old : Table) (depth max : Nat) (sides : Bool) : E Unit := do
  let bs ← engRead x old.ev (16 * old.slots)
  let entries := heldEntries bs old.slots (stackSlots max)
  let stack := bs.drop (16 * old.slots - 8 * depth)
  engWrite x b.ev (List.replicate (16 * b.slots) 0)
  engWrite x (b.ev + 16 * b.slots - 8 * depth) stack
  walkPut x gMax depth
  walkPut x gCount 0
  noteSlots x b (fun _ => [])
  for e in entries do insertEntry x b e.1 (sides && e.2.getLsbD 63) e.2

/-- A command that names a held table resumes it, or is refused (R287). DESIGN CHOICE (log 156): a refused one leaves it held. -/
def resumeWalk (x : EngCtx) (c : GCmd) (w : List Word) : E Unit' := do
  let b : Table := ⟨c.desc, (w.getD 0 0).toNat, (getBits (w.getD 1 0) 0 8).toNat⟩
  let lheld := (getBits (w.getD 3 0) 8 8).toNat
  if lheld < 4 ∨ b.log < lheld then pure (.done 2 1 0)
  else do
    let old : Table := { b with log := lheld }
    let bs ← engRead x (old.ev + 16 * old.slots) 256
    let r (off : Nat) : Word := wordOfBytes ((bs.drop off).take 8)
    if (r 0xF8).toNat ≠ (crc32c (bs.take 0xF8)).toNat then pure (.done 2 1 0)
    else if r 0 ≠ c.entry.word ∨ (List.range 4).any (fun i => r (8 + 8 * i) != ceOp c.entry i) then pure (.done 2 2 0)
    else do
      if c.usesArena then checkArena x c.arena.toNat
      let s ← engState
      let depth := (r 0x38).toNat
      let max := ((s.heldTabs.find? (fun h => h.1 == x.asid && h.2.1 == c.desc)).map (·.2.2.1)).getD depth
      engSet { s with heldTabs := s.heldTabs.filter (fun h => !(h.1 == x.asid && h.2.1 == c.desc)) }
      let used := (w.getD 2 0).toNat
      for p in [(gVisits, (r 0x28).toNat), (gResult, (r 0x30).toNat), (gDepth, depth), (gMax, max), (gCount, used - 1),
                (gStream, (r 0x60).toNat), (gTag, (r 0xA8).toNat), (gLog, b.log), (gEntries, b.ev), (gPhase, 1)] do
        walkPut x p.1 p.2
      -- indices go on after those given: one for each entry, or for each pair
      walkPut x gNext (if c.kind = .cmp then (used - 1) / 2 else used - 1)
      for i in List.range 4 do walkPut x (gChain + i) (r (0x40 + 8 * i)).toNat
      for i in List.range 8 do walkPut x (gBlock + i) (r (0x68 + 8 * i)).toNat
      -- a table that another device has held: its entries are looked for
      if (s.usedSlots x.asid c.desc).isNone then
        let bs ← engRead x old.ev (16 * (old.slots - stackSlots max))
        noteSlots x old (fun _ => (List.range (old.slots - stackSlots max)).filter
          (fun i => (bs.drop (16 * i)).take 8 != List.replicate 8 0))
      if lheld < b.log then growTable x b old depth max (c.kind == .cmp)
      engPutWord x (c.desc + 0x18) 0
      putUsed x b
      pure (.go (r 0x28).toNat)

/-- The chaining value as four words of the walk state, and of the record (R286). DESIGN CHOICE (log 157): little-endian. -/
def chainWords (h : List (BitVec 32)) : List Nat := tabulate 4 (fun i => (h.getD (2 * i) 0).toNat + 2 ^ 32 * (h.getD (2 * i + 1) 0).toNat)
def chainOf (ws : List Nat) : List (BitVec 32) := ws.flatMap (fun w => [BitVec.ofNat 32 w, BitVec.ofNat 32 (w / 2 ^ 32)])

/-- The roots are discovered with index 0 (R275). -/
def enterRoots (x : EngCtx) (c : GCmd) (b : Table) : E Unit := do
  for r in c.roots.zip [false, true] do
    insertEntry x b r.1 r.2 (c.kind.second 0 r.2)
  for r in c.roots do pushWord x b r
  walkPut x gNext 1
  putUsed x b

/-- A `gsend` opens its transfer. -/
def openSend (x : EngCtx) (c : GCmd) : E Unit := do
  let s ← engState
  let tag := s.stamp
  engSet { s with stamp := s.stamp + 1
                  sends := s.sends ++ [⟨tag, x.t.id, sendDev c.arena, sendIntake c.arena, s.tick, false, none⟩] }
  walkPut x gTag tag
  sendGraph x (sendDev c.arena) (.graphOpen tag (sendIntake c.arena))

/-- The digest into the walk state, four words from `gDigest`. -/
def finishHash (x : EngCtx) : E Unit := do
  let n ← walkGet x gStream
  let mut h : List Nat := []
  for i in List.range 4 do h := h ++ [← walkGet x (gChain + i)]
  let mut rest : List Byte := []
  for i in List.range 8 do
    let v ← walkGet x (gBlock + i)
    rest := rest ++ bytesOfNat 8 v
  let digest := shaFinish (chainOf h) (rest.take (n % 64)) n
  for i in List.range 4 do walkPut x (gDigest + i) (natOfBytes ((digest.drop (8 * i)).take 8))

/-- The first unit: the checks, then the table is claimed or taken up again. DESIGN CHOICE (log 153): the order of the checks. -/
def startWalk (x : EngCtx) (c : GCmd) : E Unit' := do
  let s ← engState
  if c.kind = .send ∧ (sendDev c.arena = 0xFFFF ∨ getBits c.arena 22 42 ≠ 0) then pure (.done 12 1 0)
  else if c.kind = .send ∧ !s.hasFabric ∧ sendDev c.arena ≠ s.devnum then pure (.done 11 3 0)
  else if c.desc % 32 ≠ 0 then pure (.done 13 4 0)
  else do
    let w ← readDesc x c.desc
    match descRefusal w with
    | some (code, d) => pure (.done code d 0)
    | none =>
      if c.prog && c.pva % 8 != 0 then pure (.done 13 5 0)
      else if (w.getD 3 0).getLsbD 0 then resumeWalk x c w
      else if w.getD 2 0 ≠ 0 ∧ !s.claiming x c.desc then pure (.done 13 3 0)
      else if w.getD 3 0 ≠ 0 then pure (.done 12 2 0)
      else do
        if c.usesArena then checkArena x c.arena.toNat
        let b ← claimTable x c.desc w
        walkPut x gLog b.log
        walkPut x gEntries b.ev
        walkPut x gPhase 1
        for p in (chainWords shaInit).zip [0, 1, 2, 3] do walkPut x (gChain + p.2) p.1
        if c.roots.all (· == 0) then do
          if c.kind = .hash then finishHash x
          graphEnd x c 0 0 0
        else if c.roots.any (· == 0) then graphEnd x c 1 5 1
        else do
          enterRoots x c b
          if c.kind = .send then openSend x c
          pure (.go 0)

/-! ## Visits (R275, R279, R280, R293, R296, R297) -/

/-- The pointer words of an object, ascending: position and value. -/
def Obj.pointers (o : Obj) : List (Nat × Word) := o.ptrs.map (fun i => (i, o.payload.getD i 0))

/-- The targets without an index receive the next ones; those found, in order, and each target's entry. -/
def discover (x : EngCtx) (c : GCmd) (b : Table) : List Word → E (List Word)
  | [] => pure []
  | w :: rest => do
    if w = 0 then discover x c b rest
    else match ← lookup x b false w false with
      | some _ => discover x c b rest
      | none => do
        let next ← walkGet x gNext
        insertEntry x b w false (c.kind.second next false)
        walkPut x gNext (next + 1)
        let more ← discover x c b rest
        pure (w :: more)

/-- Bytes join the digest's stream. -/
def hashBytes (x : EngCtx) (bs : List Byte) : E Unit := do
  let n ← walkGet x gStream
  let mut h : List Nat := []
  for i in List.range 4 do h := h ++ [← walkGet x (gChain + i)]
  let mut rest : List Byte := []
  for i in List.range 8 do
    let v ← walkGet x (gBlock + i)
    rest := rest ++ bytesOfNat 8 v
  let all := rest.take (n % 64) ++ bs
  let whole := all.length / 64
  let h' := ((chunks 64 (all.take (64 * whole))).foldl shaBlock (chainOf h))
  let tail := all.drop (64 * whole)
  for p in (chainWords h').zip [0, 1, 2, 3] do walkPut x (gChain + p.2) p.1
  for i in List.range 8 do walkPut x (gBlock + i) (natOfBytes ((tail.drop (8 * i)).take 8))
  walkPut x gStream (n + bs.length)

/-- The index in an entry's second word. -/
def entryIndex (w1 : Word) : Nat := (getBits w1 32 31).toNat

/-- The record of an object in the canonical stream (R279); `index` gives each target's index. -/
def canonical (o : Obj) (index : Word → Nat) : List Byte :=
  bytesOfWord o.type.print ++ bytesOfWord ((getBits o.w0 0 32).zeroExtend 64) ++ bytesOfWord (o.image.getD 1 0)
  ++ (o.payload.zip (List.range o.payload.length)).flatMap (fun p =>
    bytesOfWord (if o.ptrs.contains p.2 && p.1 != 0 then BitVec.ofNat 64 (0xFFFF000000000000 + index p.1) else p.1))

/-- The entries of an object's targets. -/
def targetWords (x : EngCtx) (b : Table) : List Word → E (List (Word × Word))
  | [] => pure []
  | w :: rest => do
    if w = 0 then targetWords x b rest
    else do
      let e ← lookup x b false w false
      let more ← targetWords x b rest
      pure ((w, (e.map (·.2)).getD 0) :: more)

/-- A word that waited for New(target) is written (R293). -/
def writeFixups (x : EngCtx) (c : GCmd) (target new : Word) : E Unit := do
  let s ← engState
  let mine (f : Nat × Nat × Nat × Word) : Bool := f.1 == x.asid && f.2.1 == c.desc && f.2.2.2 == target
  for f in s.fixups.filter mine do engPutWord x f.2.2.1 new
  let s ← engState
  engSet { s with fixups := s.fixups.filter (fun f => !mine f) }

/-- The words of a copy that are written now; none for a pointer whose target has no new VA yet. -/
def copyWords (o : Obj) (news : List (Word × Word)) : List (Option Word) :=
  [some (o.w0 &&& ~~~4#64), some (o.image.getD 1 0)]
  ++ (o.payload.zip (List.range o.payload.length)).map (fun p =>
    if o.ptrs.contains p.2 && p.1 != 0 then
      (match news.lookup p.1 with
      | some 0 | none => none
      | some n => some n)
    else some p.1)

/-- Runs of words that are written, each with its first position. -/
def wordRuns : Nat → List (Option Word) → List (Nat × List Word)
  | _, [] => []
  | i, none :: rest => wordRuns (i + 1) rest
  | i, some w :: rest =>
    match wordRuns (i + 1) rest with
    | (j, ws) :: more => if j = i + 1 then (i, w :: ws) :: more else (i, [w]) :: (j, ws) :: more
    | [] => [(i, [w])]

/-- A pointer word whose target has no new VA yet. -/
def waitsFor (news : List (Word × Word)) (p : Nat × Word) : Bool := p.2 != 0 && (news.lookup p.2).getD 0 == 0

/-- The step of `gcopy` for an object (R293). -/
def copyObject (x : EngCtx) (c : GCmd) (b : Table) (o : Obj) : E Unit := do
  let va := BitVec.ofNat 64 o.va
  let visits ← walkGet x gVisits
  let new ← if objFrozen o.w0 then pure o.va
    else match ← allocate x c.arena.toNat (objSize o.w0) with
      | some n => pure n
      | none => engFail 4 2
  match ← lookup x b false va false with
  | some (slot, _) => writeSlot x b slot va (BitVec.ofNat 64 new)
  | none => pure ()
  if !objFrozen o.w0 then
    let news ← targetWords x b (o.pointers.map (·.2))
    let ws := copyWords o news
    for r in wordRuns 0 ws do engWrite x (new + 8 * r.1) (r.2.flatMap bytesOfWord)
    let s ← engState
    let late := (o.pointers.filter (waitsFor news)).map
      (fun (p : Nat × Word) => ((x.asid, c.desc, new + 16 + 8 * p.1, p.2) : Nat × Nat × Nat × Word))
    engSet { s with fixups := s.fixups ++ late }
  writeFixups x c va (BitVec.ofNat 64 new)
  if visits = 0 then walkPut x gResult new

/-- The step of a walking instruction for an object whose targets have been discovered. -/
def visitStep (x : EngCtx) (c : GCmd) (b : Table) (o : Obj) : E Unit := do
  let va := BitVec.ofNat 64 o.va
  let r ← walkGet x gResult
  match c.kind with
  | .hash => do
    let idx ← targetWords x b (o.pointers.map (·.2))
    hashBytes x (canonical o (fun w => entryIndex ((idx.lookup w).getD 0)))
    match ← lookup x b false va false with
    | some (slot, w1) => writeSlot x b slot va ((w1 &&& ~~~0xFFFFFFFF#64) ||| (crc32c o.bytes).zeroExtend 64)
    | none => pure ()
  | .count => walkPut x gResult (r + 32 * objSize o.w0)
  | .free => do
    let a ← readArena x c.arena.toNat
    if a.base ≤ o.va ∧ o.va < a.limit ∧ !objPinned o.w0 then
      release x c.arena.toNat o
      walkPut x gResult (r + 1)
  | .copy => copyObject x c b o
  | .send => do
    let tag ← walkGet x gTag
    sendGraph x (sendDev c.arena) (.graphObject tag ⟨va, o.image, o.type.print⟩)
    let s ← engState
    engSet (s.onSend tag (fun d => { d with sent := s.tick }))
  | .cmp => pure ()

/-- The visit is complete: it is counted, and its count stored with `.prog` (R277). -/
def countVisit (x : EngCtx) (c : GCmd) (b : Table) : E Unit := do
  let n ← walkGet x gVisits
  walkPut x gVisits (n + 1)
  putUsed x b
  if c.prog then engPutWord x c.pva (BitVec.ofNat 64 (n + 1))

/-- One visit of a walk over one graph. -/
def visitOne (x : EngCtx) (c : GCmd) (b : Table) : E Unit := do
  let va ← popWord x b
  let o ← readObject x (c.watch x) c.kind va.toNat
  let new ← discover x c b (o.pointers.map (·.2))
  visitStep x c b o
  for w in new.reverse do pushWord x b w
  countVisit x c b

/-- The tests of `gcmp` on a pair (R280), before its pointers are followed. -/
def pairDiff (a b : Obj) : Option Nat :=
  let words := (a.payload.zip b.payload).zip (List.range a.payload.length)
  if a.type.print ≠ b.type.print ∨ !a.type.like b.type then some 1
  else if getBits a.w0 0 32 ≠ getBits b.w0 0 32 then some 2
  else if a.image.getD 1 0 ≠ b.image.getD 1 0 then some 3
  else if words.any (fun p => !a.ptrs.contains p.2 && p.1.1 != p.1.2) then some 4
  else if words.any (fun p => a.ptrs.contains p.2 && ((p.1.1 == 0) != (p.1.2 == 0))) then some 5
  else none

/-- The pairs of targets without an index receive one; targets whose indices differ end the command (R280, detail 6). -/
def discoverPairs (x : EngCtx) (c : GCmd) (b : Table) : List (Word × Word) → E (List (Word × Word))
  | [] => pure []
  | (u, v) :: rest => do
    if u = 0 then discoverPairs x c b rest
    else do
      let eu ← lookup x b true u false
      let ev ← lookup x b true v true
      match eu, ev with
      | none, none => do
        let next ← walkGet x gNext
        insertEntry x b u false (c.kind.second next false)
        insertEntry x b v true (c.kind.second next true)
        walkPut x gNext (next + 1)
        let more ← discoverPairs x c b rest
        pure ((u, v) :: more)
      | some p, some q => if entryIndex p.2 = entryIndex q.2 then discoverPairs x c b rest else engFail 1 6
      | _, _ => engFail 1 6

/-- A visited object's entry takes the CRC of its image (R276). -/
def noteCrc (x : EngCtx) (b : Table) (o : Obj) (side : Bool) : E Unit := do
  match ← lookup x b true (BitVec.ofNat 64 o.va) side with
  | some (slot, w1) => writeSlot x b slot (BitVec.ofNat 64 o.va) ((w1 &&& ~~~0xFFFFFFFF#64) ||| (crc32c o.bytes).zeroExtend 64)
  | none => pure ()

/-- One visit of `gcmp`: a pair of objects. -/
def visitPair (x : EngCtx) (c : GCmd) (b : Table) : E Unit := do
  let v ← popWord x b
  let u ← popWord x b
  let p ← readObject x (c.watch x) .cmp u.toNat
  let q ← readObject x (c.watch x) .cmp v.toNat
  match pairDiff p q with
  | some d => engFail 1 d
  | none => do
    let new ← discoverPairs x c b ((p.pointers.map (·.2)).zip (p.ptrs.map (fun i => q.payload.getD i 0)))
    noteCrc x b p false
    noteCrc x b q true
    for w in new.reverse do
      pushWord x b w.1
      pushWord x b w.2
    countVisit x c b

/-- A failure during a walk: 4 OVERFLOW holds the table as it stood before the unit, any other empties it; a `gsend` tells
its receiver (R301). -/
def walkFails (x : EngCtx) (c : GCmd) (before : Eng) (code d : Nat) : E Unit' := do
  let visits ← walkGet x gVisits
  if code = 4 then do
    set before
    holdTable x c d
  else do
    if c.kind = .send then
      let tag ← walkGet x gTag
      sendGraph x (sendDev c.arena) (.graphAbort tag code d)
      let s ← engState
      engSet { s with sends := s.sends.filter (fun d => d.tag != tag) }
    graphEnd x c code d (if code = 1 then visits + 1 else visits)

/-- The walk is over: what remains before the status. -/
def walkDone (x : EngCtx) (c : GCmd) : E Unit' := do
  let visits ← walkGet x gVisits
  match c.kind with
  | .hash => do finishHash x; graphEnd x c 0 0 visits
  | .send => do
    let tag ← walkGet x gTag
    sendGraph x (sendDev c.arena) (.graphClose tag (c.roots.headD 0))
    let s ← engState
    engSet (s.onSend tag (fun d => { d with sent := s.tick, closed := true }))
    walkPut x gPhase 3
    pure (.go visits)
  | _ => graphEnd x c 0 0 visits

/-- The receiver's answer ends a `gsend` (R301, R302). PROGRESS counts the objects visited (R292); under TYPEMISMATCH those before the
object that the receiver names. -/
def sendAnswered (x : EngCtx) (c : GCmd) (tag : Nat) (a : Nat × Nat × Nat) : E Unit' := do
  let s ← engState
  engSet { s with sends := s.sends.filter (fun d => d.tag != tag) }
  let visits ← walkGet x gVisits
  graphEnd x c a.1 a.2.1 (if a.1 = 7 then a.2.2 else visits)

/-- One unit of a walking command: one object, or one pair. -/
def graphUnit (x : EngCtx) (c : GCmd) : E Unit' := do
  let x := { x with mine := some (c.key x) }
  let phase ← walkGet x gPhase
  let visits ← walkGet x gVisits
  let tag ← walkGet x gTag
  let s ← engState
  let answer : Option (Nat × Nat × Nat) := if c.kind = .send ∧ (phase = 1 ∨ phase = 3) then (s.sendOf tag).bind (·.answer) else none
  match answer, phase with
  | some a, _ => sendAnswered x c tag a
  | none, 0 => do
    -- a failure before the table is claimed ends the command at once
    let before ← get
    match ← engTry (startWalk x c) with
    | .ok r => pure r
    | .error (code, d) => do
      let claimed ← walkGet x gPhase
      if claimed = 1 then walkFails x c before code d else pure (.done code d 0)
  | none, 1 => do
    let before ← get
    let b ← walkTable x c.desc
    let depth ← walkGet x gDepth
    if depth = 0 then
      match ← engTry (walkDone x c) with
      | .ok r => pure r
      | .error (code, d) => walkFails x c before code d
    else match ← engTry (if c.kind = .cmp then visitPair x c b else visitOne x c b) with
      | .ok _ => pure (.go (visits + 1))
      | .error (code, d) => walkFails x c before code d
  | none, 2 => cleanUnit x c
  | none, _ => pure .idle

/-- A write of a graph command to another device has failed (R399). -/
def graphFailed (x : EngCtx) (c : GCmd) (f : Nat × Nat) : E Unit' := do
  let phase ← walkGet x gPhase
  let visits ← walkGet x gVisits
  let before ← get
  if phase = 2 ∨ phase = 0 then pure (.done f.1 f.2 visits) else walkFails x c before f.1 f.2

/-! ## gintake and gtype (R299, R303) -/

/-- The answer to a sender (R300): code, detail and progress. -/
def State.graphAnswer (s : State) (f : Frame) (tag code detail progress : Nat) : State :=
  s.sendFrame (s.newFrame 9 (answerLane f) f.src f.core 0 0 0 (.graphAnswer tag code detail progress))

/-- The senders that wait for an intake which is freed find none bound (R301). -/
def State.turnAway (s : State) (fs : List (Frame × Nat)) : State :=
  fs.foldl (fun s f => match f.1.payload with
    | .graphOpen tag _ => s.graphAnswer f.1 tag 12 3 0
    | _ => s) s

/-- The unit of `gintake`. A new binding keeps the senders that wait for the intake. DESIGN CHOICE (log 154): the order of the refusals. -/
def intakeUnit (x : EngCtx) (e : CeEntry) (index : Nat) (mbox : BitVec 3) : E Unit' := do
  let s ← engState
  let a := (ceOp e 0).toNat
  let slot := (s.intakes.getD index none)
  let foreign := match slot with
    | some k => k.asid != x.asid
    | none => false
  let busy := match slot with
    | some k => k.open'.isSome
    | none => false
  if !s.hasIntake then pure (.done 12 4 0)
  else if foreign then pure (.done 12 1 0)
  else if busy then pure (.done 12 2 0)
  else if a = 0 then do
    engSet { s.turnAway ((slot.map (·.queue)).getD []) with intakes := s.intakes.set index none }
    pure (.done 0 0 0)
  else if a % 64 ≠ 0 then pure (.done 13 5 0)
  else do
    let bs ← engRead x a 64
    let w := wordsOf bs
    if (w.getD 0 0).toNat % 64 ≠ 0 then pure (.done 13 5 0)
    else if (w.getD 1 0).toNat % 32 ≠ 0 then pure (.done 13 4 0)
    else if w.getD 7 0 ≠ 0 then pure (.done 12 3 0)
    else do
      engWrite x (a + 0x10) (bytesOfWord x.t.cbase ++ bytesOfNat 8 mbox.toNat)
      let s ← engState
      engSet { s with intakes := s.intakes.set index (some ⟨x.asid, ceOp e 0, none, (slot.map (·.queue)).getD []⟩) }
      pure (.done 0 0 0)

/-- The unit of `gtype`. -/
def typeUnit (x : EngCtx) (e : CeEntry) : E Unit' := do
  let s ← engState
  let a := (ceOp e 0).toNat
  if 2 ^ 32 ≤ a then pure (.done 13 1 0)
  else do
    let bs ← engRead x ((s.typeBase x.asid).toNat + 32 * a) 32
    let f := wordOfBytes (bs.take 8)
    pure (if f = 0 then .done 6 2 0 else if f = ceOp e 1 then .done 0 0 0 else .done 1 1 0)

end Sys2Proof.Machine
end

