-- ==== Sys2Proof/Machine/Translation.lean ====
section
/-! DEFINITION. The steps of translation and of page migration: a walk that ends (R323), a migration that ends, and the
hand-over between devices (R320). -/

namespace Sys2Proof.Machine

/-! ## Walks in flight (R323) -/

/-- A completed walk's entry in the TLB that serves it, unless that TLB has been filled meanwhile, and in its core's page-check
cache (R306, R309). -/
def State.fillWalk (s : State) (w : Walk) : State :=
  let k := tlbNumber w.asid w.va.toNat
  let s := if (s.tlbHit w.asid w.va.toNat).isSome then s
    else { s with memTlb := s.memTlb ++ [⟨k, w.asid, w.page, w.size, w.leaf, regionOf w.va.toNat⟩] }
  s.fillCheck (some w.core) w.asid w.page w.size w.leaf

/-- How a walk in flight goes on (R323): it fills; it has restarted from the root and read another leaf; it waits for a table node
that migrates (R315); or it fails, and fills nothing (R309). -/
inductive WalkStep where
  | fill (s : State) (w : Walk)
  | again (w : Walk)
  | wait
  | fail

/-- A walk whose epoch is still that of the device sets ACCESSED by compare-and-swap and fills; with the epoch or the entry changed, or
where it has read nothing yet, it starts from the root, and its leaf is checked again (R313, R323). -/
def State.walkStep (s : State) (w : Walk) : WalkStep :=
  if s.underMigration w.asid w.va.toNat then .wait
  else if w.size ≠ 0 ∧ w.epoch = s.epoch ∧ s.walkWord w.leafPA = w.leaf then
    let leaf := pteTouch w.leaf false
    .fill (if leaf = w.leaf then s else s.putEntry w.leafPA leaf) { w with leaf := leaf }
  else match s.walk w.asid w.va.toNat with
    | .leaf page size leaf leafPA =>
      if (Need.mk true false false w.user).granted leaf then
        .again { w with epoch := s.epoch, page := page, size := size, leaf := leaf, leafPA := leafPA }
      else .fail
    | .wait => .wait
    | _ => .fail

/-- A walk cannot go on yet. -/
def State.walkWaits (s : State) (w : Walk) : Bool := match s.walkStep w with
  | .wait => true
  | _ => false

/-- WALK_FILL of the n-th walk in flight (R323). -/
def execWalkFill (n : Nat) (s : State) : Host.Outcome State Fault Refusal :=
  match s.walks[n]? with
  | none => .next s
  | some w =>
    let rest := s.walks.eraseIdx n
    let read := s.readNodes w.asid w.va.toNat
    match s.walkStep w with
    | .fill s w => .next ({ s with walks := rest }.fillWalk w)
    | .again w => .next { read with walks := s.walks.set n w }
    | .wait => .next s
    | .fail => .next { read with walks := rest }

/-! ## Migration (R320) -/

/-- A `pgmig` that asked for a migration gets its status. -/
def State.migStatus (s : State) (m : Migration) (code detail progress : Nat) : State :=
  match m.asker with
  | some (id, d) => s.putStatus id d false (statusWord code detail progress)
  | none => s

/-- A migration ends without a move: the page is released with its leaf as it is. -/
def State.dropMigration (s : State) (n : Nat) : State := { s with migs := s.migs.eraseIdx n }

/-- A refusal of the peer: the page stays where it is and its counter restarts at 0; `pgmig` ends 12, detail 4. -/
def State.refuseMigration (s : State) (n : Nat) (m : Migration) : State :=
  ((s.dropMigration n).setPageCount m.asid m.page 0).migStatus m 12 4 0

/-- The old translation of a page leaves every store of the device, a GLOBAL one as well, and the TLB epoch advances. -/
def State.shootPage (s : State) (asid page size : Nat) (leaf : Word) : State :=
  let s := s.shootDown (.range asid page size)
  let s := if pteGlobal leaf then s.shootCopies (.range globalTag page size) else s
  let gone (e : TlbEntry) : Bool := e.hits asid page
  { s with pageCheck := s.pageCheck.filter (fun e => !gone e), memTlb := s.memTlb.filter (fun e => !gone e),
           egress := s.egress.filter (fun e => !gone e) }

/-- Ticks after which a peer that has not answered counts as refusing (R320). -/
def handOverTicks : Nat := 100000

/-- The watched lines of a page follow it to its new frame (R277). -/
def State.moveWatch (s : State) (old new size : Nat) : State :=
  if s.watched.isEmpty then s
  else { s with watched := s.watched.map (fun w =>
    if old / 256 ≤ w.2.2.1 ∧ w.2.2.1 < (old + size) / 256 then (w.1, w.2.1, new / 256 + (w.2.2.1 - old / 256), w.2.2.2) else w) }

/-- Watched lines that leave the device are reported: their later writes cannot be seen here (R277). -/
def State.loseWatch (s : State) (old size : Nat) : State :=
  if s.watched.isEmpty then s
  else { s with watched := s.watched.map (fun w =>
    if old / 256 ≤ w.2.2.1 ∧ w.2.2.1 < (old + size) / 256 then (w.1, w.2.1, w.2.2.1, true) else w) }

/-- A waiting segment has translated a page, GLOBAL or of its own ASID, which moves only after it (R253, R307, R320). -/
def State.segmentOn (s : State) (asid page size : Nat) (leaf : Word) : Bool :=
  s.segs.any (fun h => decide (h.page < page + size ∧ page < h.page + h.size)
    && (match s.thread? h.owner with
      | some t => s.asidOf t == asid || pteGlobal leaf
      | none => false))
/-- A waiting segment has translated the page of a migration. -/
def State.heldBySegment (s : State) (m : Migration) : Bool := s.segmentOn m.asid m.page m.size m.leaf

/-- Steps 3 to 5: the new frame is written, the leaf rewritten by compare-and-swap, the old translation removed, and the
record and the status written. A changed leaf abandons the migration (R320). -/
def State.moveIn (s : State) (n : Nat) (m : Migration) (bytes : List Byte) : State :=
  if s.walkWord m.leafPA ≠ m.leaf then (s.dropMigration n).migStatus m 0 0 0
  else
    let leaf := (BitVec.ofNat 32 m.frame ++ getBits m.leaf 8 24 ++ 0#2 ++ getBits m.leaf 0 6 : Word)
    let s := if pteMode m.leaf = 0 then s.moveWatch (pteFrame m.leaf * 4096) (m.frame * 4096) m.size else s
    let s := (s.putMem (m.frame * 4096) bytes).putEntry m.leafPA leaf
    let s := ((s.dropMigration n).shootPage m.asid m.page m.size m.leaf).event 0x05 m.asid (BitVec.ofNat 64 m.page) (BitVec.ofNat 64 m.frame)
    (s.migStatus m 0 0 m.size).wakeBarriers

/-- The frame lies in resident memory. -/
def State.framesResident (s : State) (pa size : Nat) : Bool :=
  decide (pa + size ≤ Config.hbmBytes) && (List.range (size / 4096)).all (fun i => s.resident (pa + 4096 * i))

/-- What a migration does next: none while the peer's answer is still due, or a waiting segment keeps the page. A frame that is not resident, or an
uncorrectable error in the old frame, ends it as a command that meets one (log 55). -/
def State.migrate (s : State) (n : Nat) (m : Migration) : Option State :=
  let old := pteFrame m.leaf * 4096
  if s.heldBySegment m then none
  else if !s.framesResident (m.frame * 4096) m.size then some ((s.dropMigration n).migStatus m 5 4 0)
  else if pteMode m.leaf = 0 then
    if s.badAt old m.size || !s.framesResident old m.size then some (((s.dropMigration n).retireRange old m.size).migStatus m 5 4 0)
    else some ((s.corrected old m.size).moveIn n m (s.readPA old m.size))
  else match m.data with
    | some bytes => some (s.moveIn n m bytes)
    | none => if m.asked + handOverTicks ≤ s.tick then some (s.refuseMigration n m) else none

/-- MIGRATION_COMPLETE of the n-th migration. -/
def execMigrationComplete (n : Nat) (s : State) : Host.Outcome State Fault Refusal :=
  match s.migs[n]? with
  | none => .next s
  | some m => .next ((s.migrate n m).getD s)

/-! ## The hand-over (R320 step 2) -/

/-- A packet with a reserved OP, or with a field that its OP does not have, is discarded and counted (R386). -/
def State.discard (s : State) : State := { s with discards := s.discards + 1 }

/-- A frame that must wait at this endpoint: it is tried again. -/
def State.keepFrame (s : State) (f : Frame) : State := { s with inbox := s.inbox ++ [f] }

/-- The answer to a frame, sent to its source with the request's core; its job is 0 (R386). -/
def State.answerFrame (s : State) (f : Frame) (op : Nat) (p : Payload) : State :=
  s.sendFrame (s.newFrame op (answerLane f) f.src f.core f.seq 0 f.gen p)

/-- The home of a page hands it over: its own leaf goes to mode 1 and names the new home, its translation is shot down,
and the page's bytes leave. None while the page migrates here, or while a waiting segment has translated it. The answer names the page
as the request did: the requester's ASID and the VA. -/
def State.handOver (s : State) (f : Frame) (asker : Nat) (va : Word) (size : Nat) : Option State :=
  let refuse (s : State) : State := s.answerFrame f 10 (.handOverRefused asker va)
  match s.asidOfJob f.job with
  | none => some (refuse s)
  | some asid =>
    if s.underMigration asid va.toNat then none
    else let s := s.readNodes asid va.toNat; match s.walk asid va.toNat with
      | .wait => none
      | .leaf page sz leaf pa =>
        let frame := pteFrame leaf * 4096
        if pteMode leaf ≠ 0 ∨ page ≠ va.toNat ∨ sz ≠ size ∨ s.framesResident frame sz = false then some (refuse s)
        else if s.badAt frame sz then some (refuse (s.scanned frame sz))
        else if s.segmentOn asid page sz leaf then none
        else
          let s := s.corrected frame sz
          let bytes := s.readPA frame sz
          let leaf' := (BitVec.setWidth 32 f.src ++ getBits leaf 8 24 ++ 1#2 ++ getBits leaf 0 6 : Word)
          let s := ((s.loseWatch frame sz).putEntry pa leaf').shootPage asid page sz leaf
          some (s.answerFrame f 10 (.handOverData asker va bytes))
      | _ => some (refuse s)

/-- The migration that awaits a peer's answer for a page. -/
def State.awaiting (s : State) (f : Frame) (asid : Nat) (va : Word) : Option Nat :=
  s.migs.findIdx? (fun m => m.page == va.toNat && pteMode m.leaf != 0 && ptePeer m.leaf == f.src && m.asid == asid && m.data.isNone)

/-- A hand-over frame; none while it must wait. -/
def State.takeHandOver (s : State) (f : Frame) : Option State :=
  match f.payload with
  | .handOverReq asid va size => s.handOver f asid va size
  | .handOverData asid va data =>
    match s.awaiting f asid va with
    | some n => some { s with migs := s.migs.modify n (fun m => { m with data := some data }) }
    | none => some s
  | .handOverRefused asid va =>
    match s.awaiting f asid va with
    | some n => match s.migs[n]? with
      | some m => some (s.refuseMigration n m)
      | none => some s
    | none => some s
  | _ => some s.discard

/-- MIGRATION_HAND_OVER. -/
def execMigrationHandOver (f : Frame) (s : State) : Host.Outcome State Fault Refusal :=
  .next ((s.takeHandOver f).getD (s.keepFrame f))

end Sys2Proof.Machine
end

