-- ==== Sys2Proof/Machine/Intake.lean ====
section
/-! DEFINITION. The receiving side of `gsend` (R298 to R302): opening an intake, taking objects, the delivery of the graph,
rolling back, and the senders that wait. -/

namespace Sys2Proof.Machine

/-! ## Running the receiver's accesses -/

/-- The task under which an intake's accesses run: only its ASID matters. -/
def intakeTask (asid : Nat) : Task :=
  { num := 0, asid := asid, card := 0, entry := 0, param := 0, gx := 1, gy := 1, gz := 1, size := 1, opaq := true,
    cores := false, spad := 0, bstore := 0, arena := 0, prio := 0, scope := 0, done := 0, value := 0, feet := [],
    edges := [], ready := true, readyAt := 0, formed := 1, retired := 0, prioEff := 0, ageFrom := 0, closing := false }

/-- The accesses of an intake: in the ASID it is bound to, at user level unless that ASID is privileged. -/
def State.intakeCtx (s : State) (asid : Nat) : EngCtx :=
  { t := Thread.spawned (intakeTask asid) 0 0 0, owner := .fill asid, asid := asid, core := 0, user := !s.asidPriv asid, mine := none }

/-- How a piece of the receiver's work ends: a value, a failure with CODE and DETAIL, or it must wait for a migration. -/
inductive Took (α : Type) where
  | ok (s : State) (x : α)
  | fail (s : State) (code detail : Nat)
  | wait

/-- The receiver's memory lies on its own device; another place ends as a page fault, with none of the work done. DESIGN CHOICE
(log 56). -/
def State.takeIn {α : Type} (s : State) (m : E α) : Took α :=
  match m { s := s } with
  | .ok a e => if e.out.isEmpty then .ok e.s a else .fail s 5 1
  | .error (.fail c d) e => if e.out.isEmpty then .fail e.s c d else .fail s c d
  | .error (.wait asks) _ => if asks.isEmpty then .wait else .fail s 5 1
  | .error (.atomic ..) _ | .error .again _ => .fail s 5 1

/-- Work whose failure changes nothing further. -/
def State.tryIn (s : State) (m : E Unit) : State :=
  match s.takeIn m with
  | .ok s _ => s
  | .fail s _ _ => s
  | .wait => s

/-! ## Answers -/

/-- The tag of a graph frame. -/
def graphTag : Payload → Option Nat
  | .graphOpen tag _ | .graphObject tag _ | .graphClose tag _ | .graphAbort tag _ _ => some tag
  | _ => none

/-- A graph frame belongs to an open transfer: a resumed `gsend` may come from another core (R287). -/
def Receive.takes (r : Receive) (f : Frame) : Bool := r.src == f.src && graphTag f.payload == some r.tag

/-- Two frames of one transfer. -/
def sameTransfer (f g : Frame) : Bool := f.src == g.src && graphTag f.payload == graphTag g.payload

def State.setIntake (s : State) (i : Nat) (k : Intake) : State := { s with intakes := s.intakes.set i (some k) }

/-! ## Tables and arenas of the receiver -/

/-- Bump, head and live count of an arena (R288). -/
def arenaWords (x : EngCtx) (va : Nat) : E (List Word) := do
  let a ← readArena x va
  pure [BitVec.ofNat 64 a.bump, a.head, a.live]

/-- The receiver's walk table and the arena, from the intake's descriptor. -/
def intakeParts (x : EngCtx) (desc : Nat) : E (Nat × Table) := do
  let bs ← engRead x desc 64
  let w := wordsOf bs
  let d := (w.getD 1 0).toNat
  let tw ← readDesc x d
  pure ((w.getD 0 0).toNat, ⟨d, (tw.getD 0 0).toNat, (getBits (tw.getD 1 0) 0 8).toNat⟩)

/-- A bit of the descriptor's word 0x18 that says OPEN. -/
def putOpen (x : EngCtx) (desc : Nat) (on : Bool) : E Unit := do
  let w ← engWord x (desc + 0x18)
  engPutWord x (desc + 0x18) (if on then w ||| 0x100 else w &&& ~~~0x100#64)

/-- The entries of the objects taken leave the table, and its used count is 0. -/
def emptyTable (x : EngCtx) (b : Table) (taken : List (Word × Word)) : E Unit := do
  let mut slots : List Nat := []
  for o in taken do
    match ← findSlot x b 0 false o.1 false b.slots (b.home o.1 false) with
    | some (slot, _) => slots := slots ++ [slot]
    | none => pure ()
  for slot in slots do writeSlot x b slot 0 0
  engWrite x (b.desc + 0x10) (List.replicate 16 0)

/-- The intake's last status (R298). -/
def putLast (x : EngCtx) (desc code detail progress : Nat) : E Unit := engPutWord x (desc + 0x30) (statusWord code detail progress)

/-! ## Rolling back (R301) -/

/-- The transfer of an intake is undone: the arena's words by one compare, the table, OPEN, and the status as it is sent, whose PROGRESS
counts the objects taken whole. -/
def State.rollBack (s : State) (i : Nat) (k : Intake) (r : Receive) (code detail : Nat) (whole : Nat := r.taken.length) : State :=
  let x := s.intakeCtx k.asid
  let desc := k.desc.toNat
  let s := s.tryIn (do
    let (arena, _) ← intakeParts x desc
    let now ← arenaWords x arena
    if now == r.wrote then
      engWrite x (arena + 0x10) (bytesOfWord (r.opened.getD 0 0) ++ bytesOfWord (r.opened.getD 1 0))
      engPutWord x (arena + 0x28) (r.opened.getD 2 0))
  let s := s.tryIn (do
    let (_, b) ← intakeParts x desc
    emptyTable x b r.taken)
  let s := s.tryIn (putOpen x desc false)
  let s := s.tryIn (putLast x desc code detail whole)
  s.setIntake i { k with open' := none }

/-! ## Opening (R300) -/

/-- What opening refuses, by the place where it failed: the descriptor, the table, the arena (R301). -/
inductive Opening where
  | desc | table | arena
  deriving DecidableEq, Repr

/-- A failure on the receiver's side as the sender's status gives it (R301). -/
def receiverCode (stage : Opening) (code detail : Nat) : Nat × Nat :=
  if code = 5 then (5, 0x10 + detail)
  else match stage with
    | .arena => (13, 6)
    | _ => (13, 7)

/-- The intake opens: OPEN is set and the walk table claimed (R276); the arena is checked (R288). -/
def openIntake (x : EngCtx) (desc : Nat) : E (Option (Opening × Nat × Nat) × List Word) := do
  match ← engTry (putOpen x desc true) with
  | .error (c, d) => pure (some (.desc, c, d), [])
  | .ok _ =>
    match ← engTry (do
      let bs ← engRead x desc 64
      let w := wordsOf bs
      let tw ← readDesc x (w.getD 1 0).toNat
      if (descRefusal tw).isSome || tw.getD 2 0 != 0 || tw.getD 3 0 != 0 then engFail 13 3
      let _ ← claimTable x (w.getD 1 0).toNat tw
      pure (w.getD 0 0).toNat) with
    | .error (c, d) => do
      let _ ← engTry (putOpen x desc false)
      pure (some (.table, c, d), [])
    | .ok arena =>
      match ← engTry (do
        checkArena x arena
        arenaWords x arena) with
      | .error (c, d) => pure (some (.arena, c, d), [])
      | .ok ws => pure (none, ws)

/-- An open frame reaches an intake that is free. -/
def State.openTransfer (s : State) (i : Nat) (k : Intake) (f : Frame) (tag : Nat) : Option State :=
  let x := s.intakeCtx k.asid
  let r : Receive := { src := f.src, core := f.core, tag := tag, taken := [], points := [], opened := [], wrote := [], last := s.tick, paused := none }
  match s.takeIn (openIntake x k.desc.toNat) with
  | .wait => none
  | .fail s c d => let (code, det) := receiverCode .desc c d; some (s.graphAnswer f tag code det 0)
  | .ok s (none, ws) => some (s.setIntake i { k with open' := some { r with opened := ws, wrote := ws } })
  | .ok s (some (stage, c, d), _) =>
    let (code, det) := receiverCode stage c d
    let s := if stage == .arena then s.rollBack i k r code det
      else if stage == .table then s.tryIn (putLast x k.desc.toNat code det 0) else s
    some (s.graphAnswer f tag code det 0)

/-! ## Objects -/

/-- One object is taken in: its type is checked, the table must have room, its place is allocated, its entry made and its image
written (R300). What fails after the allocation is returned with the transfer as it then stands, so that the arena can be restored
(R301). -/
def takeObject (x : EngCtx) (desc : Nat) (r : Receive) (o : SentObject) : E (Receive × Option (Nat × Nat)) := do
  let s ← engState
  let (arena, b) ← intakeParts x desc
  let w0 := o.image.headD 0
  let print ← engWord x ((s.typeBase x.asid).toNat + 32 * objType w0)
  if print = 0 ∨ print ≠ o.fingerprint then engFail 7 0
  let p := o.image.length - 2
  let ptrs ← if objBlob w0 then pure [] else
    match ← engTry (readType x (objType w0) p (.object p)) with
    | .ok k => pure ((List.range p).filter (k.isPointer p))
    | .error (c, d) => if c = 5 then engFail 5 d else engFail 7 0
  roomFor1 b r.taken.length 0
  let slot ← freeSlot x b 0 b.slots (b.home o.va false)
  match ← allocate x arena (objSize w0) with
  | none => engFail 13 6
  | some va => do
    let wrote ← arenaWords x arena
    let r' : Receive := { r with
      taken := r.taken ++ [(o.va, BitVec.ofNat 64 va)], points := r.points ++ [(BitVec.ofNat 64 va, ptrs)], wrote := wrote }
    match ← engTry (do
      writeSlot x b slot o.va (BitVec.ofNat 64 va)
      engPutWord x (b.desc + 0x10) (BitVec.ofNat 64 (r.taken.length + 2))
      engWrite x va (o.image.flatMap bytesOfWord)) with
    | .ok _ => pure (r', none)
    | .error f => pure (r', some f)

/-- The code of a failure while objects are taken (R301). -/
def objectCode (code detail : Nat) : Nat × Nat :=
  match code with
  | 5 => (5, 0x10 + detail)
  | 7 => (7, 0)
  | 4 => (13, 7)
  | _ => (13, 6)

/-! ## The delivery -/

/-- Every pointer word names the new place of the object it named (R300). -/
def rewritePointers (x : EngCtx) (r : Receive) : List (Word × List Nat) → E Unit
  | [] => pure ()
  | (va, ptrs) :: rest => do
    for i in ptrs do
      let w ← engWord x (va.toNat + 16 + 8 * i)
      match r.taken.lookup w with
      | some n => if w ≠ 0 then engPutWord x (va.toNat + 16 + 8 * i) n
      | none => pure ()
    rewritePointers x r rest

/-- The deposit of the new root into the receiving thread (R55), after those that the gang's ranks make in the same cycle (R56, log 131);
false where it is refused, none while the thread's mailbox migrates. -/
def State.depositRoot (s : State) (asid : Nat) (cbase : Word) (m : Nat) (root : Word) : Option (State × Bool) :=
  match s.threads.find? (fun t => t.cbase == cbase && s.asidOf t == asid) with
  | none => some (s, false)
  | some t => match (s.inOrder (.deposit t.id 32)).deposit t.id m root with
    | .done s => some (s, true)
    | .refused s _ => some (s, false)
    | .wait => none

/-- The graph is whole: pointers, descriptor words, the deposit, the table and OPEN. -/
def State.deliver (s : State) (i : Nat) (k : Intake) (r : Receive) (f : Frame) (root : Word) : Option State :=
  let x := s.intakeCtx k.asid
  let desc := k.desc.toNat
  let n := r.taken.length
  let root' := (r.taken.lookup root).getD 0
  match s.takeIn (do
      rewritePointers x r r.points
      let w ← engWord x (desc + 0x28)
      engWrite x (desc + 0x20) (bytesOfWord root' ++ bytesOfWord (w + 1))
      let bs ← engRead x desc 64
      pure (wordsOf bs)) with
  | .wait => none
  | .fail s c d =>
    let (code, det) := objectCode c d
    some ((s.rollBack i k r code det).graphAnswer f r.tag code det n)
  | .ok s ws =>
    match s.depositRoot k.asid (ws.getD 2 0) (getBits (ws.getD 3 0) 0 3).toNat root' with
    | none => none
    | some (s, took) =>
      let det := if took then 0 else 1
      let s := s.tryIn (putLast x desc 0 det n)
      let s := s.tryIn (do
        let (_, b) ← intakeParts x desc
        emptyTable x b r.taken)
      let s := s.tryIn (putOpen x desc false)
      some ((s.setIntake i { k with open' := none }).graphAnswer f r.tag 0 det n)

/-! ## Frames -/

/-- A frame of the open transfer of an intake. -/
def State.transferFrame (s : State) (i : Nat) (k : Intake) (r : Receive) (f : Frame) : Option State :=
  let r := { r with last := s.tick, paused := none }
  match f.payload with
  | .graphObject _ o =>
    match s.takeIn (takeObject (s.intakeCtx k.asid) k.desc.toNat r o) with
    | .wait => none
    | .ok s (r, none) => some (s.setIntake i { k with open' := some r })
    | .ok s (r', some (c, d)) =>
      let (code, det) := objectCode c d
      some ((s.rollBack i k r' code det r.taken.length).graphAnswer f r.tag code det r.taken.length)
    | .fail s c d =>
      let (code, det) := objectCode c d
      some ((s.rollBack i k r code det).graphAnswer f r.tag code det r.taken.length)
  | .graphClose _ root => s.deliver i k r f root
  | .graphAbort _ code detail =>
    if code = 4 then some (s.setIntake i { k with open' := some { r with paused := some s.tick } })
    else some (s.rollBack i k r code detail)
  | _ => some s

/-- Ticks of silence after which a transfer is given up, and of a pause. -/
def silenceTicks : Nat := 100000
def pauseTicks : Nat := 10000000

/-- A transfer waits for the intake. -/
def Intake.waitsFor (k : Intake) (f : Frame) : Bool := k.queue.any (fun g => sameTransfer f g.1)
/-- A frame waits behind the sender whose transfer is open, with the tick of its arrival. -/
def Intake.enqueue (k : Intake) (f : Frame) (now : Nat) : Intake := { k with queue := k.queue ++ [(f, now)] }
/-- A waiting transfer has been silent as long as its sender waits for an answer, and ends as an open one does (R301). -/
def Intake.silent (k : Intake) (now : Nat) (f : Frame) : Bool :=
  k.queue.all (fun g => !sameTransfer f g.1 || decide (g.2 + silenceTicks ≤ now))
/-- The frames of transfers that have not been silent for so long. -/
def Intake.heard (k : Intake) (now : Nat) : Intake := { k with queue := k.queue.filter (fun g => !k.silent now g.1) }

/-- The intake with the open transfer, or with a waiting one, to which a frame belongs. -/
def State.intakeOf (s : State) (f : Frame) : Option (Nat × Intake) :=
  (s.intakes.zip (List.range 64)).findSome? (fun p => match p.1 with
    | some k => if (k.open'.any (·.takes f)) || k.waitsFor f then some (p.2, k) else none
    | none => none)

/-- A graph frame in its stream's turn: served, or put behind the sender whose transfer is open (R300). None while it must
wait for a migration. -/
def State.receiveGraph (s : State) (f : Frame) : Option State :=
  match f.payload with
  | .graphOpen tag index =>
    if !s.hasIntake then some (s.graphAnswer f tag 12 4 0)
    else match s.intakes.getD index none with
      | none => some (s.graphAnswer f tag 12 3 0)
      | some k =>
        let k := k.heard s.tick
        if k.open'.isSome || !k.queue.isEmpty then some (s.setIntake index (k.enqueue f s.tick)) else s.openTransfer index k f tag
  | .graphObject tag _ | .graphClose tag _ | .graphAbort tag _ _ =>
    match s.intakeOf f with
    | some (i, k) =>
      if k.waitsFor f then some (s.setIntake i (k.enqueue f s.tick))
      else match k.open' with
        | some r => s.transferFrame i k r f
        | none => some s
    | none =>
      -- a transfer that the intake holds no more: its sender has its answer or ends by silence, unless its pause has expired
      if s.lapsed.contains (f.src, tag) then
        let s := { s with lapsed := s.lapsed.filter (fun p => p != (f.src, tag)) }
        match f.payload with
        | .graphAbort .. => some s
        | _ => some (s.graphAnswer f tag 2 3 0)
      else some s
  | _ => some s.discard

/-- The next waiting frame of an intake that may be served: the first, when no transfer is open, else the first of the open
one. -/
def State.intakeStep (s : State) (i : Nat) : Option State :=
  match (s.intakes.getD i none).map (fun k => k.heard s.tick) with
  | none => none
  | some k =>
    match k.open' with
    | none => match k.queue with
      | [] => none
      | (f, _) :: rest => match f.payload with
        | .graphOpen tag _ => (s.setIntake i { k with queue := rest }).openTransfer i { k with queue := rest } f tag
        | _ => some (s.setIntake i { k with queue := rest })
    | some r =>
      match k.queue.find? (fun g => r.takes g.1) with
      | none => none
      | some g =>
        let f := g.1
        let k := { k with queue := k.queue.erase g }
        (s.setIntake i k).transferFrame i k r f

/-! ## Timers (R301) -/

/-- GSEND_TIMEOUT: the sender of a closed transfer hears no answer, or the receiver of an open one hears nothing. -/
def execGsendTimeout (tag : Nat) (s : State) : Host.Outcome State Fault Refusal :=
  let s := match s.sendOf tag with
    | some d => if d.closed && d.answer.isNone && decide (d.sent + silenceTicks ≤ s.tick) then
        s.onSend tag (fun d => { d with answer := some (12, 5, 0) }) else s
    | none => s
  .next ((List.range 64).foldl (fun s i => match s.intakes.getD i none with
    | some k => match k.open' with
      | some r => if r.tag = tag ∧ r.paused = none ∧ r.last + silenceTicks ≤ s.tick then s.rollBack i k r 12 5 else s
      | none => s
    | none => s) s)

/-- INTAKE_PAUSE_EXPIRY: a paused intake is rolled back, and the transfer remembered for its sender's resumption (R301). -/
def execIntakePauseExpiry (index : Nat) (s : State) : Host.Outcome State Fault Refusal :=
  match s.intakes.getD index none with
  | some k => match k.open' with
    | some r => match r.paused with
      | some p => .next (if p + pauseTicks ≤ s.tick then { s.rollBack index k r 4 1 with lapsed := s.lapsed ++ [(r.src, r.tag)] } else s)
      | none => .next s
    | none => .next s
  | none => .next s

end Sys2Proof.Machine
end

