-- ==== Sys2Proof/Machine/Leaving.lean ====
section
/-! DEFINITION. What the device drops when a thread retires and when a task leaves (R37, R38, R72, R286). -/

namespace Sys2Proof.Machine

/-- What an operation under way belongs to: the thread that issued it. -/
def Owner.thread? : Owner → Option ThreadId
  | .thread t | .engine t | .matrix t | .flushHost t | .hostNr _ t | .rank t _ => some t
  | _ => none

/-- What the device keeps for threads ends with them; the watch entries of the walks that they left held end as well (R286). -/
def State.forget (s : State) (p : ThreadId → Bool) : State :=
  { s with pends := s.pends.filter (fun q => !q.owner.thread?.any p)
           watched := s.watched.filter (fun w => !s.heldTabs.any (fun h => p h.2.2.2 && h.1 == w.1 && h.2.1 == w.2.1))
           segs := s.segs.filter (fun h => !p h.owner)
           xpands := s.xpands.filter (fun w => !p w.1)
           deferred := s.deferred.filter (fun (d : Deferred) => !p d.owner) }

/-- A task leaves: its place, its threads and gangs; the tasks that had an edge from it may become ready. -/
def State.removeTask (s : State) (num : Nat) : State :=
  let mine (t : ThreadId) : Bool := t.task == num
  let s := (s.forget mine).codeSettled num
  { s with
    tasks := (s.tasks.filter (fun k => k.num != num)).map (fun k =>
      let edges := k.edges.filter (· != num)
      if !k.ready && edges.isEmpty then { k with edges := edges, ready := true, readyAt := s.tick, ageFrom := s.tick }
      else { k with edges := edges })
    gangs := s.gangs.filter (fun g => g.task != num)
    threads := s.threads.filter (fun t => !mine t.id)
    matched := s.matched.filter (fun m => m.1 != num)
    domains := s.domains.filter (fun d => !(d.level == 2 && d.key == num)) }

/-- The completion store of a task has failed: the record of R38. -/
def State.completionFailed (s : State) (k : Task) : State := s.event 0x0F k.asid k.card k.done

/-- The completion store of a task on another device has been performed, or has failed: then the task is complete (R38, R72). -/
def State.completionOver (s : State) (num : Nat) (failed : Bool) : State :=
  match s.task? num with
  | none => s
  | some k => if k.closing then (if failed then s.completionFailed k else s).removeTask num else s

end Sys2Proof.Machine
end

