-- ==== Sys2Proof/Machine/Ranks.lean ====
section
/-! DEFINITION. `mldr` and `mst` as they run (R360 to R363, R376 to R378): the requests to every rank, and the end once
every rank has answered, failed or been lost. -/

namespace Sys2Proof.Machine

/-! ## The reduction (R361) -/

/-- 64 BF16 elements, each widened to f32. -/
def widened (bs : List Byte) : List Nat := (chunks 2 bs).map (fun b => natOfBytes b * 2 ^ 16)

/-- One round of the combine. -/
def combineRound : List (List Nat) → List (List Nat)
  | a :: b :: rest => (a.zip b).map (fun p => (fpAdd .f32 .rne 0 p.1 p.2).1) :: combineRound rest
  | ys => ys

/-- Rounds until one vector is left. -/
def combine : Nat → List (List Nat) → List Nat
  | 0, ys => ys.headD []
  | fuel + 1, ys => match ys with
    | [y] => y
    | _ => combine fuel (combineRound ys)

/-! ## The end of a command -/

def State.rankCmd? (s : State) (tag : Nat) : Option RankCmd := s.rankCmds.find? (fun c => c.tag == tag)
def State.setRankCmd (s : State) (c : RankCmd) : State := { s with rankCmds := s.rankCmds.map (fun d => if d.tag = c.tag then c else d) }

/-- The missing ranks as a bitmap in a vector register (R362, R376). -/
def missingBits (ranks : List RankState) : VecBits :=
  ((ranks.zip (List.range ranks.length)).filter (fun p => match p.1 with
    | .missing _ => true
    | _ => false)).foldl (fun acc p => acc ||| (1#2048 <<< p.2)) 0

/-- DETAIL of the lowest missing rank. -/
def lowestMissing (ranks : List RankState) : Option Nat :=
  (ranks.filterMap (fun r => match r with
    | .missing d => some d
    | _ => none)).head?

/-- DETAIL of a rank whose device answered with a failure, or never (R362, R376). -/
def rankDetail (f : RemoteFail) : Nat :=
  match f.cause with
  | .remoteTimeout => 1
  | .remoteUnsup => 3
  | _ => 2

/-- The ranks of a command with their numbers. -/
def RankCmd.numbered (c : RankCmd) : List (RankState × Nat) := c.ranks.zip (List.range c.ranks.length)

/-- Ranks of an `mst` whose writes have all been acknowledged (R376): each rank by its own writes. -/
def State.ackRanks (s : State) (c : RankCmd) : RankCmd :=
  { c with ranks := c.numbered.map (fun p => match p.1 with
      | .waiting => if s.unackedBy (.rank c.owner p.2) then .waiting else .acked
      | r => r) }

/-- Some write of the thread's engine has not left, or is neither acknowledged nor lost. -/
def State.writesOut (s : State) (id : ThreadId) : Bool := s.unackedBy (.engine id)

/-- A command whose ranks have all come to an end, and whose writes are all answered, ends (R361, R362, R376). -/
def State.rankCheck (s : State) (tag : Nat) : State :=
  match s.rankCmd? tag with
  | none => s
  | some c =>
    match (s.thread? c.owner).bind (fun t => t.ceHead.bind (fun h => ceInstr h.2)) with
    | some i =>
      let c := match i with
        | .mst .. => s.ackRanks c
        | _ => c
      let s := s.setRankCmd c
      if c.ranks.any (fun r => r == .waiting) ∨ s.writesOut c.owner then s
      else
        let n := c.ranks.length
        let bad := lowestMissing c.ranks
        let answered := (c.ranks.filter (fun r => match r with
          | .missing _ => false
          | _ => true)).length
        let bits := missingBits c.ranks
        let writes : List RegWrite := match i with
          | .mldr _ _ b r _ =>
            [.vector r bits, if bad.isSome then .unpend b
              else .vector b (vecOfLanes 32 (combine 11 (c.ranks.map (fun r => match r with
                | .data bs => widened bs
                | _ => []))))]
          | .mst _ _ _ r _ _ _ => [.vector r bits]
          | _ => []
        let s := { s with rankCmds := s.rankCmds.filter (fun d => d.tag != tag) }
        match bad with
        | some d => s.endCe c.owner (fun _ _ => writes) 11 d answered
        | none => s.endCe c.owner (fun _ _ => writes) 0 0 n
    | none => s

/-- Every command of a thread looked at after an acknowledgement or a failure. -/
def State.ranksCheck (s : State) : State := (s.rankCmds.map (·.tag)).foldl State.rankCheck s

/-- A rank's outcome is noted, once. -/
def State.setRank (s : State) (tag rank : Nat) (r : RankState) : State :=
  match s.rankCmd? tag with
  | none => s
  | some c =>
    if c.ranks.getD rank .acked == .waiting then (s.setRankCmd { c with ranks := c.ranks.set rank r }).rankCheck tag else s

/-- A failed write of an `mst` makes its own rank missing (R376). -/
def State.failRank (s : State) (id : ThreadId) (r : Nat) (f : RemoteFail) : State :=
  match s.rankCmds.find? (fun c => decide (c.owner = id)) with
  | none => s
  | some c => s.setRankCmd { c with ranks := c.numbered.map (fun p =>
      if p.2 = r ∧ p.1 = .waiting then .missing (rankDetail f) else p.1) }

/-! ## The start -/

/-- The VA of a reduction or a multicast lies in the private half. -/
def privateHalf (va : Nat) : Bool := va.testBit 56 && decide (va < 2 ^ 57)

/-- The command has sent what it sends, and waits for its ranks; with none to wait for it ends in the same unit. -/
def startRanks (x : EngCtx) (devs : List (BitVec 16)) (ranks : List RankState) (tag : Nat) : E Unit' := do
  let s ← engState
  engSet { s with rankCmds := s.rankCmds ++ [⟨tag, x.t.id, devs, ranks, s.tick⟩] }
  pure (.go 0)

/-- The start of `mldr` (R360, R361): the issuing device's own ranks are read at once. -/
def mldrUnit (x : EngCtx) (va group : Nat) : E Unit' := do
  let s ← engState
  let devs := s.group group
  if va % 128 ≠ 0 then pure (.done 13 1 0)
  else if !privateHalf va then pure (.done 13 2 0)
  else if devs.isEmpty then pure (.done 13 3 0)
  else do
    let own ← if devs.contains s.devnum then engTry (engRead x va 128) else pure (.ok [])
    let ranks : List RankState := devs.map (fun d =>
      if d = s.devnum then (match own with
        | .ok bs => .data bs
        | .error _ => .missing 2)
      else if s.hasFabric then .waiting else .missing 3)
    let s ← engState
    let tag := s.stamp
    let s := { s with stamp := s.stamp + 1 }
    let s := (devs.zip (List.range devs.length)).foldl (fun s p =>
      if p.1 = s.devnum ∨ !s.hasFabric then s
      else s.sendFrame (s.newFrame 7 0 p.1 (BitVec.ofNat 16 x.core) 0 (s.jobOf x.t) 0 (.mldrReq tag p.2 (BitVec.ofNat 64 va)))) s
    engSet s
    startRanks x devs ranks tag

/-- The writes of an `mst` to its ranks on other devices leave, sector by sector, those for which a stream has no room when it has
(R365, R376). -/
def State.sendRanks (s : State) (x : EngCtx) (va : Nat) (bs : List Byte) (flush : Bool) (devs : List (BitVec 16)) : State :=
  (devs.zip (List.range devs.length)).foldl (fun s d =>
    if d.1 = s.devnum then s
    else ((chunks 32 bs).zip (List.range (bs.length / 32))).foldl (fun s c =>
      s.postOp ⟨x.core, d.1, .rank x.t.id d.2, s.jobOf x.t, x.asid, va + 32 * c.2, c.1, flush, s.tick⟩) s) s

/-- The start of `mst` (R376): the source is read, then every rank is written. -/
def mstUnit (x : EngCtx) (va src group n : Nat) (flush : Bool) : E Unit' := do
  let s ← engState
  let devs := s.group group
  if va % 32 ≠ 0 ∨ src % 32 ≠ 0 then pure (.done 13 1 0)
  else if !privateHalf va then pure (.done 13 2 0)
  else if devs.isEmpty then pure (.done 13 3 0)
  else if 4096 < va % 4096 + n then pure (.done 13 4 0)
  else do
    match ← engTry (engRead x src n) with
    | .error (c, d) => pure (.done c d 0)
    | .ok bs => do
      let s ← engState
      let own ← if devs.contains s.devnum then engTry (engWrite x va bs) else pure (.ok ())
      let ranks : List RankState := devs.map (fun d =>
        if d = s.devnum then (match own with
          | .ok _ => .acked
          | .error _ => .missing 2)
        else if s.hasFabric then .waiting else .missing 3)
      let s ← engState
      let tag := s.stamp
      let s := { s with stamp := s.stamp + 1 }
      engSet (if s.hasFabric then s.sendRanks x va bs flush devs else s)
      startRanks x devs ranks tag

end Sys2Proof.Machine
end

