-- ==== Sys2Proof/Machine/Frames.lean ====
section
/-! DEFINITION. Frames that reach this device, and the timers of the endpoints: remote requests at their target (R324,
R369, R371, R372), both ends of a stream (R365 to R368), answers, and barrier reports (R139). A frame that must wait, for a
migration or for its own forwarding, stays in the inbox. -/

namespace Sys2Proof.Machine

/-! ## The target of a request (R321, R324, R369) -/

/-- Where a request is served. -/
inductive Served where
  | here (s : State) (asid pa : Nat) (leaf : Word)
  | away (s : State) (asid size : Nat) (leaf : Word)
  | fail (s : State) (why : RemoteFail)
  | wait

/-- The translation of a request in the lowest valid ASID of its job (R324), checked by R313; a table fault is answered as
a page fault, with a record to this device's host (R314). `detail` is the DETAIL that the access kind gives (R328). -/
def State.targetOf (s : State) (f : Frame) (va : Nat) (r w : Bool) (detail n : Nat) : Served :=
  match s.asidOfJob f.job with
  | none => .fail s ⟨.page, detail⟩
  | some asid =>
    match s.translate none asid va ⟨r, w, false, !s.asidPriv asid⟩ with
    | .wait => .wait
    | .fault s c table pa =>
      .fail (if table then s.event 0x03 asid (BitVec.ofNat 64 va) (BitVec.ofNat 64 pa) else s) ⟨c, detail⟩
    | .ok s page size leaf =>
      if pteMode leaf = 0 then
        let pa := leafPA page leaf va
        if s.dataBad pa n && (r || !s.resident pa) then .fail (s.retireRange pa n) ⟨.dataErr, 1⟩ else .here s asid pa leaf
      else if f.forwarded ∨ ptePeer leaf = 0xFFFF then .fail s ⟨.page, detail⟩
      else .away s asid size leaf

/-- The FORWARDED record, at most one a page of an ASID in 10,000 ticks (R321). -/
def State.sayForwarded (s : State) (asid va size : Nat) (src : BitVec 16) : State :=
  let page := va / size * size
  if s.fwdSaid.any (fun p => p.1 == asid && p.2.1 == page && decide (s.tick < p.2.2 + 10000)) then s
  else
    let said := s.fwdSaid.filter (fun p => !(p.1 == asid && p.2.1 == page)) ++ [(asid, page, s.tick)]
    { s with fwdSaid := said }.event 0x06 asid (BitVec.ofNat 64 va) (src.setWidth 64)

/-- How far a forwarding has come. -/
inductive Forwarding where
  | sent (s : State)
  | answered (s : State) (a : Answer)

/-- The key of a request that is forwarded: its number in its stream, or its tag. -/
def forwardKey (f : Frame) : Nat :=
  match f.payload with
  | .loadReq tag .. | .mldrReq tag .. => 65536 + tag
  | _ => f.seq.toNat

def forwardOwner (f : Frame) : Owner := .forward f.src f.core (forwardKey f)

/-- What a forwarded request asks. -/
def forwardAsked : Payload → Asked
  | .loadReq _ va n _ => .bytes va n
  | .mldrReq _ _ va => .bytes va 128
  | .store va .. => .atomic va
  | .atomic _ _ _ va .. => .atomic va
  | _ => .atomic 0

/-- The payload of a request with the tag that the forwarding device gives it. -/
def retag (tag : Nat) : Payload → Payload
  | .loadReq _ va n c => .loadReq tag va n c
  | .mldrReq _ rank va => .mldrReq tag rank va
  | .atomic _ k ty va b c nr fl => .atomic tag k ty va b c nr fl
  | p => p

/-- A request goes on, once, to the device that the leaf names: a store or atomic in this device's own stream of the same
core number, a read outside the streams (R321, R324). It counts as served when the new home has answered, and as one line request of
the page (R318). -/
def State.forward (s : State) (f : Frame) (asid va size : Nat) (leaf : Word) : Forwarding :=
  let o := forwardOwner f
  let dev := ptePeer leaf
  let began (s : State) : State × Nat :=
    ((s.countRequest asid va size leaf).sayForwarded asid va size f.src).addPend o (forwardAsked f.payload)
  match s.pend? o (forwardAsked f.payload) with
  | some p => match p.answer with
    | some a => .answered (s.dropPends o) a
    | none => .sent s
  | none =>
    let core := f.core.toNat % Config.cores
    match f.payload with
    | .store .. | .atomic .. =>
      if !s.canSend core dev 1 then .sent s
      else
        let (s, tag) := began s
        let x := s.txOf core dev
        let g : Frame := { (s.newFrame f.op 0 dev (BitVec.ofNat 16 core) x.sent f.job x.gen (retag tag f.payload)) with forwarded := true }
        .sent ((s.setTx { x with sent := x.sent + 1, unacked := x.unacked ++ [⟨g, o, s.tick, s.tick, s.tick⟩] }).sendFrame g)
    | _ =>
      let (s, tag) := began s
      .sent (s.sendFrame { (s.newFrame f.op 0 dev (BitVec.ofNat 16 core) 0 f.job 0 (retag tag f.payload)) with forwarded := true })

/-! ## Loads at the target (R369, R361) -/

/-- The answer to a load: a whole line of a compressible page travels compressed (R265 to R267). -/
def State.loadAnswerOf (s : State) (tag : Nat) (fetches : Bool) (leaf : Word) (bs : List Byte) : Payload :=
  if fetches && bs.length == 256 then
    let (code, p) := if leaf.getLsbD 11 && s.feature 3 then compressLine bs else (0, bs)
    .lineAns tag code p
  else .loadAns tag bs

/-- What a failed or forwarded read answers. -/
def readAnswer (tag : Nat) : Answer → Payload
  | .data bs => .loadAns tag bs
  | .old v => .loadAns tag (bytesOfWord v)
  | .fail why => .loadFail tag why

/-- A load request; none while it must wait. -/
def State.serveLoad (s : State) (f : Frame) : Option State :=
  match f.payload with
  | .loadReq tag va n fetches =>
    match s.targetOf f va.toNat true false 1 n with
    | .wait => none
    | .fail s why => some (s.answerFrame f 1 (.loadFail tag why))
    | .here s asid pa leaf =>
      some ((s.corrected pa n).answerFrame f 1 (s.loadAnswerOf tag fetches leaf (s.readVia (viaOf asid va.toNat leaf) pa n)))
    | .away s asid size leaf =>
      match s.forward f asid va.toNat size leaf with
      | .sent s => some (s.keepFrame f)
      | .answered s a => some (s.answerFrame f 1 (readAnswer tag a))
  | _ => some s.discard

/-- LOAD_REQUEST. -/
def execLoadRequest (f : Frame) (s : State) : Host.Outcome State Fault Refusal := .next ((s.serveLoad f).getD (s.keepFrame f))

/-- What a forwarded `mldr` read answers. -/
def rankAnswer (tag rank : Nat) : Answer → Payload
  | .data bs => .mldrAns tag rank bs
  | .old _ => .mldrFail tag rank 2
  | .fail why => .mldrFail tag rank (rankDetail why)

/-- An `mldr` read: 128 bytes, or the DETAIL of a missing rank (R361, R362). -/
def State.serveRank (s : State) (f : Frame) : Option State :=
  match f.payload with
  | .mldrReq tag rank va =>
    if !s.hasFabric then some (s.answerFrame f 8 (.mldrFail tag rank 3))
    else match s.targetOf f va.toNat true false 1 128 with
      | .wait => none
      | .fail s _ => some (s.answerFrame f 8 (.mldrFail tag rank 2))
      | .here s asid pa leaf =>
        some ((s.corrected pa 128).answerFrame f 8 (.mldrAns tag rank (s.readVia (viaOf asid va.toNat leaf) pa 128)))
      | .away s asid size leaf =>
        match s.forward f asid va.toNat size leaf with
        | .sent s => some (s.keepFrame f)
        | .answered s a => some (s.answerFrame f 8 (rankAnswer tag rank a))
  | _ => some s.discard

/-- MLDR_READ. -/
def execMldrRead (f : Frame) (s : State) : Host.Outcome State Fault Refusal := .next ((s.serveRank f).getD (s.keepFrame f))

/-! ## Stream operations at the target (R365, R371, R372) -/

/-- How an operation in its stream's turn ends. -/
inductive Applied where
  | wait (s : State)
  | done (s : State) (fail : Option RemoteFail)
  | result (s : State) (tag : Nat) (old : Except RemoteFail Word)

/-- A store, an atomic or a graph frame is performed (R369, R371). -/
def State.applyOp (s : State) (f : Frame) : Applied :=
  match f.payload with
  | .store va data _ =>
    match s.targetOf f va.toNat false true 2 data.length with
    | .wait => .wait s
    | .fail s why => .done s (some why)
    | .here s asid pa leaf =>
      .done ((s.atHome pa (remoteStoreRank f.src.toNat f.core.toNat f.seq.toNat)).storeHome (viaOf asid va.toNat leaf) pa data none) none
    | .away s asid size leaf =>
      match s.forward f asid va.toNat size leaf with
      | .sent s => .wait s
      | .answered s (.fail why) => .done s (some why)
      | .answered s _ => .done s none
  | .atomic tag kind ty va b c nr _ =>
    let fail (s : State) (why : RemoteFail) : Applied := if nr then .done s (some why) else .result s tag (.error why)
    if !s.hasFabric then fail s ⟨.remoteUnsup, 2⟩
    else match s.targetOf f va.toNat true true 3 ty.bytes with
      | .wait => .wait s
      | .fail s why => fail s why
      | .here s asid pa leaf =>
        let via := viaOf asid va.toNat leaf
        let s := (s.corrected pa ty.bytes).atHome pa (remoteAtomicRank f.src.toNat f.core.toNat f.seq.toNat)
        let m := natOfBytes (s.readVia via pa ty.bytes)
        let s := s.storeHome via pa (bytesOfNat ty.bytes (atomicNew kind ty m (b.toNat % 2 ^ ty.width) (c.toNat % 2 ^ ty.width))) none
        if nr then .done s none else .result s tag (.ok (BitVec.ofNat 64 m))
      | .away s asid size leaf =>
        match s.forward f asid va.toNat size leaf with
        | .sent s => .wait s
        | .answered s (.fail why) => fail s why
        | .answered s (.old v) => if nr then .done s none else .result s tag (.ok v)
        | .answered s (.data _) => if nr then .done s none else .result s tag (.error ⟨.remoteTimeout, 0⟩)
  | .graphOpen .. | .graphObject .. | .graphClose .. | .graphAbort .. =>
    match s.receiveGraph f with
    | some s => .done s none
    | none => .wait s
  | _ => .done s.discard none

/-- The target's end of a stream. -/
def State.rx? (s : State) (src core : BitVec 16) : Option RxStream := s.rx.find? (fun r => r.src == src && r.core == core)
def State.rxOf (s : State) (src core : BitVec 16) : RxStream :=
  (s.rx? src core).getD { src := src, core := core, next := 0, gen := 0, window := [], since := 0, last := s.tick, fails := [] }
def State.setRx (s : State) (r : RxStream) : State :=
  if (s.rx? r.src r.core).isSome then { s with rx := s.rx.map (fun q => if q.src = r.src ∧ q.core = r.core then r else q) }
  else { s with rx := s.rx ++ [r] }

/-- A cumulative acknowledgement of everything applied (R366), on the answer lane of what brought it about (R394). The failures of the last
256 numbers travel with it (log 23). -/
def State.sendAck (s : State) (r : RxStream) (lane : Nat) : State :=
  (s.setRx { r with since := 0 }).sendFrame (s.newFrame 5 lane r.src r.core 0 0 r.gen (.ack r.next r.fails))

/-- An operation carries the flush bit (R367). -/
def hasFlush : Payload → Bool
  | .store _ _ fl => fl
  | .atomic _ _ _ _ _ _ _ fl => fl
  | _ => false

/-- The operation numbered `next` has been applied. -/
def RxStream.advance (r : RxStream) (fail : Option RemoteFail) : RxStream :=
  let fails := match fail with
    | some why => r.fails ++ [(r.next, why)]
    | none => r.fails
  { r with next := r.next + 1, since := r.since + 1, window := r.window.filter (fun g => g.seq != r.next)
           fails := fails.filter (fun p => decide ((r.next + 1 - p.1).toNat ≤ 256)) }

/-- The held entries that are in sequence are applied (R365). -/
def State.drainStream (s : State) (src core : BitVec 16) : Nat → State
  | 0 => s
  | fuel + 1 =>
    let r := s.rxOf src core
    match r.window.find? (fun f => f.seq == r.next) with
    | none => s
    | some f =>
      match s.applyOp f with
      | .wait s => s
      | .done s fail =>
        let r := (s.rxOf src core).advance fail
        let s := s.setRx r
        let s := if hasFlush f.payload ∨ 64 ≤ r.since then s.sendAck r (answerLane f) else s
        s.drainStream src core fuel
      | .result s tag old =>
        let r := { (s.rxOf src core).advance none with since := 0 }
        let s := s.setRx r
        let p : Payload := match old with
          | .ok v => .atomicAns tag v r.next r.fails
          | .error why => .atomicFail tag why r.next r.fails
        (s.sendFrame (s.newFrame 4 (answerLane f) r.src r.core f.seq 0 r.gen p)).drainStream src core fuel

/-- An arrival of a stream (R365, R368). -/
def State.streamArrive (s : State) (f : Frame) : State :=
  let r := { s.rxOf f.src f.core with last := s.tick }
  let ahead := (f.gen - r.gen).toNat
  let r := if f.gen ≠ r.gen ∧ f.seq = 0 ∧ ahead < 128 then { r with gen := f.gen, next := 0, window := [], since := 0, fails := [] } else r
  if f.gen ≠ r.gen then s
  else
    let d := (f.seq - r.next).toNat
    if d < 64 then
      let r := if r.window.any (fun g => g.seq == f.seq) then r else { r with window := r.window ++ [f] }
      (s.setRx r).drainStream f.src f.core 64
    else if d < 32768 then
      (s.setRx r).sendFrame (s.newFrame 6 (answerLane f) f.src f.core 0 0 r.gen (.resend r.next))
    else (s.setRx r).sendAck r (answerLane f)

/-- STORE_FRAME. -/
def execStoreFrame (f : Frame) (s : State) : Host.Outcome State Fault Refusal :=
  match f.payload with
  | .store .. => .next (s.streamArrive f)
  | _ => .next s.discard

/-- ATOMIC_FRAME. -/
def execAtomicFrame (f : Frame) (s : State) : Host.Outcome State Fault Refusal :=
  match f.payload with
  | .atomic .. => .next (s.streamArrive f)
  | _ => .next s.discard

/-- GRAPH_TRANSFER: a frame of the sender in its stream, or the receiver's answer (R300). -/
def execGraphTransfer (f : Frame) (s : State) : Host.Outcome State Fault Refusal :=
  match f.payload with
  | .graphOpen .. | .graphObject .. | .graphClose .. | .graphAbort .. => .next (s.streamArrive f)
  | .graphAnswer tag code detail progress =>
    .next (s.onSend tag (fun d => if d.dev = f.src ∧ d.answer.isNone then { d with answer := some (code, detail, progress) } else d))
  | _ => .next s.discard

/-- ACK_TIMER: applied operations unacknowledged and no arrival for 1,000 ticks (R366). -/
def execAckTimer (src core : BitVec 16) (s : State) : Host.Outcome State Fault Refusal :=
  match s.rx? src core with
  | some r => .next (if r.since ≠ 0 ∧ r.last + 1000 ≤ s.tick then s.sendAck r 1 else s)
  | none => .next s

/-! ## The sender's end (R366, R368, R370) -/

/-- A request's answer, the first one to come (R369). -/
def State.answerPend (s : State) (tag : Nat) (a : Answer) : State :=
  { s with pends := s.pends.map (fun p => if p.tag = tag ∧ p.answer = none then { p with answer := some a } else p) }

/-- A failure in a stream's error word (R370). -/
def TxStream.fail (x : TxStream) (why : RemoteFail) : TxStream :=
  { x with fails := min 65535 (x.fails + 1)
           edetail := if x.ecode = 0 then why.detail else x.edetail
           ecode := if x.ecode = 0 then Cause.num why.cause else x.ecode }

/-- A `gsend` whose frame the target has not acknowledged has had no answer from it (R301). -/
def State.sendSilent (s : State) (tag : Nat) : State :=
  s.onSend tag (fun d => if d.answer.isNone then { d with answer := some (12, 5, 0) } else d)

/-- An operation has failed: in the stream's word, in its engine's command, for its rank or its task, or for the request that it
forwarded. -/
def State.opFailed (s : State) (core : Nat) (dev : BitVec 16) (u : TxOp) (why : RemoteFail) : State :=
  let word (s : State) : State := s.setTx ((s.txOf core dev).fail why)
  match u.owner with
  | .engine _ => match graphTag u.frame.payload with
    | some tag => if why.cause == .remoteTimeout then (word s).sendSilent tag else (word s).noteEngFailure u.owner why
    | none => (word s).noteEngFailure u.owner why
  | .rank id r => (word s).failRank id r why
  | .completion num => (word s).completionOver num true
  | .matrix _ => (word s).noteEngFailure u.owner why
  | .forward .. => { s with pends := s.pends.map (fun p => if p.owner = u.owner ∧ p.answer = none then { p with answer := some (.fail why) } else p) }
  | _ => word s

/-- An operation has been applied. -/
def State.opApplied (s : State) (u : TxOp) : State :=
  match u.owner, u.frame.payload with
  | .completion num, _ => s.completionOver num false
  | .forward .., .atomic _ _ _ _ _ _ false _ => s
  | .forward .., _ => { s with pends := s.pends.map (fun p => if p.owner = u.owner ∧ p.answer = none then { p with answer := some (.data []) } else p) }
  | _, _ => s

/-- What an acknowledgement or a loss may let go on: writes that wait for room, barriers and rank commands. -/
def State.streamsMoved (s : State) : State := s.pump.ranksCheck.domainsCheck

/-- A cumulative acknowledgement with the failures it reports (R366, R369). -/
def State.takeAck (s : State) (f : Frame) (next : BitVec 16) (fails : List (BitVec 16 × RemoteFail)) : State :=
  match s.tx? f.core.toNat f.src with
  | none => s
  | some x =>
    let k := (next - x.acked).toNat
    if f.gen ≠ x.gen ∨ x.unacked.length < k then s
    else
      let gone := x.unacked.take k
      let s := s.setTx { x with acked := next, unacked := x.unacked.drop k }
      (gone.foldl (fun s u => match fails.lookup u.frame.seq with
        | some why => s.opFailed x.core x.dev u why
        | none => s.opApplied u) s).streamsMoved

/-- STREAM_ACKNOWLEDGEMENT: an acknowledgement, or the sender's wish for one. -/
def execStreamAcknowledgement (f : Frame) (s : State) : Host.Outcome State Fault Refusal :=
  match f.payload with
  | .ack next fails => .next (s.takeAck f next fails)
  | .ackRequest => match s.rx? f.src f.core with
    | some r => .next (if r.gen = f.gen then s.sendAck r (answerLane f) else s)
    | none => .next s
  | _ => .next s.discard

/-- ATOMIC_ANSWER: the result, and the acknowledgement that travels with it (R366). -/
def execAtomicAnswer (f : Frame) (s : State) : Host.Outcome State Fault Refusal :=
  match f.payload with
  | .atomicAns tag old next fails => .next ((s.answerPend tag (.old old)).takeAck f next fails)
  | .atomicFail tag why next fails => .next ((s.answerPend tag (.fail why)).takeAck f next fails)
  | _ => .next s.discard

/-- Operations sent again. -/
def State.resendOps (s : State) (x : TxStream) (p : TxOp → Bool) : State :=
  let s' := s.setTx { x with unacked := x.unacked.map (fun u => if p u then { u with last := s.tick } else u) }
  (x.unacked.filter p).foldl (fun s u => s.sendFrame u.frame) s'

/-- RESEND_REQUEST: the sender resends from a number on (R365). -/
def execResendRequest (f : Frame) (s : State) : Host.Outcome State Fault Refusal :=
  match f.payload with
  | .resend next =>
    match s.tx? f.core.toNat f.src with
    | some x => .next (if x.gen = f.gen then s.resendOps x (fun u => decide ((u.frame.seq - next).toNat < 32768)) else s)
    | none => .next s
  | _ => .next s.discard

/-- STREAM_RESEND: operations unacknowledged 10,000 ticks after they were last sent (R368). -/
def execStreamResend (core : Nat) (dev : BitVec 16) (s : State) : Host.Outcome State Fault Refusal :=
  match s.tx? core dev with
  | some x => .next (if x.unacked.any (fun u => decide (u.last + 10000 ≤ s.tick)) then s.resendOps x (fun u => decide (u.last + 10000 ≤ s.tick)) else s)
  | none => .next s

/-- The tag under which a returning atomic waits. -/
def returningTag : Payload → Option Nat
  | .atomic tag _ _ _ _ _ false _ => some tag
  | _ => none

/-- STREAM_LOST: an operation unacknowledged 100,000 ticks after it was first sent: all are lost, and the stream starts
again with the next generation (R368). -/
def execStreamLost (core : Nat) (dev : BitVec 16) (s : State) : Host.Outcome State Fault Refusal :=
  match s.tx? core dev with
  | none => .next s
  | some x =>
    if x.unacked.all (fun u => !decide (u.first + 100000 ≤ s.tick)) then .next s
    else
      let why : RemoteFail := ⟨.remoteTimeout, 0⟩
      let s := s.setTx { x with unacked := [], sent := 0, acked := 0, gen := x.gen + 1 }
      .next (x.unacked.foldl (fun s u =>
        let s := match returningTag u.frame.payload with
          | some tag => s.answerPend tag (.fail why)
          | none => s
        s.opFailed core dev u why) s).streamsMoved

/-! ## Answers to reads (R369, R317) -/

/-- The line of a prefetch that has come fills the local copies, if its page is still of mode 2 (R178, R317). -/
def State.fillLine (s : State) (asid va : Nat) (p : Pending) (bs : List Byte) : State :=
  match s.walk asid va with
  | .leaf _ size leaf _ => 
    let w : Wanted := ⟨ptePeer leaf, va, bs.length, size, leaf⟩
    if s.mayFill 0 w p then (s.staleOthers p.tag va bs.length).fillCopies asid p.epoch w bs else s
  | _ => s

/-- The answer to a read; one that finds its request already answered is discarded. -/
def State.readAnswered (s : State) (tag : Nat) (a : Answer) : State :=
  match s.pends.find? (fun p => p.tag == tag) with
  | some p => match p.owner, p.asked with
    | .fill asid, .bytes va _ =>
      let s := { s with pends := s.pends.filter (fun q => q.tag != tag) }
      match a with
      | .data bs => s.fillLine asid va.toNat p bs
      | _ => s
    | _, _ => s.answerPend tag a
  | none => s

/-- LOAD_ANSWER: plain, a compressed line (R266, R267), or a failure. -/
def execLoadAnswer (f : Frame) (s : State) : Host.Outcome State Fault Refusal :=
  match f.payload with
  | .loadAns tag data => .next (s.readAnswered tag (.data data))
  | .lineAns tag code data => .next (s.readAnswered tag (match expandLine code data with
    | some bs => .data bs
    | none => .fail ⟨.dataErr, 1⟩))
  | .loadFail tag why => .next (s.readAnswered tag (.fail why))
  | _ => .next s.discard

/-- MLDR_ANSWER: a rank's bytes, or why they are missing; the answer to a forwarded read goes to whom it was forwarded for. -/
def execMldrAnswer (f : Frame) (s : State) : Host.Outcome State Fault Refusal :=
  match f.payload with
  | .mldrAns tag rank data => .next (if (s.rankCmd? tag).isSome then s.setRank tag rank (.data data) else s.answerPend tag (.data data))
  | .mldrFail tag rank detail =>
    .next (if (s.rankCmd? tag).isSome then s.setRank tag rank (.missing detail)
      else s.answerPend tag (.fail ⟨if detail = 3 then .remoteUnsup else if detail = 1 then .remoteTimeout else .page, 1⟩))
  | _ => .next s.discard

/-- A request's time is over: a read, or an atomic whose stream no longer holds it (R368, R369). -/
def State.pendOver (s : State) (p : Pending) : Bool :=
  p.answer.isNone && decide (p.sent + 100000 ≤ s.tick) && (match p.asked, p.owner with
    | .bytes _ n, .flushHost _ => n != 0
    | .bytes _ n, _ => n != 0
    | .atomic _, .hostNr .. => false
    | .atomic _, .forward .. => !(s.tx.any (fun x => x.unacked.any (fun u => decide (u.owner = p.owner))))
    | .atomic _, _ => !(s.tx.any (fun x => x.unacked.any (fun u => returningTag u.frame.payload == some p.tag))))

/-- REMOTE_LOAD_TIMEOUT: no answer 100,000 ticks after the request (R369). -/
def execRemoteLoadTimeout (tag : Nat) (s : State) : Host.Outcome State Fault Refusal :=
  match s.pends.find? (fun p => p.tag == tag) with
  | some p => .next (if s.pendOver p then s.readAnswered tag (.fail ⟨.remoteTimeout, 0⟩) else s)
  | none => .next s

/-- A running command reads its ranks. -/
def State.isMldr (s : State) (c : RankCmd) : Bool :=
  match (s.thread? c.owner).bind (fun t => t.ceHead.bind (fun h => ceInstr h.2)) with
  | some (.mldr ..) => true
  | _ => false

/-- MLDR_RANK_TIMEOUT: a rank that has not answered within 100,000 ticks is missing (R362). -/
def execMldrRankTimeout (tag rank : Nat) (s : State) : Host.Outcome State Fault Refusal :=
  match s.rankCmd? tag with
  | some c => .next (if s.isMldr c && decide (c.sent + 100000 ≤ s.tick) then s.setRank tag rank (.missing 1) else s)
  | none => .next s

/-! ## Domain barriers (R139) -/

/-- DOMAIN_BARRIER_REPORT: a device has reported its arrival at a phase. -/
def execDomainBarrierReport (f : Frame) (s : State) : Host.Outcome State Fault Refusal :=
  match f.payload with
  | .barrierReport level job phase =>
    .next (if level ≠ 4 ∧ level ≠ 5 then s else (s.noteReport f.src level job.toNat phase).domainsCheck)
  | _ => .next s.discard

end Sys2Proof.Machine
end

