-- ==== Sys2Proof/Machine/Barrier.lean ====
section
/-! DEFINITION. Fences and barrier words, major 0x51 (R183 to R188). -/

namespace Sys2Proof.Machine

/-! ## Barrier words (R184) -/

def barPhase (w : Word) : BitVec 24 := getBits w 40 24
def barExpect (w : Word) : Nat := (getBits w 20 20).toNat
def barArrived (w : Word) : Nat := (getBits w 0 20).toNat

/-- The word after an arrival, and whether it completes the phase (R185). -/
def barArrive (w : Word) : Word × Bool :=
  if barExpect w ≤ barArrived w + 1 then ((barPhase w + 1) ++ BitVec.ofNat 20 (barExpect w) ++ 0#20, true) else (w + 1, false)

/-- The checked barrier word of an instruction (R184, R188): its element and what it holds. -/
def withBarWord (s : State) (t : Thread) (a : Acc) (m : MemOp) (hi : Option (BitVec 32)) (k : State → Elem → Word → Res) : Res :=
  withElems s t a m.space 8 [(0, (effAddr t m hi).toNat)] (fun _ => some ((t.s m.index).toNat, 32)) (fun s es =>
    match es with
    | [] => .ok s t
    | e :: _ => if (s.firstBad t 8 es).isSome then let (s, i) := s.elemErr t 8 e; .trap s i
      else match e.place with
      | .hbm pa leaf => k (s.corrected pa 8) e (wordOfBytes (s.readVia (viaOf (s.asidOf t) e.addr leaf) pa 8))
      | .pad key => k s e (wordOfBytes (s.padRead t key 8))
      | .peer dev _ _ => .trap s (remoteTrap ⟨.remoteUnsup, (s.unreachable dev).getD 0⟩ 3 e.addr 0)
      | .ctx _ => .trap s { cause := .illegal, detail := 7 })

/-- A barrier word written where it lies; every thread blocked on it looks again (R185, R187). -/
def State.putBarWord (s : State) (t : Thread) (e : Elem) (w : Word) : State :=
  match e.place with
  | .hbm pa leaf =>
    (s.atHome pa (localAtomicRank ((s.coreOf t).getD 0))).storeHome (viaOf (s.asidOf t) e.addr leaf) pa (bytesOfWord w) none
  | .pad key => s.storePad t key (bytesOfWord w) (localAtomicRank ((s.coreOf t).getD 0))
  | _ => s

/-- The saved-wait area of a thread blocked on a barrier word (R141). -/
def savedBarWait (space : Space) (addr : Nat) (p : BitVec 24) : List Word :=
  [BitVec.ofNat 5 0 ++ BitVec.ofNat 2 (spaceCode space) ++ BitVec.ofNat 57 addr, p.zeroExtend 64, 0, 0]

/-- A thread waits for a phase of a barrier word (R185): it goes on at once when the word has completed it. The PC lies past
the instruction (R186), or on the group of a prefixed one. -/
def awaitPhase (c : Ctx) (s : State) (t : Thread) (m : MemOp) (addr : Nat) (w : Word) (p : BitVec 24) : Res :=
  if barCompleted w p then .ok (s.acquired true m.scope) t
  else .wait s { t with pc := if c.pre then c.pc0 else t.pc, block := .bar, saved := savedBarWait m.space addr p }

/-- One arrival (R185): ARITH with EXPECT 0; a completing one releases every thread blocked for the phase. -/
def arrive (s : State) (t : Thread) (m : MemOp) (hi : Option (BitVec 32)) (d : SReg) (k : State → Thread → Elem → Word → BitVec 24 → Res) : Res :=
  withBarWord s t .atomic m hi (fun s e w =>
    if barExpect w = 0 then .trap s { cause := .arith, detail := 2 }
    else if !s.mayRelease t true m.scope then .retry (s.flushLast (.thread t.id)) .none
    else
      let w' := (barArrive w).1
      k (s.putBarWord t e w') (t.setS d ((barPhase w).zeroExtend 64)) e w' (barPhase w))

/-- The placed gang whose image header's gbar word lies at a VA (R78, R138). -/
def State.gbarGang (s : State) (asid va : Nat) : Option Gang :=
  s.gangs.find? (fun g => match s.task? g.task with
    | some k => k.asid == asid && k.image g.index == va
    | none => false)

/-- The gbar word (R138). -/
def Gang.gbarWord (g : Gang) : Word := g.phase ++ g.arrived

/-! ## Major 0x51 -/

/-- Orders the thread's own accesses (R183): a release or SC fence at scope 4 or 5 waits for acknowledgements, an acquire or SC fence there advances the remote epoch (R317) -/
def bodyFence (ord : MemOrd) (scope : Scope) : Body := fun _ s t =>
  if !s.mayRelease t (ordReleases ord) scope then .retry (s.flushLast (.thread t.id)) .none
  else .ok (s.acquired (ordAcquires ord) scope) t
def execFence (ord : MemOrd) (scope : Scope) (s : State) : Host.Outcome State Fault Refusal :=
  issue (.fence ord scope) (bodyFence ord scope) s

/-- The word becomes EXPECT S(D), PHASE 0, ARRIVED 0 -/
def bodyBinit (m : MemOp) (d : SReg) : Body := fun c s t =>
  let n := (t.s d).toNat
  if n < 1 ∨ 1048575 < n then .trap s { cause := .arith, detail := 2 }
  else withBarWord s t .atomic m c.hi (fun s e _ =>
    if !s.mayRelease t (ordReleases m.ord) m.scope then .retry (s.flushLast (.thread t.id)) .none
    else .ok (s.putBarWord t e (0#24 ++ BitVec.ofNat 20 n ++ 0#20)) t)
def execBinit (m : MemOp) (d : SReg) (s : State) : Host.Outcome State Fault Refusal :=
  issue (.binit m d) (bodyBinit m d) s

/-- Arrives; S(D) := the phase arrived in; blocks until the word has completed that phase -/
def bodyBar (m : MemOp) (d : SReg) : Body := fun c s t =>
  arrive s t m c.hi d (fun s t e w p => awaitPhase c s t m e.addr w p)
def execBar (m : MemOp) (d : SReg) (s : State) : Host.Outcome State Fault Refusal :=
  issue (.bar m d) (bodyBar m d) s

/-- Arrives; S(D) := the phase arrived in -/
def bodyBara (m : MemOp) (d : SReg) : Body := fun c s t =>
  arrive s t m c.hi d (fun s t _ _ _ => .ok s t)
def execBara (m : MemOp) (d : SReg) (s : State) : Host.Outcome State Fault Refusal :=
  issue (.bara m d) (bodyBara m d) s

/-- Blocks until the word has completed phase S(D) [23:0] -/
def bodyBarw (m : MemOp) (d : SReg) : Body := fun c s t =>
  withBarWord s t .barRead m c.hi (fun s e w => awaitPhase c s t m e.addr w (getBits (t.s d) 0 24))
def execBarw (m : MemOp) (d : SReg) (s : State) : Host.Outcome State Fault Refusal :=
  issue (.barw m d) (bodyBarw m d) s

/-- S(D) := the word; the gbar word of a placed gang's image header gives the live state -/
def bodyBstat (m : MemOp) (d : SReg) : Body := fun c s t =>
  withBarWord s t .barRead m c.hi (fun s e w =>
    let live := match m.space, s.gbarGang (s.asidOf t) e.addr with
      | .glob, some g => if g.cluster.isSome then g.gbarWord else w
      | _, _ => w
    .ok (s.acquired (ordAcquires m.ord) m.scope) (t.setS d live))
def execBstat (m : MemOp) (d : SReg) (s : State) : Host.Outcome State Fault Refusal :=
  issue (.bstat m d) (bodyBstat m d) s

end Sys2Proof.Machine
end

