-- ==== Sys2Proof/Machine/Cache.lean ====
section
/-! DEFINITION. Cache operations, major 0x42 (R178, R179): prefetch, write-back, discard and zeroing. What a
discard loses is what a mapping's own copies hold beside memory (`HeldSector`, log 115). -/

namespace Sys2Proof.Machine

/-! ## Prefetch (R178) -/

/-- A walk that a prefetch starts: the leaf is read; ACCESSED is set and the entry filled when the walk ends (R312, R323). -/
def State.startWalk (s : State) (core asid : Nat) (va : Word) (page size leafPA : Nat) (leaf : Word) (user : Bool) : State :=
  if s.walks.any (fun w => w.core == core && w.asid == asid && w.page == page) then s
  else { s with walks := s.walks ++ [⟨core, asid, va, s.epoch, page, size, leaf, leafPA, user⟩] }

/-- The line of a page of mode 2 is asked for, to fill the local copies (R179, R317). -/
def State.prefetchLine (s : State) (t : Thread) (core asid va : Nat) (evict : BitVec 3) (leaf : Word) : State :=
  let dev := ptePeer leaf
  let line := va / 256 * 256
  let o := Owner.fill asid
  if !cachedRemote dev leaf || pteCeil leaf = 0 || evict = 7 || !s.hasFabric || (s.localCopy asid va).isSome
    || (s.pend? o (.bytes (BitVec.ofNat 64 line) 256)).isSome then s
  else s.askBytes o t core asid dev line 256 true

/-- A prefetch that meets a migration waits as a walk that has read nothing, of size 0 (R315, R320). -/
def State.waitingWalk (s : State) (core asid : Nat) (va : Word) (user : Bool) : State :=
  s.startWalk core asid va (va.toNat / 4096 * 4096) 0 0 0 user

/-- `pf`: a failed check drops it (R178). -/
def State.prefetch (s : State) (t : Thread) (va : Word) (evict : BitVec 3) : State :=
  let asid := s.asidOf t
  let core := (s.coreOf t).getD 0
  let a := va.toNat
  let need := Acc.need .load (s.isUser t)
  if 2 ^ 57 ≤ a then s
  else if s.underMigration asid a then s.waitingWalk core asid va (s.isUser t)
  else if s.checkRefuses (some core) asid a need then s
  else match s.held asid a need with
    | some e =>
      match s.useHeld (some core) asid a need e with
      | .ok s _ _ leaf => if s.homeFault asid a leaf then s else s.prefetchLine t core asid a evict leaf
      | _ => s
    | none =>
      match s.walk asid a with
      | .leaf page size leaf leafPA =>
        if need.granted leaf && !s.homeFault asid a leaf then
          ((s.readNodes asid a).startWalk core asid va page size leafPA leaf (s.isUser t)).prefetchLine t core asid a evict leaf
        else s.readNodes asid a
      | .wait => s.waitingWalk core asid va (s.isUser t)
      | _ => s.readNodes asid a

/-! ## Ranges -/

/-- One page's part of a range: where it starts, its bytes, and its place. -/
structure PagePart where
  va    : Nat
  n     : Nat
  place : Place
  deriving DecidableEq, Repr

/-- Every page of a range checked in ascending order (R172, R178): `fuel` pages are left from `va`, `n` bytes. -/
def State.checkPages (t : Thread) (a : Acc) : Nat → Nat → Nat → State → Check (List PagePart)
  | 0, _, _, s => .ok s []
  | fuel + 1, va, n, s =>
    if n = 0 then .ok s []
    else
      let k := min n (4096 - va % 4096)
      match s.checkGlobal t a 0 va with
      | .trap s i => .trap s i
      | .wait s => .wait s
      | .ok s p =>
        match State.checkPages t a fuel (va + k) (n - k) s with
        | .ok s ps => .ok s (⟨va, k, p⟩ :: ps)
        | r => r

/-- The parts of a range in its space. The scratchpad spaces have one. -/
def State.checkRange (s : State) (t : Thread) (a : Acc) (space : Space) (va n : Nat) : Check (List PagePart) :=
  match space with
  | .glob =>
    if 2 ^ 57 < va + n then .trap s { cause := .addr, detail := 5, addr := BitVec.ofNat 64 va }
    else State.checkPages t a (n / 4096 + 2) va n s
  | _ =>
    match s.checkElem t a space 1 n 0 va with
    | .ok s p => .ok s [⟨va, n, p⟩]
    | .trap s i => .trap s i
    | .wait s => .wait s

/-- REMOTE_UNSUP of a range, after its checks (R369): a device that cannot be reached, or a page that `cinv` and `czero`
do not serve. -/
def State.rangeUnsup (s : State) (served : BitVec 16 → Word → Bool) (ps : List PagePart) : Option TrapInfo :=
  (ps.filterMap (fun p => match p.place with
    | .peer dev _ leaf =>
      match s.unreachable dev with
      | some d => some (remoteTrap ⟨.remoteUnsup, d⟩ 5 p.va 0)
      | none => if served dev leaf then none else some (remoteTrap ⟨.remoteUnsup, 0⟩ 5 p.va 0)
    | _ => none)).head?

/-- A cache operation over EA() .. EA() + S(D) - 1 (R178): ALIGN; a length of 0 does nothing; the checks, the watchpoints,
an engine's footprint, then the effect. -/
def cacheOp (a : Acc) (aligned : Bool) (value : Option (Nat × Nat)) (served : BitVec 16 → Word → Bool) (m : MemOp) (d : SReg)
    (k : State → Thread → List PagePart → Res) : Body := fun c s t =>
  let va := (effAddr t m c.hi).toNat
  let n := (t.s d).toNat
  if aligned && (va % 256 != 0 || n % 256 != 0) then .trap s { cause := .align, detail := 1, addr := BitVec.ofNat 64 va }
  else if n = 0 then .ok s t
  else match s.checkRange t a m.space va n with
    | .trap s i => .trap s i
    | .wait s => .retry s .none
    | .ok s ps =>
      match t.watchHit a m.space n [(0, va, value)] with
      | some i => .trap s i
      | none =>
        if ps.any (fun p => t.elemHeld a m.space p.n ⟨0, p.va, p.place⟩) then .retry s .none
        else match s.rangeUnsup served ps with
          | some i => .trap s i
          | none => k s t ps

/-- The sectors of a part of a range. -/
def sectorsOf (va n : Nat) : List Nat := tabulate ((n + 31) / 32) (fun i => va + 32 * i)


/-- Brings the line holding EA() into the caches; never traps -/
def bodyPf (m : MemOp) : Body := fun c s t => .ok (s.prefetch t (effAddr t m c.hi) m.evict) t
def execPf (m : MemOp) (s : State) : Host.Outcome State Fault Refusal :=
  issue (.pf m) (bodyPf m) s

/-- The parts of a range in local memory whose page may be cached (R178, R179): the tag's ASID, VA, PA and bytes. -/
def cachedParts (asid : Nat) (ps : List PagePart) : List (Nat × Nat × Nat × Nat) :=
  ps.filterMap (fun p => match p.place with
    | .hbm pa leaf => (viaOf asid p.va leaf).tag 0 |>.map (fun a => (a.1, p.va, pa, p.n))
    | _ => none)

/-- Writes the dirty lines of the range back; they stay valid -/
def bodyCwb (m : MemOp) (d : SReg) : Body := cacheOp .writeBack false none (fun _ _ => true) m d (fun s t ps =>
  .ok ((cachedParts (s.asidOf t) ps).foldl (fun s p => s.writeBack p.1 p.2.1 p.2.2.1 p.2.2.2) s) t)
def execCwb (m : MemOp) (d : SReg) (s : State) : Host.Outcome State Fault Refusal :=
  issue (.cwb m d) (bodyCwb m d) s

/-- Discards the lines of the range without write-back, and the local copies of mode-2 pages -/
def bodyCinv (m : MemOp) (d : SReg) : Body := cacheOp .invalidate true none cachedRemote m d (fun s t ps =>
  .ok (ps.foldl (fun s p => match p.place with
    | .peer .. => s.dropCopies (s.asidOf t) p.va p.n
    | _ => s) ((cachedParts (s.asidOf t) ps).foldl (fun s p => s.invalidate p.1 p.2.1 p.2.2.1 p.2.2.2) s)) t)
def execCinv (m : MemOp) (d : SReg) (s : State) : Host.Outcome State Fault Refusal :=
  issue (.cinv m d) (bodyCinv m d) s

/-- How many of some stores the streams of a core have room for, in their order (R365). -/
def State.roomCount (s : State) (core : Nat) : List (Elem × List Byte) → List (BitVec 16) → Nat
  | [], _ => 0
  | x :: xs, used =>
    match x.1.place with
    | .peer dev .. => if dev = 0xFFFF ∨ s.canSend core dev (used.count dev + 1) then s.roomCount core xs (dev :: used) + 1 else 0
    | _ => s.roomCount core xs used + 1

/-- The parts that a `czero` under way has zeroed. -/
def State.zeroedBy (s : State) (id : ThreadId) : Nat :=
  match s.thread? id with
  | some t => t.zeroed
  | none => 0

/-- Every byte of the range becomes 0; on a mode-2 page by stores of zeros in the stream, of which the 257th waits (R365) -/
def bodyCzero (m : MemOp) (d : SReg) : Body := fun c s t => cacheOp .zero true (some (0, 32)) cachedRemote m d (fun s t ps =>
  let xs := ps.flatMap (fun p => match p.place with
    | .hbm pa leaf => [((⟨0, p.va, .hbm pa leaf⟩ : Elem), List.replicate p.n (0 : Byte))]
    | .peer dev size leaf => (sectorsOf p.va p.n).map (fun a => (⟨0, a, .peer dev size leaf⟩, List.replicate 32 0))
    | place => [(⟨0, p.va, place⟩, List.replicate p.n 0)])
  let done := s.zeroedBy t.id
  let left := xs.drop done
  let n := s.roomCount ((s.coreOf t).getD 0) left []
  if n = left.length then storeElems s t .rlx m.scope m.evict left .ok
  else if n = 0 then .retry s .none
  else storeElems s t .rlx m.scope m.evict (left.take n) (fun s t => .wait s { t with pc := c.pc0, zeroed := done + n })) c s t
def execCzero (m : MemOp) (d : SReg) (s : State) : Host.Outcome State Fault Refusal :=
  issue (.czero m d) (bodyCzero m d) s

end Sys2Proof.Machine
end

