-- ==== Sys2Proof/Machine/Control.lean ====
section
/-! DEFINITION. The control family, major 0x60 (R126 to R129). -/

namespace Sys2Proof.Machine

/-- The target of a label: the branch word's own address plus eight times the offset (R90). A branch stands alone in its
group, so its word is the group's first. -/
def labelTarget (c : Ctx) (off : BitVec 33) : Word := c.pc0 + off.signExtend 64 * 8

/-- A taken branch to a target (R127): ADDR when bits [63:57] are not 0. -/
def jumpTo (target : Word) : Body := fun _ s t =>
  if 2 ^ 57 ≤ target.toNat then .trap s { cause := .addr, detail := 9, addr := target } else .ok s { t with pc := target }

/-- A jump to a register's value (R127): ALIGN first, at the branch. -/
def jumpReg (target : Word) : Body := fun c s t =>
  if target.toNat % 8 ≠ 0 then .trap s { cause := .align, detail := 2, addr := target } else jumpTo target c s t

/-- A conditional branch: nothing is checked of a target not taken. -/
def jumpIf (taken : Bool) (off : BitVec 33) : Body := fun c s t =>
  if taken then jumpTo (labelTarget c off) c s t else .ok s t

/-- The conditions of R90 on the 64-bit signed value. -/
def brHolds (c : BrCond) (x : Int) : Bool :=
  match c with
  | .eqz => x == 0
  | .nez => x != 0
  | .ltz => x < 0
  | .gez => 0 ≤ x
  | .gtz => 0 < x
  | .lez => x ≤ 0

/-- A software trap: IMM32 in the record, resumed at the following word (R128). -/
def softTrap (cause : Cause) (imm : BitVec 32) : Body := fun _ s _ =>
  .trap s { cause := cause, detail := 0, addr := imm.zeroExtend 64 }

/-- Always taken -/
def bodyBra (off : BitVec 33) : Body := jumpIf true off
def execBra (off : BitVec 33) (s : State) : Host.Outcome State Fault Refusal :=
  issue (.bra off) (bodyBra off) s

/-- Taken when the condition holds for S(A) -/
def bodyBr (cond : BrCond) (a : SReg) (off : BitVec 33) : Body := fun c s t =>
  jumpIf (brHolds cond (t.s a).toInt) off c s t
def execBr (cond : BrCond) (a : SReg) (off : BitVec 33) (s : State) : Host.Outcome State Fault Refusal :=
  issue (.br cond a off) (bodyBr cond a off) s

/-- Taken when any bit of K(A) is 1 -/
def bodyBrany (a : KReg) (off : BitVec 33) : Body := fun c s t =>
  jumpIf (t.k a != 0) off c s t
def execBrany (a : KReg) (off : BitVec 33) (s : State) : Host.Outcome State Fault Refusal :=
  issue (.brany a off) (bodyBrany a off) s

/-- Taken when every bit of K(A) is 1 -/
def bodyBrall (a : KReg) (off : BitVec 33) : Body := fun c s t =>
  jumpIf (t.k a == BitVec.allOnes 256) off c s t
def execBrall (a : KReg) (off : BitVec 33) (s : State) : Host.Outcome State Fault Refusal :=
  issue (.brall a off) (bodyBrall a off) s

/-- To S(A) -/
def bodyJr (a : SReg) : Body := fun c s t =>
  jumpReg (t.s a) c s t
def execJr (a : SReg) (s : State) : Host.Outcome State Fault Refusal :=
  issue (.jr a) (bodyJr a) s

/-- The return address into S(D), then to the label -/
def bodyCall (d : SReg) (off : BitVec 33) : Body := fun c s t =>
  jumpTo (labelTarget c off) c s (t.setS d t.pc)
def execCall (d : SReg) (off : BitVec 33) (s : State) : Host.Outcome State Fault Refusal :=
  issue (.call d off) (bodyCall d off) s

/-- S(A) read, the return address into S(D), then to the old S(A) -/
def bodyCallr (d a : SReg) : Body := fun c s t =>
  jumpReg (t.s a) c s (t.setS d t.pc)
def execCallr (d a : SReg) (s : State) : Host.Outcome State Fault Refusal :=
  issue (.callr d a) (bodyCallr d a) s

/-- To S(A) -/
def bodyRet (a : SReg) : Body := fun c s t =>
  jumpReg (t.s a) c s t
def execRet (a : SReg) (s : State) : Host.Outcome State Fault Refusal :=
  issue (.ret a) (bodyRet a) s

/-- Raises BRK -/
def bodyBrk (imm : BitVec 32) : Body := softTrap .brk imm
def execBrk (imm : BitVec 32) (s : State) : Host.Outcome State Fault Refusal :=
  issue (.brk imm) (bodyBrk imm) s

/-- Raises TRAPI -/
def bodyTrap (imm : BitVec 32) : Body := softTrap .trapi imm
def execTrap (imm : BitVec 32) (s : State) : Host.Outcome State Fault Refusal :=
  issue (.trap imm) (bodyTrap imm) s

end Sys2Proof.Machine
end

