-- ==== Sys2Proof/Machine/Vector.lean ====
section
/-! DEFINITION. The vector integer family, major 0x20 (R158 to R160), and the vector float family, major 0x21 (R161 to
R163), lane by lane under a mask (R154 to R157). -/

namespace Sys2Proof.Machine

/-! ## Shapes: vector sources read in the order A, B, C, each popping `lq` where it names it (R157) -/

/-- One vector source; `f` gives a lane's result and flags. -/
def vecUn (ty : ElemType) (z : Bool) (k : KReg) (d a : VReg) (f : Thread → Nat → Nat → Nat × Flags) : Body := fun _ s t =>
  let (x, u) := t.takeV a
  let (v, fl) := laneMap ty (t.k k) z (t.oldV d) (fun i => f t i (lane x ty.width i))
  .ok s ((u.setV d v).orFlags fl)

/-- Two vector sources. -/
def vecBin (ty : ElemType) (z : Bool) (k : KReg) (d a b : VReg) (f : Thread → Nat → Nat → Nat → Nat × Flags) : Body := fun _ s t =>
  let (x, u) := t.takeV a
  let (y, u) := u.takeV b
  let (v, fl) := laneMap ty (t.k k) z (t.oldV d) (fun i => f t i (lane x ty.width i) (lane y ty.width i))
  .ok s ((u.setV d v).orFlags fl)

/-- Three vector sources. -/
def vecTri (ty : ElemType) (z : Bool) (k : KReg) (d a b c : VReg) (f : Thread → Nat → Nat → Nat → Nat → Nat × Flags) : Body :=
  fun _ s t =>
  let (x, u) := t.takeV a
  let (y, u) := u.takeV b
  let (w, u) := u.takeV c
  let (v, fl) := laneMap ty (t.k k) z (t.oldV d)
    (fun i => f t i (lane x ty.width i) (lane y ty.width i) (lane w ty.width i))
  .ok s ((u.setV d v).orFlags fl)

/-- Integer lanes read by the signedness of the type; the lane receives the low bits of the result (R159). -/
def intBin (f : Int → Int → Int) (ty : ElemType) (z : Bool) (k : KReg) (d a b : VReg) : Body :=
  vecBin ty z k d a b (fun _ _ x y => (intLane ty (f (laneInt ty x) (laneInt ty y)), 0))
/-- Lanes read as unsigned. -/
def bitBin (f : Nat → Nat → Nat → Nat) (ty : ElemType) (z : Bool) (k : KReg) (d a b : VReg) : Body :=
  vecBin ty z k d a b (fun _ _ x y => (f ty.width x y % 2 ^ ty.width, 0))
/-- A saturating operation: the clamped value, and saturation when Clamp changes it. -/
def satBin (f : Int → Int → Int) (ty : ElemType) (z : Bool) (k : KReg) (d a b : VReg) : Body :=
  vecBin ty z k d a b (fun _ _ x y =>
    let (v, fl) := satClamp (f (laneInt ty x) (laneInt ty y)) ty.least ty.greatest
    (intLane ty v, fl))

/-- A rounding float operation: SEED advances once under RS, and each lane has its draw (R156, R215). -/
def seeded (r : Rounding) (body : Body) : Body := fun c s t => body c s (t.advanceSeed r)
def floatUn (f : Fmt → Rounding → Nat → Nat → Nat × Flags) (ty : ElemType) (r : Rounding) (k : KReg) (d a : VReg) : Body :=
  seeded r (vecUn ty false k d a (fun t i x => f ty.fmt r (t.draw r i) x))
def floatBin (f : Fmt → Rounding → Nat → Nat → Nat → Nat × Flags) (ty : ElemType) (r : Rounding) (k : KReg) (d a b : VReg) : Body :=
  seeded r (vecBin ty false k d a b (fun t i x y => f ty.fmt r (t.draw r i) x y))
def floatTri (f : Fmt → Rounding → Nat → Nat → Nat → Nat → Nat × Flags) (ty : ElemType) (r : Rounding) (k : KReg)
    (d a b c : VReg) : Body :=
  seeded r (vecTri ty false k d a b c (fun t i x y w => f ty.fmt r (t.draw r i) x y w))

/-! ## Major 0x20 (R159) -/

/-- a + b -/
def bodyVadd (ty : ElemType) (z : Bool) (k : KReg) (d a b : VReg) : Body := intBin (· + ·) ty z k d a b
def execVadd (ty : ElemType) (z : Bool) (k : KReg) (d a b : VReg) (s : State) : Host.Outcome State Fault Refusal :=
  issue (.vadd ty z k d a b) (bodyVadd ty z k d a b) s

/-- a - b -/
def bodyVsub (ty : ElemType) (z : Bool) (k : KReg) (d a b : VReg) : Body := intBin (· - ·) ty z k d a b
def execVsub (ty : ElemType) (z : Bool) (k : KReg) (d a b : VReg) (s : State) : Host.Outcome State Fault Refusal :=
  issue (.vsub ty z k d a b) (bodyVsub ty z k d a b) s

/-- a × b -/
def bodyVmul (ty : ElemType) (z : Bool) (k : KReg) (d a b : VReg) : Body := intBin (· * ·) ty z k d a b
def execVmul (ty : ElemType) (z : Bool) (k : KReg) (d a b : VReg) (s : State) : Host.Outcome State Fault Refusal :=
  issue (.vmul ty z k d a b) (bodyVmul ty z k d a b) s

/-- The high half of the product -/
def bodyVmulh (ty : ElemType) (z : Bool) (k : KReg) (d a b : VReg) : Body := intBin (fun x y => floorShift (x * y) ty.width) ty z k d a b
def execVmulh (ty : ElemType) (z : Bool) (k : KReg) (d a b : VReg) (s : State) : Host.Outcome State Fault Refusal :=
  issue (.vmulh ty z k d a b) (bodyVmulh ty z k d a b) s

/-- a AND b -/
def bodyVand (ty : ElemType) (z : Bool) (k : KReg) (d a b : VReg) : Body := bitBin (fun _ x y => x &&& y) ty z k d a b
def execVand (ty : ElemType) (z : Bool) (k : KReg) (d a b : VReg) (s : State) : Host.Outcome State Fault Refusal :=
  issue (.vand ty z k d a b) (bodyVand ty z k d a b) s

/-- a OR b -/
def bodyVor (ty : ElemType) (z : Bool) (k : KReg) (d a b : VReg) : Body := bitBin (fun _ x y => x ||| y) ty z k d a b
def execVor (ty : ElemType) (z : Bool) (k : KReg) (d a b : VReg) (s : State) : Host.Outcome State Fault Refusal :=
  issue (.vor ty z k d a b) (bodyVor ty z k d a b) s

/-- a XOR b -/
def bodyVxor (ty : ElemType) (z : Bool) (k : KReg) (d a b : VReg) : Body := bitBin (fun _ x y => x ^^^ y) ty z k d a b
def execVxor (ty : ElemType) (z : Bool) (k : KReg) (d a b : VReg) (s : State) : Host.Outcome State Fault Refusal :=
  issue (.vxor ty z k d a b) (bodyVxor ty z k d a b) s

/-- a AND NOT b -/
def bodyVandn (ty : ElemType) (z : Bool) (k : KReg) (d a b : VReg) : Body := bitBin (fun w x y => x &&& (2 ^ w - 1 - y)) ty z k d a b
def execVandn (ty : ElemType) (z : Bool) (k : KReg) (d a b : VReg) (s : State) : Host.Outcome State Fault Refusal :=
  issue (.vandn ty z k d a b) (bodyVandn ty z k d a b) s

/-- a × 2^(b mod W) -/
def bodyVshl (ty : ElemType) (z : Bool) (k : KReg) (d a b : VReg) : Body := bitBin (fun w x y => x * 2 ^ (y % w)) ty z k d a b
def execVshl (ty : ElemType) (z : Bool) (k : KReg) (d a b : VReg) (s : State) : Host.Outcome State Fault Refusal :=
  issue (.vshl ty z k d a b) (bodyVshl ty z k d a b) s

/-- a / 2^(b mod W), unsigned -/
def bodyVshr (ty : ElemType) (z : Bool) (k : KReg) (d a b : VReg) : Body := bitBin (fun w x y => x / 2 ^ (y % w)) ty z k d a b
def execVshr (ty : ElemType) (z : Bool) (k : KReg) (d a b : VReg) (s : State) : Host.Outcome State Fault Refusal :=
  issue (.vshr ty z k d a b) (bodyVshr ty z k d a b) s

/-- a / 2^(b mod W), a signed, rounded down -/
def bodyVsar (ty : ElemType) (z : Bool) (k : KReg) (d a b : VReg) : Body := vecBin ty z k d a b (fun _ _ x y =>
  (intLane ty (floorShift (signedNat x ty.width) (y % ty.width)), 0))
def execVsar (ty : ElemType) (z : Bool) (k : KReg) (d a b : VReg) (s : State) : Host.Outcome State Fault Refusal :=
  issue (.vsar ty z k d a b) (bodyVsar ty z k d a b) s

/-- The lesser -/
def bodyVmin (ty : ElemType) (z : Bool) (k : KReg) (d a b : VReg) : Body := intBin (fun x y => if x ≤ y then x else y) ty z k d a b
def execVmin (ty : ElemType) (z : Bool) (k : KReg) (d a b : VReg) (s : State) : Host.Outcome State Fault Refusal :=
  issue (.vmin ty z k d a b) (bodyVmin ty z k d a b) s

/-- The greater -/
def bodyVmax (ty : ElemType) (z : Bool) (k : KReg) (d a b : VReg) : Body := intBin (fun x y => if x ≤ y then y else x) ty z k d a b
def execVmax (ty : ElemType) (z : Bool) (k : KReg) (d a b : VReg) (s : State) : Host.Outcome State Fault Refusal :=
  issue (.vmax ty z k d a b) (bodyVmax ty z k d a b) s

/-- |a| -/
def bodyVabs (ty : ElemType) (z : Bool) (k : KReg) (d a : VReg) : Body := vecUn ty z k d a (fun _ _ x =>
  (intLane ty (if laneInt ty x < 0 then -laneInt ty x else laneInt ty x), 0))
def execVabs (ty : ElemType) (z : Bool) (k : KReg) (d a : VReg) (s : State) : Host.Outcome State Fault Refusal :=
  issue (.vabs ty z k d a) (bodyVabs ty z k d a) s

/-- -a -/
def bodyVneg (ty : ElemType) (z : Bool) (k : KReg) (d a : VReg) : Body := vecUn ty z k d a (fun _ _ x => (intLane ty (-laneInt ty x), 0))
def execVneg (ty : ElemType) (z : Bool) (k : KReg) (d a : VReg) (s : State) : Host.Outcome State Fault Refusal :=
  issue (.vneg ty z k d a) (bodyVneg ty z k d a) s

/-- Clamp(a + b) -/
def bodyVadds (ty : ElemType) (z : Bool) (k : KReg) (d a b : VReg) : Body := satBin (· + ·) ty z k d a b
def execVadds (ty : ElemType) (z : Bool) (k : KReg) (d a b : VReg) (s : State) : Host.Outcome State Fault Refusal :=
  issue (.vadds ty z k d a b) (bodyVadds ty z k d a b) s

/-- Clamp(a - b) -/
def bodyVsubs (ty : ElemType) (z : Bool) (k : KReg) (d a b : VReg) : Body := satBin (· - ·) ty z k d a b
def execVsubs (ty : ElemType) (z : Bool) (k : KReg) (d a b : VReg) (s : State) : Host.Outcome State Fault Refusal :=
  issue (.vsubs ty z k d a b) (bodyVsubs ty z k d a b) s

/-! ## Major 0x21 (R162) -/

/-- a + b -/
def bodyVfadd (ty : ElemType) (r : Rounding) (k : KReg) (d a b : VReg) : Body := floatBin fpAdd ty r k d a b
def execVfadd (ty : ElemType) (r : Rounding) (k : KReg) (d a b : VReg) (s : State) : Host.Outcome State Fault Refusal :=
  issue (.vfadd ty r k d a b) (bodyVfadd ty r k d a b) s

/-- a - b -/
def bodyVfsub (ty : ElemType) (r : Rounding) (k : KReg) (d a b : VReg) : Body := floatBin fpSub ty r k d a b
def execVfsub (ty : ElemType) (r : Rounding) (k : KReg) (d a b : VReg) (s : State) : Host.Outcome State Fault Refusal :=
  issue (.vfsub ty r k d a b) (bodyVfsub ty r k d a b) s

/-- a × b -/
def bodyVfmul (ty : ElemType) (r : Rounding) (k : KReg) (d a b : VReg) : Body := floatBin fpMul ty r k d a b
def execVfmul (ty : ElemType) (r : Rounding) (k : KReg) (d a b : VReg) (s : State) : Host.Outcome State Fault Refusal :=
  issue (.vfmul ty r k d a b) (bodyVfmul ty r k d a b) s

/-- a × b + c -/
def bodyVfma (ty : ElemType) (r : Rounding) (k : KReg) (d a b c : VReg) : Body := floatTri (fun f r n x y w => fpFma f r false false n x y w) ty r k d a b c
def execVfma (ty : ElemType) (r : Rounding) (k : KReg) (d a b c : VReg) (s : State) : Host.Outcome State Fault Refusal :=
  issue (.vfma ty r k d a b c) (bodyVfma ty r k d a b c) s

/-- a × b - c -/
def bodyVfms (ty : ElemType) (r : Rounding) (k : KReg) (d a b c : VReg) : Body := floatTri (fun f r n x y w => fpFma f r false true n x y w) ty r k d a b c
def execVfms (ty : ElemType) (r : Rounding) (k : KReg) (d a b c : VReg) (s : State) : Host.Outcome State Fault Refusal :=
  issue (.vfms ty r k d a b c) (bodyVfms ty r k d a b c) s

/-- -(a × b) + c -/
def bodyVfnma (ty : ElemType) (r : Rounding) (k : KReg) (d a b c : VReg) : Body := floatTri (fun f r n x y w => fpFma f r true false n x y w) ty r k d a b c
def execVfnma (ty : ElemType) (r : Rounding) (k : KReg) (d a b c : VReg) (s : State) : Host.Outcome State Fault Refusal :=
  issue (.vfnma ty r k d a b c) (bodyVfnma ty r k d a b c) s

/-- The lesser, exactly -/
def bodyVfmin (ty : ElemType) (r : Rounding) (k : KReg) (d a b : VReg) : Body := floatBin (fun f _ _ x y => fpMin f x y) ty r k d a b
def execVfmin (ty : ElemType) (r : Rounding) (k : KReg) (d a b : VReg) (s : State) : Host.Outcome State Fault Refusal :=
  issue (.vfmin ty r k d a b) (bodyVfmin ty r k d a b) s

/-- The greater, exactly -/
def bodyVfmax (ty : ElemType) (r : Rounding) (k : KReg) (d a b : VReg) : Body := floatBin (fun f _ _ x y => fpMax f x y) ty r k d a b
def execVfmax (ty : ElemType) (r : Rounding) (k : KReg) (d a b : VReg) (s : State) : Host.Outcome State Fault Refusal :=
  issue (.vfmax ty r k d a b) (bodyVfmax ty r k d a b) s

/-- Sign bit 0 -/
def bodyVfabs (ty : ElemType) (k : KReg) (d a : VReg) : Body := vecUn ty false k d a (fun _ _ x => (fpAbs ty.fmt x, 0))
def execVfabs (ty : ElemType) (k : KReg) (d a : VReg) (s : State) : Host.Outcome State Fault Refusal :=
  issue (.vfabs ty k d a) (bodyVfabs ty k d a) s

/-- Sign bit inverted -/
def bodyVfneg (ty : ElemType) (k : KReg) (d a : VReg) : Body := vecUn ty false k d a (fun _ _ x => (fpNeg ty.fmt x, 0))
def execVfneg (ty : ElemType) (k : KReg) (d a : VReg) (s : State) : Host.Outcome State Fault Refusal :=
  issue (.vfneg ty k d a) (bodyVfneg ty k d a) s

/-- a / b -/
def bodyVfdiv (ty : ElemType) (r : Rounding) (k : KReg) (d a b : VReg) : Body := floatBin fpDiv ty r k d a b
def execVfdiv (ty : ElemType) (r : Rounding) (k : KReg) (d a b : VReg) (s : State) : Host.Outcome State Fault Refusal :=
  issue (.vfdiv ty r k d a b) (bodyVfdiv ty r k d a b) s

/-- √a -/
def bodyVfsqrt (ty : ElemType) (r : Rounding) (k : KReg) (d a : VReg) : Body := floatUn fpSqrt ty r k d a
def execVfsqrt (ty : ElemType) (r : Rounding) (k : KReg) (d a : VReg) (s : State) : Host.Outcome State Fault Refusal :=
  issue (.vfsqrt ty r k d a) (bodyVfsqrt ty r k d a) s

/-- 1 / a -/
def bodyVfrcp (ty : ElemType) (r : Rounding) (k : KReg) (d a : VReg) : Body := floatUn fpRcp ty r k d a
def execVfrcp (ty : ElemType) (r : Rounding) (k : KReg) (d a : VReg) (s : State) : Host.Outcome State Fault Refusal :=
  issue (.vfrcp ty r k d a) (bodyVfrcp ty r k d a) s

/-- 1 / √a -/
def bodyVfrsq (ty : ElemType) (r : Rounding) (k : KReg) (d a : VReg) : Body := floatUn fpRsq ty r k d a
def execVfrsq (ty : ElemType) (r : Rounding) (k : KReg) (d a : VReg) (s : State) : Host.Outcome State Fault Refusal :=
  issue (.vfrsq ty r k d a) (bodyVfrsq ty r k d a) s

/-- 2^a -/
def bodyVfexp2 (ty : ElemType) (r : Rounding) (k : KReg) (d a : VReg) : Body := floatUn (fun f r n x => nanOr f [x] (fpExp2 f r n x)) ty r k d a
def execVfexp2 (ty : ElemType) (r : Rounding) (k : KReg) (d a : VReg) (s : State) : Host.Outcome State Fault Refusal :=
  issue (.vfexp2 ty r k d a) (bodyVfexp2 ty r k d a) s

/-- log₂ a -/
def bodyVflog2 (ty : ElemType) (r : Rounding) (k : KReg) (d a : VReg) : Body := floatUn (fun f r n x => nanOr f [x] (fpLog2 f r n x)) ty r k d a
def execVflog2 (ty : ElemType) (r : Rounding) (k : KReg) (d a : VReg) (s : State) : Host.Outcome State Fault Refusal :=
  issue (.vflog2 ty r k d a) (bodyVflog2 ty r k d a) s

/-- a × 2^n, n lane i of B read as signed -/
def bodyVfscale (ty : ElemType) (r : Rounding) (k : KReg) (d a b : VReg) : Body := floatBin (fun f r n x y => fpScale f r n x (signedNat y f.width)) ty r k d a b
def execVfscale (ty : ElemType) (r : Rounding) (k : KReg) (d a b : VReg) (s : State) : Host.Outcome State Fault Refusal :=
  issue (.vfscale ty r k d a b) (bodyVfscale ty r k d a b) s

end Sys2Proof.Machine
end

