-- ==== Sys2Proof/Machine/Convert.lean ====
section
/-! DEFINITION. The conversion family, major 0x24 (R217 to R222). -/

namespace Sys2Proof.Machine

/-- The exact value that a lane of a source type stands for; integers by their signedness, E8M0 by R212. -/
def laneReal (ts : ElemType) (x : Nat) : Real :=
  if ts.isInt then Real.ofInt (laneInt ts x)
  else if ts = .e8m0 then (if x = 0xFF then .nan else .fin false 1 ((x : Int) - 127) false)
  else ts.fmt.value x

/-- A real into an integer type (R218): rounded, then clamped; a NaN gives 0. -/
def realToInt (td : ElemType) (r : Rounding) (draw : Nat) (x : Real) : Nat × Flags :=
  match x with
  | .nan => (0, Flags.nv)
  | .inf neg => (intLane td (if neg then td.least else td.greatest), Flags.sat)
  | .fin neg m e st =>
    let (v, inexact) := roundToInt r draw neg m e st
    let (c, fl) := satClamp v td.least td.greatest
    (intLane td c, fl ||| Flags.when inexact Flags.nx)

/-- One lane converted (R218). -/
def convertLane (td ts : ElemType) (r : Rounding) (nsat : Bool) (draw x : Nat) : Nat × Flags :=
  if td.isInt then
    if ts.isInt then
      let (c, fl) := satClamp (laneInt ts x) td.least td.greatest
      (intLane td c, fl)
    else realToInt td r draw (laneReal ts x)
  else roundTo td.fmt r draw nsat (laneReal ts x)

/-- A conversion that fills the slice of `count` elements from `base`; `f` gives an element and its place in the slice its
value. The elements outside are kept (R217). -/
def convertSlice (td : ElemType) (k : MaskBits) (old : VecBits) (base count : Nat) (f : Nat → Nat → Nat × Flags) : VecBits × Flags :=
  laneMap td k false old (fun i => if base ≤ i ∧ i < base + count then f i (i - base) else (lane old td.width i, 0))

/-- Where the source elements of a slice stand (R218): the base and count of the destination slice, and the source base. -/
def sliceOf (td ts : ElemType) (part : BitVec 3) : Nat × Nat × Nat :=
  if ts.lanes ≤ td.lanes then (part.toNat * ts.lanes, ts.lanes, 0) else (0, td.lanes, part.toNat * td.lanes)

/-! ## MX blocks (R219) -/

/-- The exponent floor(log2 |x|) of a nonzero finite real. -/
def floorLog2 : Real → Int
  | .fin _ m e _ => e + Nat.log2 m
  | _ => 0

/-- The greatest exponent among the nonzero elements of a block; none when all are zero. -/
def blockExp (xs : List Real) : Option Int :=
  xs.foldl (fun acc x => if x.isZero then acc else match acc with
    | none => some (floorLog2 x)
    | some a => some (if a < floorLog2 x then floorLog2 x else a)) none

/-- Emax of R219. -/
def mxEmax : ElemType → Int
  | .e4m3 => 8
  | .e5m2 => 15
  | _ => 2

/-- A block's scale byte: the shift s unless the block is special, and whether it sets invalid. -/
def blockScale (td : ElemType) (xs : List Real) : Nat × Option Int × Flags :=
  if xs.any (fun x => match x with | .fin .. => false | _ => true) then (0xFF, none, Flags.nv)
  else match blockExp xs with
    | none => (0, none, 0)
    | some m =>
      let s := clampInt (m - mxEmax td) (-127) 127
      ((s + 127).toNat, some s, 0)

/-- x / 2^s. -/
def scaleDown (x : Real) (s : Int) : Real :=
  match x with
  | .fin n m e st => .fin n m (e - s) st
  | r => r

/-! ## Major 0x24 -/

/-- Lane by lane (R218) -/
def bodyVcvt (td ts : ElemType) (r : Rounding) (nsat : Bool) (part : BitVec 3) (k : KReg) (d a : VReg) : Body := seeded r (fun _ s t =>
  let (x, u) := t.takeV a
  let (base, count, src) := sliceOf td ts part
  let (v, fl) := convertSlice td (t.k k) (t.oldV d) base count
    (fun i j => convertLane td ts r nsat (t.draw r i) (lane x ts.width (src + j)))
  .ok s ((u.setV d v).orFlags fl))
def execVcvt (td ts : ElemType) (r : Rounding) (nsat : Bool) (part : BitVec 3) (k : KReg) (d a : VReg) (s : State) : Host.Outcome State Fault Refusal :=
  issue (.vcvt td ts r nsat part k d a) (bodyVcvt td ts r nsat part k d a) s

/-- Blocks of 32 elements quantised, their scales into S(B) (R219). The flags of rounding are those of the enabled
elements; a special block sets invalid whatever the mask. DEDUCED (log 22) -/
def bodyVcvtq (td : ElemType) (src : SrcSel) (r : Rounding) (nsat : Bool) (part : BitVec 3) (k : KReg) (d a : VReg) (b : SReg) : Body := seeded r (fun _ s t =>
  let ts := src.wide
  let (x, u) := t.takeV a
  let xs := tabulate ts.lanes (fun j => laneReal ts (lane x ts.width j))
  let blocks := (chunks 32 xs).map (blockScale td)
  let (v, fl) := convertSlice td (t.k k) (t.oldV d) (part.toNat * ts.lanes) ts.lanes (fun i j =>
    match blocks.getD (j / 32) (0, none, 0) with
    | (_, some sh, _) => roundTo td.fmt r (t.draw r i) nsat (scaleDown (xs.getD j .nan) sh)
    | (_, none, _) => (0, 0))
  let scales := BitVec.ofNat 64 (natOfLanes 8 (blocks.map (·.1)))
  .ok s (((u.setV d v).setS b scales).orFlags (blocks.foldl (fun acc p => acc ||| p.2.2) fl)))
def execVcvtq (td : ElemType) (src : SrcSel) (r : Rounding) (nsat : Bool) (part : BitVec 3) (k : KReg) (d a : VReg) (b : SReg) (s : State) : Host.Outcome State Fault Refusal :=
  issue (.vcvtq td src r nsat part k d a b) (bodyVcvtq td src r nsat part k d a b) s

/-- Elements times their block's scale, from bytes of S(B) (R220) -/
def bodyVcvtd (td : ElemType) (src : SrcSel) (r : Rounding) (part : BitVec 3) (k : KReg) (d a : VReg) (b : SReg) : Body := seeded r (fun _ s t =>
  let ts := src.narrow
  let (x, u) := t.takeV a
  let (v, fl) := laneMap td (t.k k) false (t.oldV d) (fun j =>
    let q := laneReal ts (lane x ts.width (part.toNat * td.lanes + j))
    let e := lane (t.s b) 8 (j / 32)
    if e = 0xFF then (td.fmt.nan, 0) else roundTo td.fmt r (t.draw r j) false (scaleDown q (127 - e)))
  .ok s ((u.setV d v).orFlags fl))
def execVcvtd (td : ElemType) (src : SrcSel) (r : Rounding) (part : BitVec 3) (k : KReg) (d a : VReg) (b : SReg) (s : State) : Host.Outcome State Fault Refusal :=
  issue (.vcvtd td src r part k d a b) (bodyVcvtd td src r part k d a b) s

/-- Lanes of A, then of B, each clamped (R221) -/
def bodyVpack (td : ElemType) (k : KReg) (d a b : VReg) : Body := fun _ s t =>
  let (x, u) := t.takeV a
  let (y, u) := u.takeV b
  let half := td.lanes / 2
  let wide (n : Nat) : Int := if td.signed then signedNat n (2 * td.width) else n
  let (v, fl) := laneMap td (t.k k) false (t.oldV d) (fun i =>
    let (c, fl) := satClamp (wide (lane (if i < half then x else y) (2 * td.width) (i % half))) td.least td.greatest
    (intLane td c, fl))
  .ok s ((u.setV d v).orFlags fl)
def execVpack (td : ElemType) (k : KReg) (d a b : VReg) (s : State) : Host.Outcome State Fault Refusal :=
  issue (.vpack td k d a b) (bodyVpack td k d a b) s

/-- One half-vector widened (R221) -/
def bodyVunpack (td : ElemType) (part : BitVec 3) (k : KReg) (d a : VReg) : Body := fun _ s t =>
  let (x, u) := t.takeV a
  let w := td.width / 2
  let (v, _) := laneMap td (t.k k) false (t.oldV d) (fun j =>
    let n := lane x w (part.toNat * td.lanes + j)
    (intLane td (if td.signed then signedNat n w else n), 0))
  .ok s (u.setV d v)
def execVunpack (td : ElemType) (part : BitVec 3) (k : KReg) (d a : VReg) (s : State) : Host.Outcome State Fault Refusal :=
  issue (.vunpack td part k d a) (bodyVunpack td part k d a) s

end Sys2Proof.Machine
end

