-- ==== Sys2Proof/Machine/FabricOps.lean ====
section
/-! DEFINITION. The fabric instructions, major 0xA0 (R360, R374 to R380). `mldr` and `mst` push into the copy-engine
queue. -/

namespace Sys2Proof.Machine

/-- The word of a stream (R370). -/
def TxStream.word (x : TxStream) : Word :=
  x.sent ++ x.acked ++ BitVec.ofNat 16 x.fails ++ BitVec.ofNat 8 x.edetail ++ BitVec.ofNat 8 x.ecode

/-- The host-path error word of a core (R373). -/
def Core.hostWord (k : Core) : Word := 0#32 ++ BitVec.ofNat 16 k.hostFails ++ BitVec.ofNat 8 k.hostDetail ++ BitVec.ofNat 8 k.hostCode

/-- The failing streams of a core in ascending device number, the host path last: device, FAILS, EDETAIL, ECODE (R374). -/
def State.failing (s : State) (core : Nat) : List (Nat × Nat × Nat × Nat) :=
  let xs := (s.tx.filter (fun x => x.core == core && x.ecode != 0)).map (fun x => (x.dev.toNat, x.fails, x.edetail, x.ecode))
  let sorted := (xs.mergeSort (fun a b => decide (a.1 ≤ b.1)))
  let k := s.core core
  sorted ++ (if k.hostCode = 0 then [] else [(0xFFFF, k.hostFails, k.hostDetail, k.hostCode)])

/-- What `rfence` returns (R374). -/
def failWord (xs : List (Nat × Nat × Nat × Nat)) : Word :=
  match xs with
  | [] => 0
  | (dev, _, detail, code) :: _ =>
    BitVec.ofNat 16 dev ++ BitVec.ofNat 16 xs.length ++ BitVec.ofNat 16 (min 65535 (xs.map (·.2.1)).sum) ++ BitVec.ofNat 8 detail
      ++ BitVec.ofNat 8 code

/-- Every stream of a core, and its host path, without failures (R374). -/
def State.clearFails (s : State) (core : Nat) : State :=
  let s := { s with tx := s.tx.map (fun x => if x.core = core then { x with fails := 0, edetail := 0, ecode := 0 } else x) }
  let k := s.core core
  if k.hostCode = 0 then s else s.setCore { k with hostFails := 0, hostDetail := 0, hostCode := 0 }

/-- An acknowledgement is asked of every stream in which the thread has something unacknowledged (R366, R374). -/
def State.askAcks (s : State) (o : Owner) : State :=
  (s.tx.filter (fun x => x.unacked.any (fun u => decide (u.owner = o)))).foldl (fun s x =>
    s.sendFrame (s.newFrame 5 0 x.dev (BitVec.ofNat 16 x.core) 0 0 x.gen .ackRequest)) s

/-- The mark of an `rfence` that has asked: a request for nothing. -/
def fenceAsk : Asked := .bytes 0 0


/-- Waits for the thread's remote operations, then reports and clears the failures of the core's streams -/
def bodyRfence (d : SReg) : Body := fun _ s t =>
  let o := Owner.thread t.id
  let h := Owner.flushHost t.id
  let core := (s.coreOf t).getD 0
  if s.unackedBy o then
    if (s.pend? o fenceAsk).isSome then .retry s .none
    else .retry ((s.addPend o fenceAsk).1.askAcks o |>.flushLast o) .none
  else if t.wroteHost && !(match s.pend? h fenceAsk with | some p => p.answer.isSome | none => false) then
    if (s.pend? h fenceAsk).isSome then .retry s .none
    else
      let (s, tag) := s.addPend h fenceAsk
      .retry { s with pcie := s.pcie ++ [.read tag (s.asidOf t) 0 0] } .none
  else
    let x := failWord (s.failing core)
    let s := ((s.clearFails core).dropPends o).dropPends h
    .ok { s with remEpoch := s.remEpoch + 1 } { (t.setS d x) with wroteHost := false }
def execRfence (d : SReg) (s : State) : Host.Outcome State Fault Refusal :=
  issue (.rfence d) (bodyRfence d) s

/-- Reads one stream of the core -/
def bodyRstat (d a : SReg) : Body := fun _ s t =>
  let dev := (t.s a).toNat
  let core := (s.coreOf t).getD 0
  if 65535 < dev then .trap s { cause := .arith, detail := 3 }
  else if dev = 65535 then .ok s (t.setS d (s.core core).hostWord)
  else .ok s (t.setS d (match s.tx? core (BitVec.ofNat 16 dev) with
    | some x => x.word
    | none => 0))
def execRstat (d a : SReg) (s : State) : Host.Outcome State Fault Refusal :=
  issue (.rstat d a) (bodyRstat d a) s

/-- Pushes a reduction over an address group -/
def bodyMldr (d a : SReg) (b c : VReg) (group : BitVec 8) : Body := fun _ s t => pushCe (.mldr d a b c group) [t.s a] [.s d, .v b, .v c] s t
def execMldr (d a : SReg) (b c : VReg) (group : BitVec 8) (s : State) : Host.Outcome State Fault Refusal :=
  issue (.mldr d a b c group) (bodyMldr d a b c group) s

/-- Pushes a multicast store to an address group -/
def bodyMst (d a b : SReg) (c : VReg) (group : BitVec 8) (sectors : BitVec 7) (f : Bool) : Body := fun _ s t => pushCe (.mst d a b c group sectors f) [t.s a, t.s b] [.s d, .v c] s t
def execMst (d a b : SReg) (c : VReg) (group : BitVec 8) (sectors : BitVec 7) (f : Bool) (s : State) : Host.Outcome State Fault Refusal :=
  issue (.mst d a b c group sectors f) (bodyMst d a b c group sectors f) s

/-- Reads one member of an address group -/
def bodyAgrd (d a b : SReg) : Body := fun _ s t =>
  if 256 ≤ (t.s a).toNat then .trap s { cause := .arith, detail := 3 }
  else
    let ms := s.group (t.s a).toNat
    let m : BitVec 16 := match ms[(t.s b).toNat]? with
      | some m => m
      | none => 0xFFFF
    .ok s (t.setS d (BitVec.ofNat 32 ms.length ++ 0#16 ++ m))
def execAgrd (d a b : SReg) (s : State) : Host.Outcome State Fault Refusal :=
  issue (.agrd d a b) (bodyAgrd d a b) s

end Sys2Proof.Machine
end

