-- ==== Sys2Proof/Machine/LoadStore.lean ====
section
/-! DEFINITION. Loads and stores, majors 0x40 and 0x41 (R170 to R176), and `qstat` (R177). -/

namespace Sys2Proof.Machine

/-- Enabled lanes with their addresses, ascending (R171). -/
def laneAddrs (ty : ElemType) (k : MaskBits) (addr : Nat → Word) : List (Nat × Nat) :=
  ((List.range ty.lanes).filter (laneOn k ty)).map (fun i => (i, (addr i).toNat))

/-- Addresses of the unit-stride, strided and indexed forms. -/
def unitAddr (t : Thread) (m : MemOp) (hi : Option (BitVec 32)) (ty : ElemType) (i : Nat) : Word :=
  effAddr t m hi + BitVec.ofNat 64 (ty.bytes * i)
def strideAddr (t : Thread) (m : MemOp) (hi : Option (BitVec 32)) (i : Nat) : Word :=
  baseAddr t m hi + BitVec.ofNat 64 i * t.s m.index
def indexAddr (t : Thread) (m : MemOp) (hi : Option (BitVec 32)) (i : Nat) : Word :=
  baseAddr t m hi + (BitVec.ofNat 32 (lane (t.v m.index) 32 i)).signExtend 64

/-- A vector load: enabled lanes take what memory holds, the others follow R154, and zero into `lq` (R22). -/
def vectorLoad (ty : ElemType) (m : MemOp) (k : KReg) (d : VReg) (addr : Thread → Option (BitVec 32) → Nat → Word) : Body := fun c s t =>
  withElems s t .load m.space ty.bytes (laneAddrs ty (t.k k) (addr t c.hi)) (fun _ => none) (fun s es =>
    loadElems s t c ty.bytes m.ord m.scope m.evict es (fun s got =>
      let (v, _) := laneMap ty (t.k k) false (t.oldV d) (fun i => ((got.lookup i).getD 0, 0))
      .ok s (t.loadV d v)))

/-- Of several lanes that store to one address the highest writes it (R173). -/
def lastWins : List (Elem × List Byte) → List (Elem × List Byte)
  | [] => []
  | x :: xs => if xs.any (fun y => y.1.addr == x.1.addr) then lastWins xs else x :: lastWins xs

/-- A vector store: enabled lanes are written; a store from `sq` pops its entry whatever its mask (R22, R176). -/
def vectorStore (ty : ElemType) (m : MemOp) (k : KReg) (d : VReg) (addr : Thread → Option (BitVec 32) → Nat → Word) : Body := fun c s t =>
  let (x, u) := t.takeData d
  withElems s t .store m.space ty.bytes (laneAddrs ty (t.k k) (addr t c.hi)) (fun i => some (lane x ty.width i, ty.width)) (fun s es =>
    storeElems s u m.ord m.scope m.evict (lastWins (es.map (fun e => (e, bytesOfNat ty.bytes (lane x ty.width e.lane))))) .ok)

/-! ## Major 0x40 (R170) -/

/-- One element into S(D), sign-extended for TYPE 0 to 3 -/
def bodyLd (ty : ElemType) (m : MemOp) (d : SReg) : Body := fun c s t =>
  let n := ty.bytes
  withElems s t .load m.space n [(0, (effAddr t m c.hi).toNat)] (fun _ => none) (fun s es =>
    loadElems s t c n m.ord m.scope m.evict es (fun s got =>
      let x := (got.lookup 0).getD 0
      .ok s (t.setS d (if ty.signed then BitVec.ofInt 64 (signedNat x ty.width) else BitVec.ofNat 64 x))))
def execLd (ty : ElemType) (m : MemOp) (d : SReg) (s : State) : Host.Outcome State Fault Refusal :=
  issue (.ld ty m d) (bodyLd ty m d) s

/-- The low bytes of S(D) into memory -/
def bodySt (ty : ElemType) (m : MemOp) (d : SReg) : Body := fun c s t =>
  let n := ty.bytes
  let x := (t.s d).toNat % 2 ^ ty.width
  withElems s t .store m.space n [(0, (effAddr t m c.hi).toNat)] (fun _ => some (x, ty.width)) (fun s es =>
    storeElems s t m.ord m.scope m.evict (es.map (fun e => (e, bytesOfNat n x))) .ok)
def execSt (ty : ElemType) (m : MemOp) (d : SReg) (s : State) : Host.Outcome State Fault Refusal :=
  issue (.st ty m d) (bodySt ty m d) s

/-! ## Major 0x41 (R171) -/

/-- Lane i at EA() + i elements -/
def bodyVld (ty : ElemType) (m : MemOp) (k : KReg) (d : VReg) : Body := vectorLoad ty m k d (fun t hi => unitAddr t m hi ty)
def execVld (ty : ElemType) (m : MemOp) (k : KReg) (d : VReg) (s : State) : Host.Outcome State Fault Refusal :=
  issue (.vld ty m k d) (bodyVld ty m k d) s

/-- Lane i at EA() + i elements -/
def bodyVst (ty : ElemType) (m : MemOp) (k : KReg) (d : VReg) : Body := vectorStore ty m k d (fun t hi => unitAddr t m hi ty)
def execVst (ty : ElemType) (m : MemOp) (k : KReg) (d : VReg) (s : State) : Host.Outcome State Fault Refusal :=
  issue (.vst ty m k d) (bodyVst ty m k d) s

/-- Lane i at S(A) + Off() + i × S(B) -/
def bodyVlds (ty : ElemType) (m : MemOp) (k : KReg) (d : VReg) : Body := vectorLoad ty m k d (fun t hi => strideAddr t m hi)
def execVlds (ty : ElemType) (m : MemOp) (k : KReg) (d : VReg) (s : State) : Host.Outcome State Fault Refusal :=
  issue (.vlds ty m k d) (bodyVlds ty m k d) s

/-- Lane i at S(A) + Off() + i × S(B) -/
def bodyVsts (ty : ElemType) (m : MemOp) (k : KReg) (d : VReg) : Body := vectorStore ty m k d (fun t hi => strideAddr t m hi)
def execVsts (ty : ElemType) (m : MemOp) (k : KReg) (d : VReg) (s : State) : Host.Outcome State Fault Refusal :=
  issue (.vsts ty m k d) (bodyVsts ty m k d) s

/-- Lane i at S(A) + Off() + lane i of V(B) -/
def bodyVgat (ty : ElemType) (m : MemOp) (k : KReg) (d : VReg) : Body := vectorLoad ty m k d (fun t hi => indexAddr t m hi)
def execVgat (ty : ElemType) (m : MemOp) (k : KReg) (d : VReg) (s : State) : Host.Outcome State Fault Refusal :=
  issue (.vgat ty m k d) (bodyVgat ty m k d) s

/-- Lane i at S(A) + Off() + lane i of V(B) -/
def bodyVsca (ty : ElemType) (m : MemOp) (k : KReg) (d : VReg) : Body := vectorStore ty m k d (fun t hi => indexAddr t m hi)
def execVsca (ty : ElemType) (m : MemOp) (k : KReg) (d : VReg) (s : State) : Host.Outcome State Fault Refusal :=
  issue (.vsca ty m k d) (bodyVsca ty m k d) s

/-- One element read once at EA() into every enabled lane -/
def bodyVldb (ty : ElemType) (m : MemOp) (k : KReg) (d : VReg) : Body := fun c s t =>
  let lanes := (laneAddrs ty (t.k k) (fun _ => effAddr t m c.hi)).take 1
  withElems s t .load m.space ty.bytes lanes (fun _ => none) (fun s es =>
    loadElems s t c ty.bytes m.ord m.scope m.evict es (fun s got =>
      let x := (got.map (·.2)).headD 0
      let (v, _) := laneMap ty (t.k k) false (t.oldV d) (fun _ => (x, 0))
      .ok s (t.loadV d v)))
def execVldb (ty : ElemType) (m : MemOp) (k : KReg) (d : VReg) (s : State) : Host.Outcome State Fault Refusal :=
  issue (.vldb ty m k d) (bodyVldb ty m k d) s

/-! ## Major 0x42, minor 4 (R177) -/

/-- The queue state -/
def bodyQstat (d : SReg) : Body := fun _ s t =>
  let fly := t.lqInFlight s.fresh
  .ok { s with fresh := s.fresh + 1 } ({ t with lqFly := fly }.setS d (t.qstat fly))
def execQstat (d : SReg) (s : State) : Host.Outcome State Fault Refusal :=
  issue (.qstat d) (bodyQstat d) s

end Sys2Proof.Machine
end

