-- ==== Sys2Proof/Machine/Masks.lean ====
section
/-! DEFINITION. Vector movement, reduction and scan, major 0x22 (R164 to R166), and comparison and masks, major 0x23 (R167 to
R169, R19). -/

namespace Sys2Proof.Machine

/-- One vector source; `f` gives lane i of the result from the whole source. -/
def moveUn (ty : ElemType) (z : Bool) (k : KReg) (d a : VReg) (f : VecBits → Nat → Nat) : Body := fun _ s t =>
  let (x, u) := t.takeV a
  .ok s (u.setV d (laneMap ty (t.k k) z (t.oldV d) (fun i => (f x i, 0))).1)

/-- Two vector sources. -/
def moveBin (ty : ElemType) (z : Bool) (k : KReg) (d a b : VReg) (f : Thread → VecBits → VecBits → Nat → Nat) : Body := fun _ s t =>
  let (x, u) := t.takeV a
  let (y, u) := u.takeV b
  .ok s (u.setV d (laneMap ty (t.k k) z (t.oldV d) (fun i => (f t x y i, 0))).1)

/-- Enabled lanes below lane `i`. -/
def enabledBelow (ty : ElemType) (k : MaskBits) (i : Nat) : Nat := ((List.range i).filter (laneOn k ty)).length

/-- The enabled lanes of a vector, in ascending order. -/
def enabledLanes (ty : ElemType) (k : MaskBits) (x : VecBits) : List Nat :=
  ((List.range ty.lanes).filter (laneOn k ty)).map (lane x ty.width)

/-! ## Reductions (R165) -/

/-- One level of the tree: `base` is the draw index of its first combination. -/
def reduceLevel (op : Nat → Nat → Nat → Nat × Flags) : Nat → List (Option Nat) → List (Option Nat) × Flags
  | i, a :: b :: rest =>
    let (r, fl) := match a, b with
      | none, y => (y, 0)
      | x, none => (x, 0)
      | some x, some y => let (v, fl) := op i x y; (some v, fl)
    let (rs, fls) := reduceLevel op (i + 1) rest
    (r :: rs, fl ||| fls)
  | _, l => (l, 0)

/-- The tree over L = 2^`depth` lanes; `base` is L − n of the level. -/
def reduceTree (op : Nat → Nat → Nat → Nat × Flags) : Nat → Nat → List (Option Nat) → Option Nat × Flags
  | 0, _, l => (l.headD none, 0)
  | depth + 1, base, l =>
    let (l', fl) := reduceLevel op base l
    let (r, fl') := reduceTree op depth (base + l.length / 2) l'
    (r, fl ||| fl')

/-- A reduction of the enabled lanes of A into S(D); `empty` is the result without one. -/
def reduce (ty : ElemType) (k : KReg) (d : SReg) (a : VReg) (empty : Nat) (op : Thread → Nat → Nat → Nat → Nat × Flags) : Body :=
  fun _ s t =>
  let (x, u) := t.takeV a
  let ls := tabulate ty.lanes (fun i => if laneOn (t.k k) ty i then some (lane x ty.width i) else none)
  let (r, fl) := reduceTree (op t) (Nat.log2 ty.lanes) 0 ls
  let v := r.getD empty
  .ok s ((u.setS d (if ty.signed then BitVec.ofInt 64 (signedNat v ty.width) else BitVec.ofNat 64 v)).orFlags fl)

/-- Addition of two lanes of a type. -/
def laneAdd (ty : ElemType) (r : Rounding) (draw x y : Nat) : Nat × Flags :=
  if ty.isFloat then fpAdd ty.fmt r draw x y else ((x + y) % 2 ^ ty.width, 0)
/-- The greater and the lesser of two lanes of a type. -/
def laneMax (ty : ElemType) (x y : Nat) : Nat × Flags :=
  if ty.isFloat then fpMax ty.fmt x y else (if laneInt ty x ≤ laneInt ty y then y else x, 0)
def laneMin (ty : ElemType) (x y : Nat) : Nat × Flags :=
  if ty.isFloat then fpMin ty.fmt x y else (if laneInt ty x ≤ laneInt ty y then x else y, 0)
/-- The least and greatest value of a type, infinities for floats. -/
def laneLeast (ty : ElemType) : Nat := if ty.isFloat then ty.fmt.pattern true ty.fmt.topE 0 else intLane ty ty.least
def laneGreatest (ty : ElemType) : Nat := if ty.isFloat then ty.fmt.pattern false ty.fmt.topE 0 else intLane ty ty.greatest

/-! ## Scan (R166) -/

/-- The running sums of the enabled lanes, lane by lane. -/
def scanLanes (add : Nat → Nat → Nat → Nat × Flags) : Nat → Option Nat → List (Option Nat) → List Nat × Flags
  | _, _, [] => ([], 0)
  | i, acc, none :: ls => let (r, fl) := scanLanes add (i + 1) acc ls; (0 :: r, fl)
  | i, none, some x :: ls => let (r, fl) := scanLanes add (i + 1) (some x) ls; (x :: r, fl)
  | i, some a, some x :: ls =>
    let (v, fl) := add i a x
    let (r, fl') := scanLanes add (i + 1) (some v) ls
    (v :: r, fl ||| fl')

/-! ## Major 0x22 (R164) -/

/-- Byte lanes of A -/
def bodyVmov (z : Bool) (k : KReg) (d a : VReg) : Body := moveUn .n8 z k d a (fun x i => lane x 8 i)
def execVmov (z : Bool) (k : KReg) (d a : VReg) (s : State) : Host.Outcome State Fault Refusal :=
  issue (.vmov z k d a) (bodyVmov z k d a) s

/-- S(A) in every lane -/
def bodyVbcast (ty : ElemType) (z : Bool) (k : KReg) (d : VReg) (a : SReg) : Body := fun _ s t =>
  .ok s (t.setV d (laneMap ty (t.k k) z (t.oldV d) (fun _ => ((t.s a).toNat % 2 ^ ty.width, 0))).1)
def execVbcast (ty : ElemType) (z : Bool) (k : KReg) (d : VReg) (a : SReg) (s : State) : Host.Outcome State Fault Refusal :=
  issue (.vbcast ty z k d a) (bodyVbcast ty z k d a) s

/-- Lane S(B) mod L becomes S(A) if enabled; the others keep -/
def bodyVins (ty : ElemType) (z : Bool) (k : KReg) (d : VReg) (a b : SReg) : Body := fun _ s t =>
  let m := (t.s b).toNat % ty.lanes
  .ok s (t.setV d (laneMap ty (t.k k) z (t.oldV d) (fun i =>
    (if i = m then (t.s a).toNat % 2 ^ ty.width else lane (t.oldV d) ty.width i, 0))).1)
def execVins (ty : ElemType) (z : Bool) (k : KReg) (d : VReg) (a b : SReg) (s : State) : Host.Outcome State Fault Refusal :=
  issue (.vins ty z k d a b) (bodyVins ty z k d a b) s

/-- Lane S(B) mod L of A, zero-extended -/
def bodyVext (ty : ElemType) (d : SReg) (a : VReg) (b : SReg) : Body := fun _ s t =>
  let (x, u) := t.takeV a
  .ok s (u.setS d (BitVec.ofNat 64 (lane x ty.width ((t.s b).toNat % ty.lanes))))
def execVext (ty : ElemType) (d : SReg) (a : VReg) (b : SReg) (s : State) : Host.Outcome State Fault Refusal :=
  issue (.vext ty d a b) (bodyVext ty d a b) s

/-- Lane (b mod L) of A -/
def bodyVperm (ty : ElemType) (z : Bool) (k : KReg) (d a b : VReg) : Body := moveBin ty z k d a b (fun _ x y i =>
  lane x ty.width (lane y ty.width i % ty.lanes))
def execVperm (ty : ElemType) (z : Bool) (k : KReg) (d a b : VReg) (s : State) : Host.Outcome State Fault Refusal :=
  issue (.vperm ty z k d a b) (bodyVperm ty z k d a b) s

/-- Lane i + s of A, or 0 -/
def bodyVslide (ty : ElemType) (z : Bool) (k : KReg) (d a : VReg) (b : SReg) : Body := fun c s t =>
  moveUn ty z k d a (fun x i =>
    let j : Int := i + (t.s b).toInt
    if 0 ≤ j ∧ j < ty.lanes then lane x ty.width j.toNat else 0) c s t
def execVslide (ty : ElemType) (z : Bool) (k : KReg) (d a : VReg) (b : SReg) (s : State) : Host.Outcome State Fault Refusal :=
  issue (.vslide ty z k d a b) (bodyVslide ty z k d a b) s

/-- Lanes of A and B alternately, from their low or high halves -/
def bodyVzip (ty : ElemType) (z hi : Bool) (k : KReg) (d a b : VReg) : Body := moveBin ty z k d a b (fun _ x y i =>
  let j := (if hi then ty.lanes / 2 else 0) + i / 2
  lane (if i % 2 = 0 then x else y) ty.width j)
def execVzip (ty : ElemType) (z hi : Bool) (k : KReg) (d a b : VReg) (s : State) : Host.Outcome State Fault Refusal :=
  issue (.vzip ty z hi k d a b) (bodyVzip ty z hi k d a b) s

/-- The even or odd lanes of A, then of B -/
def bodyVunzip (ty : ElemType) (z odd : Bool) (k : KReg) (d a b : VReg) : Body := moveBin ty z k d a b (fun _ x y i =>
  let half := ty.lanes / 2
  lane (if i < half then x else y) ty.width (2 * (i % half) + (if odd then 1 else 0)))
def execVunzip (ty : ElemType) (z odd : Bool) (k : KReg) (d a b : VReg) (s : State) : Host.Outcome State Fault Refusal :=
  issue (.vunzip ty z odd k d a b) (bodyVunzip ty z odd k d a b) s

/-- Lane i of A where C enables it, else of B -/
def bodyVsel (ty : ElemType) (z : Bool) (k : KReg) (d a b : VReg) (c : KReg) : Body := moveBin ty z k d a b (fun t x y i =>
  lane (if laneOn (t.k c) ty i then x else y) ty.width i)
def execVsel (ty : ElemType) (z : Bool) (k : KReg) (d a b : VReg) (c : KReg) (s : State) : Host.Outcome State Fault Refusal :=
  issue (.vsel ty z k d a b c) (bodyVsel ty z k d a b c) s

/-- The enabled lanes of A packed into the low lanes; the others kept or zero -/
def bodyVcomp (ty : ElemType) (z : Bool) (k : KReg) (d a : VReg) : Body := fun _ s t =>
  let (x, u) := t.takeV a
  let es := enabledLanes ty (t.k k) x
  let old := t.oldV d
  .ok s (u.setV d (vecOfLanes ty.width (tabulate ty.lanes (fun i =>
    match es[i]? with
    | some e => e
    | none => if z then 0 else lane old ty.width i))))
def execVcomp (ty : ElemType) (z : Bool) (k : KReg) (d a : VReg) (s : State) : Host.Outcome State Fault Refusal :=
  issue (.vcomp ty z k d a) (bodyVcomp ty z k d a) s

/-- Enabled lane i takes lane j of A, j the enabled lanes below i -/
def bodyVexpd (ty : ElemType) (z : Bool) (k : KReg) (d a : VReg) : Body := fun c s t =>
  moveUn ty z k d a (fun x i => lane x ty.width (enabledBelow ty (t.k k) i)) c s t
def execVexpd (ty : ElemType) (z : Bool) (k : KReg) (d a : VReg) (s : State) : Host.Outcome State Fault Refusal :=
  issue (.vexpd ty z k d a) (bodyVexpd ty z k d a) s

/-- The sum over the tree, +0 without a lane -/
def bodyVredsum (ty : ElemType) (r : Rounding) (k : KReg) (d : SReg) (a : VReg) : Body := seeded r (reduce ty k d a 0 (fun t i x y => laneAdd ty r (t.draw r i) x y))
def execVredsum (ty : ElemType) (r : Rounding) (k : KReg) (d : SReg) (a : VReg) (s : State) : Host.Outcome State Fault Refusal :=
  issue (.vredsum ty r k d a) (bodyVredsum ty r k d a) s

/-- The greatest, the least value of T without a lane -/
def bodyVredmax (ty : ElemType) (k : KReg) (d : SReg) (a : VReg) : Body := reduce ty k d a (laneLeast ty) (fun _ _ x y => laneMax ty x y)
def execVredmax (ty : ElemType) (k : KReg) (d : SReg) (a : VReg) (s : State) : Host.Outcome State Fault Refusal :=
  issue (.vredmax ty k d a) (bodyVredmax ty k d a) s

/-- The least, the greatest value of T without a lane -/
def bodyVredmin (ty : ElemType) (k : KReg) (d : SReg) (a : VReg) : Body := reduce ty k d a (laneGreatest ty) (fun _ _ x y => laneMin ty x y)
def execVredmin (ty : ElemType) (k : KReg) (d : SReg) (a : VReg) (s : State) : Host.Outcome State Fault Refusal :=
  issue (.vredmin ty k d a) (bodyVredmin ty k d a) s

/-- Inclusive prefix sums -/
def bodyVscan (ty : ElemType) (r : Rounding) (z : Bool) (k : KReg) (d a : VReg) : Body := seeded r (fun _ s t =>
  let (x, u) := t.takeV a
  let ls := tabulate ty.lanes (fun i => if laneOn (t.k k) ty i then some (lane x ty.width i) else none)
  let (rs, fl) := scanLanes (fun i p q => laneAdd ty r (t.draw r i) p q) 0 none ls
  let (v, _) := laneMap ty (t.k k) z (t.oldV d) (fun i => (rs.getD i 0, 0))
  .ok s ((u.setV d v).orFlags fl))
def execVscan (ty : ElemType) (r : Rounding) (z : Bool) (k : KReg) (d a : VReg) (s : State) : Host.Outcome State Fault Refusal :=
  issue (.vscan ty r z k d a) (bodyVscan ty r z k d a) s

/-! ## Major 0x23 (R167 to R169) -/

/-- A comparison of vectors into a mask; `f` gives a lane's truth and flags. -/
def compare (ty : ElemType) (z : Bool) (k d : KReg) (a b : VReg) (f : Nat → Nat → Bool × Flags) : Body := fun _ s t =>
  let (x, u) := t.takeV a
  let (y, u) := u.takeV b
  let rs := tabulate ty.lanes (fun i => if laneOn (t.k k) ty i then f (lane x ty.width i) (lane y ty.width i) else (false, 0))
  let m := maskMap ty (t.k k) z (t.k d) (fun i => (rs.getD i (false, 0)).1)
  .ok s ((u.setK d m).orFlags (rs.foldl (fun acc r => acc ||| r.2) 0))

/-- The conditions of `vcmp` on integers (R167). -/
def vcmpHolds (c : VCond) (a b : Int) : Bool :=
  match c with
  | .eq => a == b
  | .ne => a != b
  | .lt => a < b
  | .ge => b ≤ a
  | .le => a ≤ b
  | .gt => b < a
  | .uo | .or => false

/-- A whole-mask operation. -/
def maskOp (d : KReg) (f : Thread → MaskBits) : Body := fun _ s t => .ok s (t.setK d (f t))

/-- The lanes that a mask enables; single bits under TYPE 15. -/
def maskLanes (ty : ElemType) (m : MaskBits) : List Bool :=
  if ty = .untyped then tabulate 256 (fun i => m.getLsbD i) else tabulate ty.lanes (laneOn m ty)

/-- Integer comparison -/
def bodyVcmp (ty : ElemType) (cond : VCond) (z : Bool) (k d : KReg) (a b : VReg) : Body := compare ty z k d a b (fun x y => (vcmpHolds cond (laneInt ty x) (laneInt ty y), 0))
def execVcmp (ty : ElemType) (cond : VCond) (z : Bool) (k d : KReg) (a b : VReg) (s : State) : Host.Outcome State Fault Refusal :=
  issue (.vcmp ty cond z k d a b) (bodyVcmp ty cond z k d a b) s

/-- Float comparison -/
def bodyVfcmp (ty : ElemType) (cond : VCond) (z : Bool) (k d : KReg) (a b : VReg) : Body := compare ty z k d a b (fpCmp ty.fmt cond)
def execVfcmp (ty : ElemType) (cond : VCond) (z : Bool) (k d : KReg) (a b : VReg) (s : State) : Host.Outcome State Fault Refusal :=
  issue (.vfcmp ty cond z k d a b) (bodyVfcmp ty cond z k d a b) s

/-- Membership of the lane's class in the set of S(B) (R168) -/
def bodyVfclass (ty : ElemType) (z : Bool) (k d : KReg) (a : VReg) (b : SReg) : Body := fun _ s t =>
  let (x, u) := t.takeV a
  .ok s (u.setK d (maskMap ty (t.k k) z (t.k d) (fun i => (t.s b).getLsbD (fpClass ty.fmt (lane x ty.width i)))))
def execVfclass (ty : ElemType) (z : Bool) (k d : KReg) (a : VReg) (b : SReg) (s : State) : Host.Outcome State Fault Refusal :=
  issue (.vfclass ty z k d a b) (bodyVfclass ty z k d a b) s

/-- A AND B -/
def bodyKand (d a b : KReg) : Body := maskOp d (fun t => t.k a &&& t.k b)
def execKand (d a b : KReg) (s : State) : Host.Outcome State Fault Refusal :=
  issue (.kand d a b) (bodyKand d a b) s

/-- A OR B -/
def bodyKor (d a b : KReg) : Body := maskOp d (fun t => t.k a ||| t.k b)
def execKor (d a b : KReg) (s : State) : Host.Outcome State Fault Refusal :=
  issue (.kor d a b) (bodyKor d a b) s

/-- A XOR B -/
def bodyKxor (d a b : KReg) : Body := maskOp d (fun t => t.k a ^^^ t.k b)
def execKxor (d a b : KReg) (s : State) : Host.Outcome State Fault Refusal :=
  issue (.kxor d a b) (bodyKxor d a b) s

/-- NOT A -/
def bodyKnot (d a : KReg) : Body := maskOp d (fun t => ~~~t.k a)
def execKnot (d a : KReg) (s : State) : Host.Outcome State Fault Refusal :=
  issue (.knot d a) (bodyKnot d a) s

/-- A -/
def bodyKmov (d a : KReg) : Body := maskOp d (fun t => t.k a)
def execKmov (d a : KReg) (s : State) : Host.Outcome State Fault Refusal :=
  issue (.kmov d a) (bodyKmov d a) s

/-- The number of enabled lanes -/
def bodyKpop (ty : ElemType) (d : SReg) (a : KReg) : Body := fun _ s t =>
  .ok s (t.setS d (BitVec.ofNat 64 ((maskLanes ty (t.k a)).filter id).length))
def execKpop (ty : ElemType) (d : SReg) (a : KReg) (s : State) : Host.Outcome State Fault Refusal :=
  issue (.kpop ty d a) (bodyKpop ty d a) s

/-- The lowest enabled lane, or their number -/
def bodyKfirst (ty : ElemType) (d : SReg) (a : KReg) : Body := fun _ s t =>
  let ls := maskLanes ty (t.k a)
  .ok s (t.setS d (BitVec.ofNat 64 ((ls.findIdx? id).getD ls.length)))
def execKfirst (ty : ElemType) (d : SReg) (a : KReg) (s : State) : Host.Outcome State Fault Refusal :=
  issue (.kfirst ty d a) (bodyKfirst ty d a) s

/-- Lanes below S(A) (R19) -/
def bodyKset (ty : ElemType) (d : KReg) (a : SReg) : Body := fun _ s t =>
  let m := (clampInt (t.s a).toInt 0 ty.lanes).toNat
  .ok s (t.setK d (onesAt 256 0 (m * ty.bytes)))
def execKset (ty : ElemType) (d : KReg) (a : SReg) (s : State) : Host.Outcome State Fault Refusal :=
  issue (.kset ty d a) (bodyKset ty d a) s

/-- 64 bits of K(A), those of S(B) mod 4 -/
def bodyKget (d : SReg) (a : KReg) (b : SReg) : Body := fun _ s t =>
  .ok s (t.setS d (getBits (t.k a) (64 * ((t.s b).toNat % 4)) 64))
def execKget (d : SReg) (a : KReg) (b : SReg) (s : State) : Host.Outcome State Fault Refusal :=
  issue (.kget d a b) (bodyKget d a b) s

end Sys2Proof.Machine
end

