-- ==== Sys2Proof/Machine/MatrixOps.lean ====
section
/-! DEFINITION. The matrix instructions, major 0x80 (R228, R239 to R243). -/

namespace Sys2Proof.Machine

/-- Rows and columns of a thread's tile, and its origin (R241). -/
def tileOf (m n gid gsize tid : Nat) : Nat × Nat × Word × Word :=
  let tm := roundUp m 64 / 64
  let tn := roundUp n 128 / 128
  let t := gid * gsize + tid
  if tm * tn ≤ t then (0, 0, BitVec.allOnes 64, BitVec.allOnes 64)
  else
    let row0 := 64 * (t / tn)
    let col0 := 128 * (t % tn)
    (min 64 (m - row0), min 128 (n - col0), BitVec.ofNat 64 row0, BitVec.ofNat 64 col0)


/-- Pushes the command in bytes 0 to 63 of V(A); stalls while both entries are held or an earlier copy-engine command overlaps it (R204) -/
def bodyMxcmd (d : SReg) (a : VReg) : Body := fun _ s t =>
  let cmd : BitVec 512 := getBits (t.v a) 0 512
  if t.mx0.isSome && t.mx1.isSome then .retry s .queue
  else if t.ceEntries.any (fun e => enginesClash cmd e t.home) then .retry s .none
  else .ok { s with stamp := s.stamp + 1 } ((t.pushMx (.pushed cmd d s.stamp)).setPending (.s d))
def execMxcmd (d : SReg) (a : VReg) (s : State) : Host.Outcome State Fault Refusal :=
  issue (.mxcmd d a) (bodyMxcmd d a) s

/-- Records M, N and K -/
def bodyMxgeom (a b c : SReg) : Body := fun _ s t =>
  let m := (t.s a).toNat
  let n := (t.s b).toNat
  let k := (t.s c).toNat
  if m = 0 ∨ 2 ^ 32 ≤ m ∨ n = 0 ∨ 2 ^ 32 ≤ n ∨ k = 0 ∨ 2 ^ 32 ≤ k ∨ k % 32 ≠ 0 then .trap s { cause := .arith, detail := 3 }
  else .ok s { t with geomM := BitVec.ofNat 32 m, geomN := BitVec.ofNat 32 n, geomK := BitVec.ofNat 32 k }
def execMxgeom (a b c : SReg) (s : State) : Host.Outcome State Fault Refusal :=
  issue (.mxgeom a b c) (bodyMxgeom a b c) s

/-- Derives this thread's tile: its masks and its origin in V(D) -/
def bodyMxsub (d : VReg) : Body := fun _ s t =>
  if t.geomM = 0 then .trap s { cause := .arith, detail := 3 }
  else
    let (rows, cols, row0, col0) := tileOf t.geomM.toNat t.geomN.toNat t.id.gang (s.gangSize t) t.id.rank
    let x := setBits (setBits (setBits (setBits (t.v d) 320 (onesAt 64 0 rows)) 384 (onesAt 128 0 cols)) 512 row0) 576 col0
    .ok s (t.setV d x)
def execMxsub (d : VReg) (s : State) : Host.Outcome State Fault Refusal :=
  issue (.mxsub d) (bodyMxsub d) s

/-- RUN and QUEUED of the matrix queue -/
def bodyMxstat (d : SReg) : Body := fun _ s t =>
  .ok s (t.setS d (BitVec.ofNat 64 ((if t.mxEntries.any (·.started) then 4 else 0) + t.mxEntries.length)))
def execMxstat (d : SReg) (s : State) : Host.Outcome State Fault Refusal :=
  issue (.mxstat d) (bodyMxstat d) s

/-- Returns the matrix flags and clears them -/
def bodyMxflag (d : SReg) : Body := fun _ s t => .ok (s.inOrder (.mxClear t.id)) { (t.setS d (t.mxf.zeroExtend 64)) with mxf := 0 }
def execMxflag (d : SReg) (s : State) : Host.Outcome State Fault Refusal :=
  issue (.mxflag d) (bodyMxflag d) s

end Sys2Proof.Machine
end

