-- ==== Sys2Proof/Machine/Ports.lean ====
section
/-! DEFINITION. Submission ports and admission (R63 to R72): starting a chain, reading and checking a card, its edges, and
the steps of the ports. -/

namespace Sys2Proof.Machine

/-! ## Ports (R65, R66, R68) -/

def State.port (s : State) (p : Nat) : Port := s.ports.getD p Port.reset
def State.setPort (s : State) (p : Nat) (x : Port) : State := { s with ports := s.ports.set p x }

/-- A refusal (R68): the port stops; the host gets a record, or the `spawn` that submitted the chain its status (R130). -/
def State.refuseCard (s : State) (p : Nat) (card : Word) (code : Nat) : State :=
  let x := s.port p
  let s := s.setPort p { x with state := .stopped, code := BitVec.ofNat 8 code, fail := card, spawner := none }
  match x.spawner with
  | some (id, reg) => s.putStatus id reg false (statusWord 2 code x.count)
  | none => s.event 0x01 x.asid card (BitVec.ofNat 64 (p + 256 * code))

/-- A write of SPHEAD while STATE is 0 or 3 (R66). -/
def State.startPort (s : State) (p : Nat) (head : Word) (spawner : Option (ThreadId × SReg)) : State :=
  let x := s.port p
  let x := { x with head := head, next := head, spawner := spawner, count := 0 }
  if head.toNat % 256 ≠ 0 ∨ 2 ^ 57 ≤ head.toNat then (s.setPort p x).refuseCard p head 0x07
  else s.setPort p { x with state := .busy }

/-- The port may start: idle or stopped. -/
def Port.takesHead (x : Port) : Bool := x.state == .idle || x.state == .stopped

/-! ## Cards (R63, R64) -/

/-- Bytes of a card as a number. -/
def cardField (card : List Byte) (off n : Nat) : Nat := natOfBytes ((card.drop off).take n)

/-- The valid footprints of a card. -/
def cardFeet (card : List Byte) : List Footprint :=
  (List.range 8).filterMap (fun i =>
    let b := 0x40 + 16 * i
    let flags := cardField card (b + 14) 2
    if flags.testBit 2 then some ⟨cardField card b 8, cardField card (b + 8) 6, flags.testBit 0, flags.testBit 1⟩ else none)

/-- A footprint slot is malformed (R64). -/
def footBad (card : List Byte) (i : Nat) : Bool :=
  let b := 0x40 + 16 * i
  let flags := cardField card (b + 14) 2
  flags.testBit 2 && (flags % 4 == 0 || decide (2 ^ 57 < cardField card b 8 + cardField card (b + 8) 6)
    || decide (2 ^ 57 ≤ cardField card b 8) || decide (8 ≤ flags))

/-- The first limit that a card breaks, in ascending offset (R63, R68 item 3). -/
def cardFault (card : List Byte) : Option Nat :=
  let f := cardField card
  let checks : List (Bool × Nat) :=
    [(f 0 8 % 8 != 0, 0x07), (f 0x10 4 == 0, 0x02), (f 0x14 4 == 0, 0x02), (f 0x18 4 == 0, 0x02),
     (f 0x1C 2 == 0 || decide (32 < f 0x1C 2), 0x03), (decide (4 ≤ f 0x1E 2), 0x01),
     (f 0x20 4 % 65536 != 0 || decide (448 * 1024 < f 0x20 4), 0x04),
     (f 0x24 4 % 16384 != 0 || decide (2 ^ 21 < f 0x24 4), 0x05), (f 0x28 8 % 16384 != 0, 0x07),
     (decide (7 < f 0x30 1), 0x06), (decide (Config.isaMinor < f 0x31 1), 0x08), (decide (5 < f 0x32 1), 0x06),
     (f 0x33 5 != 0, 0x01), (f 0x38 8 % 8 != 0, 0x07)]
    ++ tabulate 8 (fun i => (footBad card i, 0x09))
    ++ [(f 0xC0 8 / 2 % 128 != 0 || decide (2 ^ 57 ≤ f 0xC0 8), 0x01), (f 0xD0 48 != 0, 0x01)]
  (checks.find? (·.1)).map (·.2)

/-- The task that a card describes. -/
def cardTask (card : List Byte) (asid : Nat) (va : Word) : Task :=
  let f := cardField card
  { num := 0, asid := asid, card := va, entry := BitVec.ofNat 64 (f 0 8), param := BitVec.ofNat 64 (f 8 8), gx := f 0x10 4,
    gy := f 0x14 4, gz := f 0x18 4, size := f 0x1C 2, opaq := (f 0x1E 2).testBit 0, cores := (f 0x1E 2).testBit 1,
    spad := f 0x20 4, bstore := f 0x24 4, arena := BitVec.ofNat 64 (f 0x28 8), prio := f 0x30 1, scope := f 0x32 1,
    done := BitVec.ofNat 64 (f 0x38 8), value := BitVec.ofNat 64 (f 0xC8 8), feet := cardFeet card, edges := [],
    ready := false, readyAt := 0, formed := 0, retired := 0, closing := false, prioEff := f 0x30 1, ageFrom := 0 }

/-! ## Edges (R70, R71) -/

/-- Two footprints hold bytes of one line. -/
def Footprint.overlaps (a b : Footprint) : Bool :=
  decide (0 < a.len ∧ 0 < b.len ∧ a.base / 256 ≤ (b.base + b.len - 1) / 256 ∧ b.base / 256 ≤ (a.base + a.len - 1) / 256)

/-- A task is opaque by its flag or for want of a valid footprint (R71). -/
def Task.isOpaque (k : Task) : Bool := k.opaq || k.feet.isEmpty

/-- A later task has an edge from an earlier one (R70, R71). -/
def Task.edgeFrom (k e : Task) : Bool :=
  k.asid == e.asid && (k.isOpaque || e.isOpaque
    || e.feet.any (fun a => k.feet.any (fun b => a.overlaps b && (a.write || (a.read && b.write)))))

/-! ## Admission (R69, R76) -/

/-- The scratchpad ceiling of a cluster's cores (R31, R150). -/
def State.spadCeiling (s : State) (cluster : Nat) : Nat := (s.ceilings.lookup cluster).getD (448 * 1024)

/-- A cluster takes no placement: its die is fenced, draining or being calibrated (R354). -/
def State.clusterShut (s : State) (cluster : Nat) : Bool :=
  match s.unitState (cluster / 32) with
  | .inService => false
  | _ => true

/-- Threads that core `c` of a cluster receives of a gang of `n` (R25). -/
def threadsOn (n c : Nat) : Nat := (n + 7 - c) / 8

/-- Gangs of a task that an empty cluster holds: core 0 receives the most threads. -/
def State.gangsPerCluster (s : State) (k : Task) (cluster : Nat) : Nat :=
  let slots := 16 / threadsOn k.size 0
  let pads := if k.spad = 0 then slots else s.spadCeiling cluster / k.spad
  let stores := if k.bstore = 0 then slots else 2 ^ 21 / k.bstore
  min slots (min pads stores)

/-- A co-resident task fits the device's unfenced clusters when they are empty (R76). DEDUCED (log 133): a die is fenced while
FENCESTAT gives it that state, so that a draining or recalibrating die counts. -/
def State.fitsDevice (s : State) (k : Task) : Bool :=
  decide (k.gangs ≤ ((List.range Config.clusters).map (fun c =>
    if s.unitState (c / 32) = .fenced then 0 else s.gangsPerCluster k c)).sum)

/-- The first free task number from a start (R28). -/
def State.freeTask (s : State) : Nat → Nat → Nat
  | 0, n => n % 65536
  | fuel + 1, n => if s.tasks.any (fun k => k.num == n % 65536) then s.freeTask fuel (n + 1) else n % 65536

/-- A task enters the admission order, ready when nothing precedes it (R69 to R72). -/
def State.admitTask (s : State) (k : Task) : State :=
  let n := s.freeTask 4096 s.nextTask
  let edges := (s.tasks.filter k.edgeFrom).map (·.num)
  { s with nextTask := (n + 1) % 65536
           tasks := s.tasks ++ [{ k with num := n, edges := edges, ready := edges.isEmpty, readyAt := s.tick, ageFrom := s.tick }] }

/-! ## A port's reads and writes of its ASID (R67). DESIGN CHOICE (log 25): a card on a page of another device or of the
host counts as a fault reading it; USER is not asked of a port, which is no thread (R313). -/

/-- The place of a card's bytes and the mapping to them. DESIGN CHOICE (log 132): an uncorrectable error in the card's line counts as
a fault reading it, and the line is retired. -/
def State.cardPA (s : State) (asid : Nat) (va : Nat) (write : Bool) : Option (State × Nat × Via) :=
  match s.translate none asid va ⟨!write, write, false, false⟩ with
  | .ok s page _ leaf =>
    let pa := leafPA page leaf va
    if pteMode leaf = 0 ∧ !s.dataBad pa 256 then some (s, pa, viaOf asid va leaf) else none
  | _ => none

/-- A damaged line under a card that could not be read is retired (log 132). -/
def State.cardRetired (s : State) (asid va : Nat) : State :=
  match s.translate none asid va ⟨true, false, false, false⟩ with
  | .ok s page _ leaf => if pteMode leaf = 0 then s.retireRange (leafPA page leaf va) 256 else s
  | _ => s

/-- A card that cannot be read or released is refused with 0x0A (R68). -/
def State.cardLost (s : State) (p : Nat) : State :=
  let x := s.port p
  (if s.asidValid x.asid then s.cardRetired x.asid x.next.toNat else s).refuseCard p x.next 0x0A

/-- The next card's ownership word, through the port's ASID. -/
def State.ownership (s : State) (p : Nat) : Option (State × Word) :=
  let x := s.port p
  if s.asidValid x.asid then
    (s.cardPA x.asid x.next.toNat false).map (fun (s, pa, via) => (s, wordOfBytes (s.readVia via (pa + 0xC0) 8)))
  else none

/-- The page of the port's card is under migration: the port waits (R320). -/
def State.cardWaits (s : State) (p : Nat) : Bool := s.underMigration (s.port p).asid (s.port p).next.toNat

/-- The end of a chain: STATE 0, and the status of a `spawn` (R66, R130). -/
def State.chainDone (s : State) (p : Nat) : State :=
  let x := s.port p
  let s := s.setPort p { x with state := .idle, spawner := none }
  match x.spawner with
  | some (id, reg) => s.putStatus id reg false (statusWord 0 0 x.count)
  | none => s

/-- A card has been admitted: the port follows its link (R66 item 4). -/
def State.followLink (s : State) (p : Nat) (next : Word) : State :=
  let x := s.port p
  let s := s.setPort p { x with next := next, cards := x.cards + 1, count := x.count + 1 }
  if next = 0 then s.chainDone p else s

/-- A busy port consumes its next card (R66 to R69). DESIGN CHOICE (log 134): the port reads the whole card in one step, so that a
store that races the read leaves every sector old or every sector new. DEDUCED (log 67): a card refused for a field counts in CARDS even
when the write that clears its ownership faults. -/
def State.consumeCard (s : State) (p : Nat) : State :=
  let x := s.port p
  match (if s.asidValid x.asid then s.cardPA x.asid x.next.toNat false else none) with
  | none => s.cardLost p
  | some (s, pa, via) =>
    let s := s.corrected pa 256
    let card := s.readVia via pa 256
    let own := cardField card 0xC0 8
    if own % 2 = 0 then s.setPort p { x with state := .waiting }
    else
      let clear (s : State) : Option State :=
        (s.cardPA x.asid x.next.toNat true).map (fun (s, pa, via) =>
          (s.atHome (pa + 0xC0) localStoreRank).storeHome via (pa + 0xC0) (bytesOfNat 8 (own - 1)) none)
      match cardFault card with
      | some code =>
        let s := (clear s).getD s
        (s.setPort p { s.port p with cards := (s.port p).cards + 1 }).refuseCard p x.next code
      | none =>
        match clear s with
        | none => s.refuseCard p x.next 0x0A
        | some s =>
          let k := cardTask card x.asid x.next
          if k.cores && !s.fitsDevice k then
            (s.setPort p { s.port p with cards := (s.port p).cards + 1 }).refuseCard p x.next 0x0B
          else { s.admitTask k with portTurn := (p + 1) % 64 }.followLink p (BitVec.ofNat 64 (own / 256 * 256))

/-- A port may consume a card now: busy, not held, after FEATLOCK, with the directory in use and room for a task (R65, R69, R311, R350). -/
def State.portReady (s : State) (p : Nat) : Bool :=
  let x := s.port p
  x.state == .busy && !x.hold && s.featLock && s.dirEn && decide (s.tasks.length < Config.maxTasks) && !s.cardWaits p

/-- The port whose turn it is (R69). -/
def State.nextPort (s : State) : Option Nat :=
  (tabulate 64 (fun i => (s.portTurn + i) % 64)).find? s.portReady

/-! ## Steps of the ports -/

/-- A host write of SPHEAD (R66); while STATE is 1 or 2 it is ignored and sets LOST -/
def execSphead (port : Nat) (head : Word) (s : State) : Host.Outcome State Fault Refusal :=
  if 64 ≤ port then .fault .noUnit
  else
    let x := s.port port
    .next (if x.takesHead then s.startPort port head none else s.setPort port { x with lost := true })

/-- A host write of SPCTL.HOLD (R65) -/
def execSpctlHold (port : Nat) (hold : Bool) (s : State) : Host.Outcome State Fault Refusal :=
  if 64 ≤ port then .fault .noUnit else .next (s.setPort port { s.port port with hold := hold })

/-- A port that waits for ownership sees the bit at 1 (R66 item 1) -/
def execCardOwnershipWatch (port : Nat) (s : State) : Host.Outcome State Fault Refusal :=
  if 64 ≤ port then .fault .noUnit
  else
    let x := s.port port
    if x.state == .waiting && !s.cardWaits port then
      match s.ownership port with
      | none => .next (s.cardLost port)
      | some (s, w) => .next (if w.getLsbD 0 then s.setPort port { x with state := .busy } else s)
    else .next s

/-- The port whose turn it is consumes its next card (R66, R69) -/
def execPortCardConsume (port : Nat) (s : State) : Host.Outcome State Fault Refusal :=
  if 64 ≤ port then .fault .noUnit
  else .next (if s.nextPort = some port then s.consumeCard port else s)

end Sys2Proof.Machine
end

