-- ==== Sys2Proof/Machine/Placement.lean ====
section
/-! DEFINITION. Placing gangs (R31 to R33, R73 to R79, R83): what fits a cluster, the order of the ready gangs, formation,
the gang image, and the issue slots of a core. -/

namespace Sys2Proof.Machine

/-! ## Byte ranges in pages of an ASID -/

/-- The pieces of a range in frames of this device: offset, PA and bytes, where every page translates for write (R52, R79, R82)
and none is under migration (R320). -/
def State.rangePieces (s : State) (asid : Nat) : Nat → Nat → Nat → Nat → Reach (List (Nat × Nat × Nat))
  | 0, _, _, _ => .ok []
  | fuel + 1, va, off, n =>
    if n = 0 then .ok []
    else
      let k := min n (4096 - va % 4096)
      match s.translate none asid va ctxNeed with
      | .ok _ page _ leaf =>
        let pa := leafPA page leaf va
        if pteMode leaf = 0 ∧ s.resident pa then (s.rangePieces asid fuel (va + k) (off + k) (n - k)).bind (fun r => .ok ((off, pa, k) :: r))
        else .bad
      | .wait => .wait
      | .fault .. => .bad

def State.pieces (s : State) (asid va n : Nat) : Reach (List (Nat × Nat × Nat)) := s.rangePieces asid (n / 4096 + 2) va 0 n

/-- Bytes written over pieces, and read from them. -/
def State.putPieces (s : State) (ps : List (Nat × Nat × Nat)) (bs : List Byte) : State :=
  ps.foldl (fun s p => s.storeHome .all p.2.1 ((bs.drop p.1).take p.2.2) none) s
def State.getPieces (s : State) (ps : List (Nat × Nat × Nat)) : List Byte := ps.flatMap (fun p => s.readPA p.2.1 p.2.2)

/-! ## The gang image (R78, R79) -/

/-- Bytes of the image. -/
def Task.imageBytes (k : Task) : Nat := 256 + k.coresUsed * (k.spad + k.bstore)

/-- The header's words (R79). -/
def Gang.header (g : Gang) : List Byte :=
  ([g.gbarWord, g.elected.zeroExtend 64, g.uniN, g.uniPC, g.uniClosed,
    0#25 ++ BitVec.ofBool g.uniDone ++ BitVec.ofBool g.uniOpen ++ g.uniExec ++ g.uniArrived, 0, 0] : List Word).flatMap bytesOfWord
  ++ g.elects.flatMap (fun n => bytesOfNat 4 n.toNat) ++ List.replicate 64 0

/-- The image of a gang: header, then each core's scratchpad and B-store allocations. -/
def Gang.image (g : Gang) (k : Task) : List Byte :=
  g.header ++ (tabulate k.coresUsed (fun c =>
    cellsRead zeroByte g.spad (c * Config.coreSpan) k.spad ++ cellsRead zeroByte g.bstore (c * Config.bstoreSpan) k.bstore)).flatten

/-- A gang as its image says (R79, R83). -/
def Gang.load (g : Gang) (k : Task) (bs : List Byte) : Gang :=
  let w (off : Nat) : Word := wordOfBytes ((bs.drop off).take 8)
  let u := w 0x28
  let alloc (base span n : Nat) : Cells := (tabulate k.coresUsed (fun c =>
    freshCells zeroByte (c * span) ((bs.drop (256 + c * (k.spad + k.bstore) + base)).take n))).flatten
  { g with
    phase := getBits (w 0) 32 32, arrived := getBits (w 0) 0 32, elected := getBits (w 8) 0 32
    uniN := w 0x10, uniPC := w 0x18, uniClosed := w 0x20, uniArrived := getBits u 0 32, uniExec := getBits u 32 5
    uniOpen := u.getLsbD 37, uniDone := u.getLsbD 38
    elects := tabulate 32 (fun r => BitVec.ofNat 32 (natOfBytes ((bs.drop (0x40 + 4 * r)).take 4)))
    spad := alloc 0 Config.coreSpan k.spad, bstore := alloc k.spad Config.bstoreSpan k.bstore }

/-- The image's pages as pieces. -/
def State.imagePieces (s : State) (k : Task) (g : Nat) (n : Nat) : Reach (List (Nat × Nat × Nat)) := s.pieces k.asid (k.image g) n

/-- A page of the image does not translate for write, or is no memory of this device (R82). -/
def State.imageAbsent (s : State) (k : Task) (g : Nat) : Bool := match s.imagePieces k g k.imageBytes with
  | .bad => true
  | _ => false

/-- The damaged SRAM words of a gang's allocations, met by the parking that saves them: their lines are disabled, and what is saved is
free. DESIGN CHOICE (log 138): R340 and R358 name no fault of a parking. -/
def State.scrubGang (s : State) (g : Gang) (cluster : Nat) : State × Gang :=
  let lose (s : State) (core : Nat) : State × List Byte := (s.sramLost (cluster * 8 + core)).lostBytes 8
  let (s, g) := g.badPad.foldl (fun (acc : State × Gang) w =>
    let (s, bs) := lose acc.1 (8 * w / Config.coreSpan)
    (s, { acc.2 with spad := cellsWrite zeroByte acc.2.spad (8 * w) bs })) (s, g)
  let (s, g) := g.badB.foldl (fun (acc : State × Gang) w =>
    let (s, bs) := lose acc.1 (8 * w / Config.bstoreSpan)
    (s, { acc.2 with bstore := cellsWrite zeroByte acc.2.bstore (8 * w) bs })) (s, g)
  (s, { g with badPad := [], badB := [] })

/-- The live state of a parked gang, where it has changed, goes to its image's header (R78). -/
def State.saveHeader (s : State) (task index : Nat) : State :=
  match s.gang? task index, s.task? task with
  | some g, some k =>
    if g.cluster.isSome || !g.imaged then s
    else match s.imagePieces k index 256 with
      | .ok ps => s.putPieces ps g.header
      | _ => s
  | _, _ => s

/-- A CTXPAGE notice that names a gang's image (R79, R82). DEDUCED (log 139): no thread halts for it, so that no trap record holds
DETAIL 2 of R328. -/
def State.imageNotice (s : State) (k : Task) (g : Nat) : State :=
  match s.thread? ⟨k.num, g, 0⟩ with
  | some t => s.ctxNotice t (BitVec.ofNat 64 (k.image g) + 8) none
  | none => s

/-! ## Formation (R77 to R79, R40 to R43) -/

/-- A thread's block is written as R40 says; the engine words that spawning leaves alone are the arena's (R239, R250). The
control area stays in the register cache. Where its page does not translate the thread keeps it there and takes a context
fault (R52). -/
def State.formThread (s : State) (t : Thread) : State :=
  match s.ctxPage t 3 with
  | .ok (s, pa) =>
    let word (off : Nat) : Word := s.readWordPA (pa + (off - 0x3000))
    let t := { t with resident := controlLine, geomK := getBits (word 0x3D20) 0 32, walk := tabulate 90 (fun i => word (0x3D28 + 8 * i)) }
    let s := { s with threads := s.threads ++ [t] }
    let s := s.storeHome .all pa ((s.controlLow t).flatMap bytesOfWord) none
    s.storeHome .all (pa + 0xC00) ((t.controlHigh.take 36).flatMap bytesOfWord) none
  | _ => State.contextFault { s with threads := s.threads ++ [{ t with resident := controlLine }] } { t with resident := controlLine } (s.wordAtPC t)

/-- s1 to s3 of a new thread, in its block (R43); they wait for the page where it does not translate (R50). -/
def State.formScalars (s : State) (k : Task) (id : ThreadId) : State :=
  match s.thread? id with
  | none => s
  | some t =>
    let ws : List Word := [k.param, BitVec.ofNat 64 id.gang, BitVec.ofNat 64 id.rank]
    match s.ctxPage t 0 with
    | .ok (s, pa) => s.storeHome .all (pa + 8) (ws.flatMap bytesOfWord) none
    | _ =>
      { s with deferred := s.deferred ++ [{ owner := id, cbase := t.cbase, posting := none
                                            writes := [.scalar 1 k.param, .scalar 2 (ws.getD 1 0), .scalar 3 (ws.getD 2 0)] }] }

/-- The next gang of a task is formed (R77): its threads, and the header, written with zeros (R79). -/
def State.formGang (s : State) (k : Task) : State :=
  let g := k.formed
  let s := s.setTask { k with formed := k.formed + 1 }
  let s := { s with gangs := s.gangs ++ [Gang.formed k (s.asidJob k.asid) g s.tick] }
  let s := (List.range k.size).foldl (fun s r =>
    (s.formThread (Thread.spawned k g r s.cycle)).formScalars k ⟨k.num, g, r⟩) s
  match s.imagePieces k g 256 with
  | .ok ps => s.putPieces ps (List.replicate 256 0)
  | _ => s.imageNotice k g

/-- A page that the forming of a gang writes is under migration, for which it waits (R320). -/
def State.formWaits (s : State) (k : Task) (g : Nat) : Bool :=
  s.underMigration k.asid (k.image g) || (List.range k.size).any (fun r =>
    s.underMigration k.asid (k.cbase g r).toNat || s.underMigration k.asid ((k.cbase g r).toNat + 0x3000))

/-! ## What fits a cluster (R31) -/

/-- The gangs placed on a cluster, with their tasks, but for those that are to leave. -/
def State.placedOn (s : State) (cluster : Nat) (leaving : List (Nat × Nat)) : List (Gang × Task) :=
  s.gangs.filterMap (fun g =>
    if g.cluster = some cluster ∧ !leaving.contains (g.task, g.index) then (s.task? g.task).map (fun k => (g, k)) else none)

/-- Issue slots of a core that threads hold and would not give up: neither free, nor held by a blocked thread. -/
def State.slotsKept (s : State) (core : Nat) (leaving : List (Nat × Nat)) : Nat :=
  (s.threads.filter (fun t => t.slot.isSome && s.coreOf t == some core && !t.isBlocked
    && !leaving.contains (t.id.task, t.id.gang))).length

/-- A gang of a task fits a cluster once others have left and the gangs of `coming` have been placed there. -/
def State.fits (s : State) (k : Task) (cluster : Nat) (leaving : List (Nat × Nat)) (coming : List Task) : Bool :=
  let placed := (s.placedOn cluster leaving).map (·.2)
  !s.clusterShut cluster && (List.range 8).all (fun c =>
    let n := threadsOn k.size c
    let new := coming.filter (fun p => threadsOn p.size c != 0)
    let here := placed.filter (fun p => threadsOn p.size c != 0) ++ new
    n == 0 || decide (s.slotsKept (cluster * 8 + c) leaving + (new.map (fun p => threadsOn p.size c)).sum + n ≤ 16
      ∧ (here.map (fun p => threadsOn p.size c)).sum + n ≤ 64
      ∧ (here.map (fun p => p.spad)).sum + k.spad ≤ s.spadCeiling cluster
      ∧ (here.map (fun p => p.bstore)).sum + k.bstore ≤ 2 ^ 21))

/-- The tasks of the gangs that are matched to a cluster and not yet placed there (R34, R82). -/
def State.comingTo (s : State) (cluster : Nat) : List Task :=
  s.matched.filterMap (fun m => if m.2.2 = cluster then s.task? m.1 else none)

/-! ## The order of the ready gangs (R73) -/

/-- A ready unplaced gang; `index` is the next one to form where `formed` is false. -/
structure Cand where
  prio   : Nat
  ready  : Nat
  order  : Nat
  index  : Nat
  task   : Nat
  formed : Bool
  deriving DecidableEq, Repr

/-- HOLD of a port bound to the ASID (R65). -/
def State.heldAsid (s : State) (asid : Nat) : Bool := s.ports.any (fun p => p.hold && p.asid == asid)

/-- A parked gang's image can be loaded (R83). DESIGN CHOICE (log 136): its pages are asked to translate for write, as its parking
asked. -/
def State.imageReady (s : State) (k : Task) (g : Gang) : Bool := !g.imaged || (match s.imagePieces k g.index k.imageBytes with
  | .ok _ => true
  | _ => false)

/-- A gang of a task can be placed as far as memory goes: its image loads, or it can be formed. -/
def State.canPlace (s : State) (k : Task) (index : Nat) : Bool := match s.gang? k.num index with
  | some g => s.imageReady k g
  | none => !s.formWaits k index

/-- The candidates of one task. A gang not yet formed stands for those that no parking is matched to. -/
def State.taskCands (s : State) (k : Task) (order : Nat) : List Cand :=
  if !k.ready || s.heldAsid k.asid then []
  else
    let spoken := (s.matched.filter (fun m => m.1 == k.num && m.2.1.isNone)).length
    (if k.formed + spoken < k.gangs ∧ !s.formWaits k k.formed then [⟨k.prioEff, k.readyAt, order, k.formed, k.num, false⟩] else [])
    ++ s.gangs.filterMap (fun g =>
      if g.task = k.num ∧ g.cluster = none ∧ g.ready ∧ s.imageReady k g ∧ !s.matched.any (fun m => m.1 == k.num && m.2.1 == some g.index)
      then some ⟨g.prio, g.readyAt, order, g.index, k.num, true⟩ else none)

/-- One candidate stands before another. -/
def Cand.before (a b : Cand) : Bool :=
  decide (b.prio < a.prio ∨ (a.prio = b.prio ∧ (a.ready < b.ready ∨ (a.ready = b.ready ∧ (a.order < b.order
    ∨ (a.order = b.order ∧ a.index < b.index))))))

def insertCand (c : Cand) : List Cand → List Cand
  | [] => [c]
  | d :: ds => if c.before d then c :: d :: ds else d :: insertCand c ds

/-- The ready unplaced gangs, first to last. A co-resident task stands as its first gang (R76). -/
def State.order (s : State) : List Cand :=
  let cs := (s.tasks.zip (List.range s.tasks.length)).flatMap (fun p =>
    let l := (s.taskCands p.1 p.2).foldr insertCand []
    if p.1.cores then l.take 1 else l)
  cs.foldr insertCand []

/-! ## Choosing a cluster (R74) -/

/-- Clusters in the order of R74: the dies after the one used last, each from its lowest number. -/
def State.clusterOrder (s : State) : List Nat :=
  let first := match s.lastDie with
    | some d => d + 1
    | none => 0
  (List.range 8).flatMap (fun i => tabulate 32 (fun c => 32 * ((first + i) % 8) + c))

/-- A cluster is reserved for another gang (R74). -/
def State.keptCluster (s : State) (cluster task index : Nat) : Bool := match s.reserved with
  | some (c, k, g) => c == cluster && !(k == task && g == index)
  | none => false

/-- A gang may be placed on a cluster: it fits beside the gangs that are matched to it. -/
def State.takes (s : State) (k : Task) (index cluster : Nat) : Bool :=
  !s.keptCluster cluster k.num index && s.fits k cluster [] (s.comingTo cluster)

/-- Where a gang goes. -/
def State.findCluster (s : State) (k : Task) (index : Nat) : Option Nat := s.clusterOrder.find? (s.takes k index)

/-! ## Issue slots (R32, R33) -/

/-- An active thread becomes resident. -/
def State.demote (s : State) (id : ThreadId) : State :=
  s.onThread id (fun t => { t with run := .resident, slot := none, readyAt := s.cycle })

/-- The active threads of a core. -/
def State.activeOn (s : State) (core : Nat) : List Thread :=
  s.threads.filter (fun t => t.run == .active && t.slot.isSome && s.coreOf t == some core)

/-- The earliest of a list by a number. -/
def earliest (f : Thread → Nat) (ts : List Thread) : Option Thread :=
  ts.foldl (fun best t => match best with
    | none => some t
    | some b => if f t < f b then some t else some b) none

/-- The stalls of item 3 of R32: a register miss, a full queue, a `uni` posting. -/
def State.stallsLong (s : State) (t : Thread) : Bool :=
  (match t.block with
    | .regMiss | .queue | .uni => true
    | _ => false) && s.isStalled t

/-- The thread that a core demotes when it needs a slot, by items 1 to 3 of R32, the one blocked or stalled longest first. A halted
thread holds no slot. -/
def demotable (s : State) (ts : List Thread) : Option Thread :=
  match earliest (·.since) (ts.filter (·.isBlocked)) with
  | some t => some t
  | none => earliest (·.since) (ts.filter s.stallsLong)

/-- A core makes a slot free, if it can. While a gang is being placed none of its threads is demoted (R31). -/
def State.makeSlot (s : State) (core : Nat) (placing : Option (Nat × Nat)) : Option (State × Nat) :=
  match s.freeSlot core with
  | some n => some (s, n)
  | none => match demotable s ((s.activeOn core).filter (fun t => placing != some (t.id.task, t.id.gang))) with
    | none => none
    | some t => let s := s.demote t.id; (s.freeSlot core).map (fun n => (s, n))

/-- A thread takes a slot. -/
def State.seatAt (s : State) (id : ThreadId) (n : Nat) : State := s.onThread id (fun t => t.seatedIn n s.cycle)

/-! ## Placement (R31, R83) -/

/-- A thread of a gang being placed: its identity and DMEM words are written (R42), its context comes back, it takes a slot, and waits
again where it waited, with a deadline that restarts (R137). One halted, retired or parked by a context fault stays so, its engine
commands checked (R251). -/
def State.placeThread (s : State) (id : ThreadId) : State :=
  match s.thread? id with
  | none => s
  | some t =>
    let s := s.writeIdentity id
    if t.run == .retired then s
    else if t.run == .halted || t.block == .ctxFault then s.reload id false
    else
      let s := s.reload id true
      match s.runsOn id with
      | none => s
      | some core => match (s.trimCache core).makeSlot core (some (id.task, id.gang)) with
        | none => s.onThread id (fun t => { t with run := .resident, slot := none, readyAt := s.cycle, deadline := none })
        | some (s, n) => ((s.seatAt id n).onThread id (fun t => { t with deadline := none })).rewait id

/-- A formed gang is placed on a cluster; a damaged line of its image is retired (log 138). -/
def State.placeGang (s : State) (k : Task) (index cluster : Nat) : State :=
  match s.gang? k.num index with
  | none => s
  | some g =>
    let (s, g) := match (if g.imaged then s.imagePieces k index k.imageBytes else .wait) with
      | .ok ps =>
        let s := ps.foldl (fun (s : State) (p : Nat × Nat × Nat) => s.scanned p.2.1 p.2.2) s
        (s, g.load k (s.getPieces ps))
      | _ => (s, g)
    let s := s.setGang { g with cluster := some cluster, ready := false, prio := k.prio, placedAt := s.stamp, parking := none }
    let s := { s with stamp := s.stamp + 1, lastDie := some (cluster / 32)
                      reserved := match s.reserved with
                        | some (c, t, i) => if t = k.num ∧ i = index then none else some (c, t, i)
                        | none => none }
    ((List.range k.size).map (fun r => (⟨k.num, index, r⟩ : ThreadId))).foldl State.placeThread s

/-- A gang of a task, formed first if need be, is placed. -/
def State.place (s : State) (k : Task) (index cluster : Nat) : State :=
  let s := if (s.gang? k.num index).isSome then s else s.formGang k
  match s.task? k.num with
  | some k => s.placeGang k index cluster
  | none => s

/-- The unplaced gangs of a task. -/
def State.unplaced (s : State) (k : Task) : List Nat :=
  (List.range k.gangs).filter (fun i => match s.gang? k.num i with
    | some g => g.cluster.isNone && (s.mates k.num i).any (fun t => !t.gone)
    | none => true)

/-- A candidate is placed on clusters that a choice finds: of a co-resident task all its unplaced gangs, one after another, or
none (R76). -/
def State.tryPlaceBy (s : State) (choose : State → Task → Nat → Option Nat) (c : Cand) : Option State :=
  match s.task? c.task with
  | none => none
  | some k =>
    (if k.cores then s.unplaced k else [c.index]).foldl (fun acc i => match acc with
      | none => none
      | some s => match s.task? k.num with
        | none => none
        | some k => if s.canPlace k i then (choose s k i).map (fun cl => s.place k i cl) else none) (some s)

def State.tryPlace (s : State) (c : Cand) : Option State := s.tryPlaceBy State.findCluster c

end Sys2Proof.Machine
end

