-- ==== Sys2Proof/Machine/Scalar.lean ====
section
/-! DEFINITION. The scalar register family, major 0x10 (R119 to R122), and the scalar immediate family, major 0x11 (R123 to
R125). No member changes FLAGS. -/

namespace Sys2Proof.Machine

/-! ## Operands and results (R120) -/

/-- W of R120. -/
def widthOf : SWidth → Nat
  | .w32 => 32
  | .w64 => 64

/-- A source read as signed. -/
def Thread.sInt (t : Thread) (w : SWidth) (n : SReg) : Int := signedNat (t.s n).toNat (widthOf w)
/-- A source read as unsigned. -/
def Thread.sNat (t : Thread) (w : SWidth) (n : SReg) : Nat := (t.s n).toNat % 2 ^ widthOf w
/-- What the destination receives: W bits of the result, sign-extended. -/
def scalarOut (w : SWidth) (x : Int) : Word := (BitVec.ofInt (widthOf w) x).signExtend 64
/-- The immediate of `cmpi` and of the arithmetic members, read as signed or unsigned (R124). -/
def immInt (w : SWidth) (i : Word) : Int := signedNat i.toNat (widthOf w)
def immNat (w : SWidth) (i : Word) : Nat := i.toNat % 2 ^ widthOf w

/-! ## Shapes -/

/-- An operation on two signed sources. -/
def binSigned (f : Int → Int → Int) (w : SWidth) (d a b : SReg) : Body := fun _ s t =>
  .ok s (t.setS d (scalarOut w (f (t.sInt w a) (t.sInt w b))))
/-- An operation on two unsigned sources. -/
def binUnsigned (f : Nat → Nat → Nat) (w : SWidth) (d a b : SReg) : Body := fun _ s t =>
  .ok s (t.setS d (scalarOut w (f (t.sNat w a) (t.sNat w b))))
/-- A division: ARITH when the divisor is 0 (R122). -/
def divide (zero : Bool) (r : Int) (w : SWidth) (d : SReg) : Body := fun _ s t =>
  if zero then .trap s { cause := .arith, detail := 1 } else .ok s (t.setS d (scalarOut w r))
/-- An operation on the bits of one source. -/
def unBits (f : Nat → Nat → Nat) (w : SWidth) (d a : SReg) : Body := fun _ s t =>
  .ok s (t.setS d (scalarOut w (f (widthOf w) (t.sNat w a))))
/-- An operation on one source and the immediate i. -/
def immOp (f : Nat → Nat → Nat) (w : SWidth) (d a : SReg) (imm : BitVec 32) : Body := fun c s t =>
  .ok s (t.setS d (scalarOut w (f (t.sNat w a) (immNat w (wideImm imm c.hi)))))

/-- Zero bits above the highest one among `n` bits; `n` for zero. -/
def leadingZeros (n x : Nat) : Nat := if x % 2 ^ n = 0 then n else n - 1 - (x % 2 ^ n).log2
/-- Zero bits below the lowest one among `n` bits; `n` for zero. -/
def trailingZeros (n x : Nat) : Nat := ((List.range n).find? (fun i => x.testBit i)).getD n
/-- One bits among `n`. -/
def popCount (n x : Nat) : Nat := ((List.range n).filter (fun i => x.testBit i)).length
/-- A rotation left within `n` bits. -/
def rotateLeft (n a b : Nat) : Nat := (a * 2 ^ (b % n) + a / 2 ^ (n - b % n)) % 2 ^ n

/-- The conditions of R121, on a source read both ways. -/
def condHolds (c : Cond) (a b : Int) (an bn : Nat) : Bool :=
  match c with
  | .eq => an == bn
  | .ne => an != bn
  | .lt => a < b
  | .ge => b ≤ a
  | .ltn => an < bn
  | .gen => bn ≤ an

/-! ## Major 0x10 (R120) -/

/-- a + b -/
def bodyAdd (w : SWidth) (d a b : SReg) : Body := binSigned (· + ·) w d a b
def execAdd (w : SWidth) (d a b : SReg) (s : State) : Host.Outcome State Fault Refusal :=
  issue (.add w d a b) (bodyAdd w d a b) s

/-- a - b -/
def bodySub (w : SWidth) (d a b : SReg) : Body := binSigned (· - ·) w d a b
def execSub (w : SWidth) (d a b : SReg) (s : State) : Host.Outcome State Fault Refusal :=
  issue (.sub w d a b) (bodySub w d a b) s

/-- a × b -/
def bodyMul (w : SWidth) (d a b : SReg) : Body := binSigned (· * ·) w d a b
def execMul (w : SWidth) (d a b : SReg) (s : State) : Host.Outcome State Fault Refusal :=
  issue (.mul w d a b) (bodyMul w d a b) s

/-- The high half of the signed product -/
def bodyMulh (w : SWidth) (d a b : SReg) : Body := binSigned (fun x y => floorShift (x * y) (widthOf w)) w d a b
def execMulh (w : SWidth) (d a b : SReg) (s : State) : Host.Outcome State Fault Refusal :=
  issue (.mulh w d a b) (bodyMulh w d a b) s

/-- The high half of the unsigned product -/
def bodyMulhn (w : SWidth) (d a b : SReg) : Body := binUnsigned (fun x y => x * y / 2 ^ widthOf w) w d a b
def execMulhn (w : SWidth) (d a b : SReg) (s : State) : Host.Outcome State Fault Refusal :=
  issue (.mulhn w d a b) (bodyMulhn w d a b) s

/-- a / b, signed, truncated toward zero -/
def bodyDiv (w : SWidth) (d a b : SReg) : Body := fun c s t =>
  divide (t.sInt w b == 0) (Int.tdiv (t.sInt w a) (t.sInt w b)) w d c s t
def execDiv (w : SWidth) (d a b : SReg) (s : State) : Host.Outcome State Fault Refusal :=
  issue (.div w d a b) (bodyDiv w d a b) s

/-- a / b, unsigned -/
def bodyDivn (w : SWidth) (d a b : SReg) : Body := fun c s t =>
  divide (t.sNat w b == 0) (t.sNat w a / t.sNat w b : Nat) w d c s t
def execDivn (w : SWidth) (d a b : SReg) (s : State) : Host.Outcome State Fault Refusal :=
  issue (.divn w d a b) (bodyDivn w d a b) s

/-- The remainder of `div`, with the sign of a -/
def bodyRem (w : SWidth) (d a b : SReg) : Body := fun c s t =>
  divide (t.sInt w b == 0) (Int.tmod (t.sInt w a) (t.sInt w b)) w d c s t
def execRem (w : SWidth) (d a b : SReg) (s : State) : Host.Outcome State Fault Refusal :=
  issue (.rem w d a b) (bodyRem w d a b) s

/-- The remainder of `divn` -/
def bodyRemn (w : SWidth) (d a b : SReg) : Body := fun c s t =>
  divide (t.sNat w b == 0) (t.sNat w a % t.sNat w b : Nat) w d c s t
def execRemn (w : SWidth) (d a b : SReg) (s : State) : Host.Outcome State Fault Refusal :=
  issue (.remn w d a b) (bodyRemn w d a b) s

/-- a AND b -/
def bodyAnd (w : SWidth) (d a b : SReg) : Body := binUnsigned (· &&& ·) w d a b
def execAnd (w : SWidth) (d a b : SReg) (s : State) : Host.Outcome State Fault Refusal :=
  issue (.and w d a b) (bodyAnd w d a b) s

/-- a OR b -/
def bodyOr (w : SWidth) (d a b : SReg) : Body := binUnsigned (· ||| ·) w d a b
def execOr (w : SWidth) (d a b : SReg) (s : State) : Host.Outcome State Fault Refusal :=
  issue (.or w d a b) (bodyOr w d a b) s

/-- a XOR b -/
def bodyXor (w : SWidth) (d a b : SReg) : Body := binUnsigned (· ^^^ ·) w d a b
def execXor (w : SWidth) (d a b : SReg) (s : State) : Host.Outcome State Fault Refusal :=
  issue (.xor w d a b) (bodyXor w d a b) s

/-- a AND NOT b -/
def bodyAndn (w : SWidth) (d a b : SReg) : Body := binUnsigned (fun x y => x &&& (2 ^ widthOf w - 1 - y)) w d a b
def execAndn (w : SWidth) (d a b : SReg) (s : State) : Host.Outcome State Fault Refusal :=
  issue (.andn w d a b) (bodyAndn w d a b) s

/-- a × 2^(b mod W) -/
def bodyShl (w : SWidth) (d a b : SReg) : Body := binUnsigned (fun x y => x * 2 ^ (y % widthOf w)) w d a b
def execShl (w : SWidth) (d a b : SReg) (s : State) : Host.Outcome State Fault Refusal :=
  issue (.shl w d a b) (bodyShl w d a b) s

/-- a / 2^(b mod W), unsigned -/
def bodyShr (w : SWidth) (d a b : SReg) : Body := binUnsigned (fun x y => x / 2 ^ (y % widthOf w)) w d a b
def execShr (w : SWidth) (d a b : SReg) (s : State) : Host.Outcome State Fault Refusal :=
  issue (.shr w d a b) (bodyShr w d a b) s

/-- a / 2^(b mod W), a signed, rounded down -/
def bodySar (w : SWidth) (d a b : SReg) : Body := fun _ s t =>
  .ok s (t.setS d (scalarOut w (floorShift (t.sInt w a) (t.sNat w b % widthOf w))))
def execSar (w : SWidth) (d a b : SReg) (s : State) : Host.Outcome State Fault Refusal :=
  issue (.sar w d a b) (bodySar w d a b) s

/-- a rotated left by b mod W -/
def bodyRol (w : SWidth) (d a b : SReg) : Body := binUnsigned (rotateLeft (widthOf w)) w d a b
def execRol (w : SWidth) (d a b : SReg) (s : State) : Host.Outcome State Fault Refusal :=
  issue (.rol w d a b) (bodyRol w d a b) s

/-- The lesser, signed -/
def bodyMin (w : SWidth) (d a b : SReg) : Body := binSigned (fun x y => if x ≤ y then x else y) w d a b
def execMin (w : SWidth) (d a b : SReg) (s : State) : Host.Outcome State Fault Refusal :=
  issue (.min w d a b) (bodyMin w d a b) s

/-- The greater, signed -/
def bodyMax (w : SWidth) (d a b : SReg) : Body := binSigned (fun x y => if x ≤ y then y else x) w d a b
def execMax (w : SWidth) (d a b : SReg) (s : State) : Host.Outcome State Fault Refusal :=
  issue (.max w d a b) (bodyMax w d a b) s

/-- The lesser, unsigned -/
def bodyMinn (w : SWidth) (d a b : SReg) : Body := binUnsigned (fun x y => if x ≤ y then x else y) w d a b
def execMinn (w : SWidth) (d a b : SReg) (s : State) : Host.Outcome State Fault Refusal :=
  issue (.minn w d a b) (bodyMinn w d a b) s

/-- The greater, unsigned -/
def bodyMaxn (w : SWidth) (d a b : SReg) : Body := binUnsigned (fun x y => if x ≤ y then y else x) w d a b
def execMaxn (w : SWidth) (d a b : SReg) (s : State) : Host.Outcome State Fault Refusal :=
  issue (.maxn w d a b) (bodyMaxn w d a b) s

/-- Leading zero bits of a -/
def bodyClz (w : SWidth) (d a : SReg) : Body := unBits leadingZeros w d a
def execClz (w : SWidth) (d a : SReg) (s : State) : Host.Outcome State Fault Refusal :=
  issue (.clz w d a) (bodyClz w d a) s

/-- Trailing zero bits of a -/
def bodyCtz (w : SWidth) (d a : SReg) : Body := unBits trailingZeros w d a
def execCtz (w : SWidth) (d a : SReg) (s : State) : Host.Outcome State Fault Refusal :=
  issue (.ctz w d a) (bodyCtz w d a) s

/-- One bits of a -/
def bodyPop (w : SWidth) (d a : SReg) : Body := unBits popCount w d a
def execPop (w : SWidth) (d a : SReg) (s : State) : Host.Outcome State Fault Refusal :=
  issue (.pop w d a) (bodyPop w d a) s

/-- a if c is not 0, else b -/
def bodySel (w : SWidth) (d a b c : SReg) : Body := fun _ s t =>
  .ok s (t.setS d (scalarOut w (if t.sNat w c ≠ 0 then t.sNat w a else t.sNat w b)))
def execSel (w : SWidth) (d a b c : SReg) (s : State) : Host.Outcome State Fault Refusal :=
  issue (.sel w d a b c) (bodySel w d a b c) s

/-- 1 if the condition holds, else 0 (R121) -/
def bodyCmp (w : SWidth) (cond : Cond) (d a b : SReg) : Body := fun _ s t =>
  .ok s (t.setS d (scalarOut w (if condHolds cond (t.sInt w a) (t.sInt w b) (t.sNat w a) (t.sNat w b) then 1 else 0)))
def execCmp (w : SWidth) (cond : Cond) (d a b : SReg) (s : State) : Host.Outcome State Fault Refusal :=
  issue (.cmp w cond d a b) (bodyCmp w cond d a b) s

/-! ## Major 0x11 (R124) -/

/-- A constant: sign-extended for `.i64`, or the 64-bit Imm() under `imx`; zero-extended for the float forms -/
def bodyLi (kind : LiKind) (d : SReg) (imm : BitVec 32) : Body := fun c s t =>
  .ok s (t.setS d (match kind with
    | .i64 => wideImm imm c.hi
    | .f32 => imm.zeroExtend 64
    | .f16 | .bf16 => (imm.extractLsb' 0 16).zeroExtend 64))
def execLi (kind : LiKind) (d : SReg) (imm : BitVec 32) (s : State) : Host.Outcome State Fault Refusal :=
  issue (.li kind d imm) (bodyLi kind d imm) s

/-- The low half of a below the low half of Imm() -/
def bodyLih (d a : SReg) (imm : BitVec 32) : Body := fun c s t =>
  .ok s (t.setS d ((wideImm imm c.hi).extractLsb' 0 32 ++ (t.s a).extractLsb' 0 32))
def execLih (d a : SReg) (imm : BitVec 32) (s : State) : Host.Outcome State Fault Refusal :=
  issue (.lih d a imm) (bodyLih d a imm) s

/-- a + i -/
def bodyAddi (w : SWidth) (d a : SReg) (imm : BitVec 32) : Body := immOp (· + ·) w d a imm
def execAddi (w : SWidth) (d a : SReg) (imm : BitVec 32) (s : State) : Host.Outcome State Fault Refusal :=
  issue (.addi w d a imm) (bodyAddi w d a imm) s

/-- a AND i -/
def bodyAndi (w : SWidth) (d a : SReg) (imm : BitVec 32) : Body := immOp (· &&& ·) w d a imm
def execAndi (w : SWidth) (d a : SReg) (imm : BitVec 32) (s : State) : Host.Outcome State Fault Refusal :=
  issue (.andi w d a imm) (bodyAndi w d a imm) s

/-- a OR i -/
def bodyOri (w : SWidth) (d a : SReg) (imm : BitVec 32) : Body := immOp (· ||| ·) w d a imm
def execOri (w : SWidth) (d a : SReg) (imm : BitVec 32) (s : State) : Host.Outcome State Fault Refusal :=
  issue (.ori w d a imm) (bodyOri w d a imm) s

/-- a XOR i -/
def bodyXori (w : SWidth) (d a : SReg) (imm : BitVec 32) : Body := immOp (· ^^^ ·) w d a imm
def execXori (w : SWidth) (d a : SReg) (imm : BitVec 32) (s : State) : Host.Outcome State Fault Refusal :=
  issue (.xori w d a imm) (bodyXori w d a imm) s

/-- a × 2^n; n is below W (R125) -/
def bodyShli (w : SWidth) (d a : SReg) (imm : BitVec 32) : Body := immOp (fun x n => x * 2 ^ n) w d a imm
def execShli (w : SWidth) (d a : SReg) (imm : BitVec 32) (s : State) : Host.Outcome State Fault Refusal :=
  issue (.shli w d a imm) (bodyShli w d a imm) s

/-- a / 2^n, a unsigned -/
def bodyShri (w : SWidth) (d a : SReg) (imm : BitVec 32) : Body := immOp (fun x n => x / 2 ^ n) w d a imm
def execShri (w : SWidth) (d a : SReg) (imm : BitVec 32) (s : State) : Host.Outcome State Fault Refusal :=
  issue (.shri w d a imm) (bodyShri w d a imm) s

/-- a / 2^n, a signed, rounded down -/
def bodySari (w : SWidth) (d a : SReg) (imm : BitVec 32) : Body := fun _ s t =>
  .ok s (t.setS d (scalarOut w (floorShift (t.sInt w a) imm.toNat)))
def execSari (w : SWidth) (d a : SReg) (imm : BitVec 32) (s : State) : Host.Outcome State Fault Refusal :=
  issue (.sari w d a imm) (bodySari w d a imm) s

/-- 1 if the condition holds between a and i, else 0 -/
def bodyCmpi (w : SWidth) (cond : Cond) (d a : SReg) (imm : BitVec 32) : Body := fun c s t =>
  let i := wideImm imm c.hi
  .ok s (t.setS d (scalarOut w (if condHolds cond (t.sInt w a) (immInt w i) (t.sNat w a) (immNat w i) then 1 else 0)))
def execCmpi (w : SWidth) (cond : Cond) (d a : SReg) (imm : BitVec 32) (s : State) : Host.Outcome State Fault Refusal :=
  issue (.cmpi w cond d a imm) (bodyCmpi w cond d a imm) s

/-- The address of the group's first word plus the immediate -/
def bodyAdr (d : SReg) (imm : BitVec 32) : Body := fun c s t =>
  .ok s (t.setS d (c.pc0 + wideImm imm c.hi))
def execAdr (d : SReg) (imm : BitVec 32) (s : State) : Host.Outcome State Fault Refusal :=
  issue (.adr d imm) (bodyAdr d imm) s

end Sys2Proof.Machine
end

