-- ==== Sys2Proof/Machine/System.lean ====
section
/-! DEFINITION. The system family, major 0xB0 (R144 to R153, R307). -/

namespace Sys2Proof.Machine

/-! ## Special registers (R144, R145) -/

/-- GRID: x, and y + Y·z (R27, R144). -/
def State.gridWord (s : State) (t : Thread) : Word :=
  match s.taskOf t with
  | some k =>
    let x := t.id.gang % k.gx
    let y := t.id.gang / k.gx % k.gy
    let z := t.id.gang / k.gx / k.gy
    BitVec.ofNat 32 (y + k.gy * z) ++ BitVec.ofNat 32 x
  | none => 0

/-- SNAPCTL (R145); EVEN reads 0 when SNAPEVT is not accepted (R350). -/
def State.snapCtl (s : State) : Word :=
  s.snap.seq ++ 0#16 ++ s.snap.event ++ 0#6 ++ BitVec.ofBool s.snap.keep ++ BitVec.ofBool (s.snap.even && s.feature 6)

/-- The value of a special register. -/
def State.special (s : State) (t : Thread) (n : Nat) : Word :=
  match n with
  | 0x00 => BitVec.ofNat 64 t.id.rank
  | 0x01 => BitVec.ofNat 64 t.id.gang
  | 0x02 => BitVec.ofNat 64 (s.gangSize t)
  | 0x03 => s.gridWord t
  | 0x04 => match s.taskOf t with
    | some k => k.card
    | none => 0
  | 0x05 => t.cbase
  | 0x06 => t.views
  | 0x07 => s.dmem t
  | 0x08 => t.tvec
  | 0x09 => t.tstat
  | 0x0A => t.flags.zeroExtend 64
  | 0x0B => t.seed.zeroExtend 64
  | 0x0C => s.typeBase (s.asidOf t)
  | 0x0D => BitVec.ofNat 64 (coreId ((s.coreOf t).getD 0))
  | 0x0E => s.featAcc0
  | 0x0F => s.featAcc1
  | 0x10 => BitVec.ofNat 64 (0x100 + Config.isaMinor)
  | 0x20 => t.asidx.zeroExtend 64
  | 0x21 => s.trapGang t.asidx.toNat &&& 0x01FFFFFFFFFFC00F#64
  | 0x22 => s.agbase
  | 0x23 => s.snapCtl
  | _ => 0

/-- `mtsr VIEWS` (R46): the first rule that the value breaks. -/
def viewsFault (x : Word) : Option TrapInfo :=
  let s := (getBits x 0 16).toNat
  let k := (getBits x 16 16).toNat
  let v := (getBits x 32 16).toNat
  if getBits x 48 16 ≠ 0 then some { cause := .illegal, detail := 12 }
  else if s % 8 ≠ 0 ∨ k % 32 ≠ 0 ∨ v % 256 ≠ 0 then some { cause := .align, detail := 4 }
  else if 0x3000 < s + 512 ∨ 0x3000 < k + 256 ∨ 0x3000 < v + 8192 then some { cause := .regRange, detail := 5 }
  else none

/-- A word of the ASID directory written (R310). -/
def State.setDirWord (s : State) (asid off : Nat) (w : Word) : State := s.storeHome .all (s.dirPA asid + off) (bytesOfWord w) none

/-- The write of a special register. DESIGN CHOICE (log 28): reserved bits of the privileged registers, and
bits [63:32] of SEED, are ignored. -/
def writeSpecial (s : State) (t : Thread) (n : Nat) (x : Word) : Res :=
  match n with
  | 0x06 =>
    match viewsFault x with
    | some i => .trap s i
    | none => .ok s { t with vwS := getBits x 0 16, vwK := getBits x 16 16, vwV := getBits x 32 16 }
  | 0x08 => if x.toNat % 8 ≠ 0 then .trap s { cause := .align, detail := 4 } else .ok s { t with tvec := x }
  | 0x09 =>
    if x &&& 0xFFC0000100000000#64 ≠ 0 then .trap s { cause := .illegal, detail := 12 }
    else .ok s { t with trapen := getBits x 32 32, ss := x.getLsbD 16 }
  | 0x0A => .ok s { t with flags := getBits x 0 6 }
  | 0x0B => .ok s { t with seed := if getBits x 0 32 = 0 then 1 else getBits x 0 32 }
  | 0x0C => .ok (s.setDirWord t.asidx.toNat 0x10 x) t
  | 0x20 => .ok s { t with asidx := getBits x 0 16 }
  | 0x21 =>
    let a := t.asidx.toNat
    let s := s.setDirWord a 0x20 (x &&& 0x01FFFFFFFFFFC00F#64)
    .ok { s with trapBy := s.trapBy.filter (fun p => p.1 != a) ++ [(a, s.asidOf t)] } t
  | 0x22 => .ok (State.domainsCheck { s with agbase := x, agAsid := s.asidOf t }) t
  | 0x23 =>
    .ok { s with snap := { s.snap with event := getBits x 8 8, keep := x.getLsbD 1, even := x.getLsbD 0 && s.feature 6 } } t
  | _ => .trap s { cause := .priv, detail := 0 }


/-- S(D) := the special register -/
def bodyMfsr (d : SReg) (idx : BitVec 32) : Body := fun _ s t => .ok s (t.setS d (s.special t idx.toNat))
def execMfsr (d : SReg) (idx : BitVec 32) (s : State) : Host.Outcome State Fault Refusal :=
  issue (.mfsr d idx) (bodyMfsr d idx) s

/-- The special register := S(A), from the next instruction on -/
def bodyMtsr (a : SReg) (idx : BitVec 32) : Body := fun _ s t => writeSpecial s t idx.toNat (t.s a)
def execMtsr (a : SReg) (idx : BitVec 32) (s : State) : Host.Outcome State Fault Refusal :=
  issue (.mtsr a idx) (bodyMtsr a idx) s

/-! ## Translation (R148, R149, R307) -/

/-- What a `tlbi` names. -/
def tlbiShoot (kind : TlbiKind) (asid base len : Nat) : Shoot :=
  match kind with
  | .range => .range asid base len
  | .asid => .asid asid
  | .all => .all

/-- Removes held translations and advances the TLB epoch -/
def bodyTlbi (kind : TlbiKind) (a b : SReg) : Body := fun _ s t =>
  if kind = .range ∧ 2 ^ 57 < (t.s a).toNat + (t.s b).toNat then .trap s { cause := .addr, detail := 8, addr := t.s a }
  else .ok (s.shootDown (tlbiShoot kind t.asidx.toNat (t.s a).toNat (t.s b).toNat)) t
def execTlbi (kind : TlbiKind) (a b : SReg) (s : State) : Host.Outcome State Fault Refusal :=
  issue (.tlbi kind a b) (bodyTlbi kind a b) s

/-- Accesses that may still be in flight under a translation older than the last `tlbi` (R307): stream operations translated and
outside requests sent before it, engine writes that wait at issue, and engine segments that wait for data (R253). -/
def State.inFlight (s : State) (me : ThreadId) : Bool :=
  s.tx.any (fun x => x.unacked.any (fun u => decide (u.since ≤ s.shotAt))) || s.outQ.any (fun q => decide (q.since ≤ s.shotAt))
    || s.segs.any (fun h => decide (h.since ≤ s.shotAt))
    || s.pends.any (fun p => p.owner != .thread me && p.answer.isNone && decide (p.sent ≤ s.shotAt))

/-- Stalls until every earlier `tlbi` has taken effect and older accesses have drained -/
def bodyTlbsync : Body := fun _ s t => if s.inFlight t.id then .retry s .none else .ok s t
def execTlbsync (s : State) : Host.Outcome State Fault Refusal :=
  issue .tlbsync bodyTlbsync s

/-- Moves a page to a local frame; D is pending until the move ends -/
def bodyPgmig (d a b : SReg) : Body := fun _ s t =>
  let asid := t.asidx.toNat
  let va := (t.s a).toNat
  let frame := (t.s b).toNat
  if s.underMigration asid va then .retry s .none
  else let read := s.readNodes asid va; match s.walk asid va with
    | .wait => .retry s .none
    | .leaf page size leaf pa =>
      let s := read
      if 2 ^ 32 ≤ frame ∨ frame * 4096 % size ≠ 0 then .ok s (t.setS d (statusWord 13 0 0))
      else if pteMode leaf ≠ 0 ∧ (ptePeer leaf = 0xFFFF ∨ s.hasFabric = false) then .ok s (t.setS d (statusWord 12 4 0))
      else .ok (s.startMigration asid page size frame pa leaf (some (t.id, d))) (t.setPending (.s d))
    | _ => .ok read (t.setS d (statusWord 5 1 0))
def execPgmig (d a b : SReg) (s : State) : Host.Outcome State Fault Refusal :=
  issue (.pgmig d a b) (bodyPgmig d a b) s

/-- Sets the scratchpad ceiling of the thread's cluster -/
def bodySpsplit (a : SReg) : Body := fun _ s t =>
  let n := (t.s a).toNat
  if n % 65536 ≠ 0 ∨ 448 * 1024 < n then .trap s { cause := .illegal, detail := 12 }
  else match s.gangOf t with
    | some g => .ok (match g.cluster with
      | some c => { s with ceilings := s.ceilings.filter (fun p => p.1 != c) ++ [(c, n)] }
      | none => s) t
    | none => .ok s t
def execSpsplit (a : SReg) (s : State) : Host.Outcome State Fault Refusal :=
  issue (.spsplit a) (bodySpsplit a) s

/-! ## Halting and resuming (R151) -/

/-- The ASID whose threads a thread may halt and resume. -/
def State.haltAsid (s : State) (t : Thread) : Nat := if s.asidPriv (s.asidOf t) then t.asidx.toNat else s.asidOf t

/-- The target of `thalt` and `tresume`. -/
def State.target (s : State) (t : Thread) (cbase : Word) : Option Thread :=
  s.threads.find? (fun u => u.cbase == cbase && s.asidOf u == s.haltAsid t)

/-- A thread is halted by another: its context follows into memory even when its gang is parked (R151); none while a page that it has
lines of is under migration, for which the halt waits (R320). -/
def State.haltOther (s : State) (u : Thread) : Option State :=
  if u.run == .parked && !u.hasControl then
    match s.editThread u.id controlLine (fun v => { v with run := .halted, hcause := 0 }) with
    | .ok s => some s
    | .bad => some (s.halt u 0)
    | .wait => none
  else if s.linesHeldUp u u.resident then none
  else some (s.halt u 0)

/-- Halts a thread; D receives the result code -/
def bodyThalt (d a : SReg) : Body := fun _ s t =>
  match s.target t (t.s a) with
  | none => .ok s (t.setS d 3)
  | some u =>
    if u.id = t.id then
      if s.linesHeldUp t t.resident then .retry s .regMiss
      else let (s, t) := s.stopThread (t.setS d 0) 0; .ok s t
    else match u.run with
      | .retired => .ok s (t.setS d 2)
      | .halted => .ok s (t.setS d 1)
      | _ => if s.midAtomic u.id then .retry s .none else match s.haltOther u with
        | some s => .ok s (t.setS d 0)
        | none => .retry s .none
def execThalt (d a : SReg) (s : State) : Host.Outcome State Fault Refusal :=
  issue (.thalt d a) (bodyThalt d a) s

/-- Resumes a halted thread, or one parked by a context fault; D receives the result code -/
def bodyTresume (d a : SReg) : Body := fun _ s t =>
  match s.target t (t.s a) with
  | none => .ok s (t.setS d 3)
  | some u =>
    match u.run with
    | .retired => .ok s (t.setS d 2)
    | .halted => if s.linesHeldUp u allLines then .retry s .none else if s.resumeOk u then .ok (s.resume u.id) (t.setS d 0) else .ok s (t.setS d 4)
    | .parked =>
      if u.block != .ctxFault then .ok s (t.setS d 1)
      else if s.linesHeldUp u allLines then .retry s .none
      else if s.resumeOk u then .ok (s.resume u.id) (t.setS d 0)
      else .ok s (t.setS d 4)
    | _ => .ok s (t.setS d 1)
def execTresume (d a : SReg) (s : State) : Host.Outcome State Fault Refusal :=
  issue (.tresume d a) (bodyTresume d a) s

/-! ## The remaining members (R152, R153) -/

/-- Returns from the in-thread handler -/
def bodyTrapret : Body := fun _ s t => if t.trapRec.handler then .ok s t.trapReturn else .trap s { cause := .illegal, detail := 12 }
def execTrapret (s : State) : Host.Outcome State Fault Refusal :=
  issue .trapret bodyTrapret s

/-- Fires the snapshot trigger; D := SEQ after it -/
def bodySnap (d : SReg) : Body := fun _ s t =>
  let s := s.trigger 1
  .ok s (t.setS d ((s.snap.seq + BitVec.ofNat 32 s.snap.armed.length).zeroExtend 64))
def execSnap (d : SReg) (s : State) : Host.Outcome State Fault Refusal :=
  issue (.snap d) (bodySnap d) s

/-- The gang barrier written whole (R152): a parked gang's word follows into memory; a mask that holds every rank that has
not retired completes the phase. -/
def State.setGbar (s : State) (g : Gang) (pa : Nat) (w : Word) : State :=
  let g' := { g with phase := getBits w 32 32, arrived := getBits w 0 32 }
  let s := ((s.setGang g').releaseThreads (fun t => t.atGbar g && phasePassed g'.phase t.savedPhase32)).gbarCheck g.task g.index
  match g.cluster, s.gang? g.task g.index with
  | none, some h => s.storeHome .all pa (bytesOfWord h.gbarWord) none
  | _, _ => s

/-- The barrier word of `bset`, in the ASID of ASIDX (R145). -/
def State.bsetPlace (s : State) (t : Thread) (va : Nat) : Check Place :=
  if va % 8 ≠ 0 then .trap s { cause := .align, detail := 1, addr := BitVec.ofNat 64 va }
  else match s.translate (s.coreOf t) t.asidx.toNat va ⟨true, true, false, false⟩ with
    | .wait => .wait s
    | .fault s c table pa => .trap s (trFault c 3 (BitVec.ofNat 64 va) 0 table pa)
    | .ok s page size leaf =>
      if pteMode leaf = 0 then .ok s (.hbm (leafPA page leaf va) leaf) else .ok s (.peer (ptePeer leaf) size leaf)

/-- Writes a barrier word, or the barrier state of a gang -/
def bodyBset (m : MemOp) (d : SReg) : Body := fun c s t =>
  let va := (effAddr t m c.hi).toNat
  match s.bsetPlace t va with
  | .trap s i => .trap s i
  | .wait s => .retry s .none
  | .ok s p =>
    match t.watchHit .atomic .glob 8 [(0, va, some ((t.s m.index).toNat, 32))] with
    | some i => .trap s i
    | none =>
      if t.elemHeld .atomic .glob 8 ⟨0, va, p⟩ then .retry s .none
      else match p with
        | .hbm pa leaf =>
          if s.dataBad pa 8 then let (s, i) := s.dataErr pa 8 va 0; .trap s i
          else
            let s := s.atHome pa (localAtomicRank ((s.coreOf t).getD 0))
            match s.gbarGang t.asidx.toNat va with
            | some g => .ok (s.setGbar g pa (t.s d)) t
            | none => .ok (s.storeHome (viaOf t.asidx.toNat va leaf) pa (bytesOfWord (t.s d)) none) t
        | .peer dev _ _ => .trap s (remoteTrap ⟨.remoteUnsup, (s.unreachable dev).getD 0⟩ 3 va 0)
        | _ => .ok s t
def execBset (m : MemOp) (d : SReg) (s : State) : Host.Outcome State Fault Refusal :=
  issue (.bset m d) (bodyBset m d) s

/-! ## agset (R152, R379) -/

/-- One element of the list, read when its turn comes. -/
inductive Listed where
  | got (s : State) (x : Nat)
  | stop (r : Res)

/-- An aligned element of `n` bytes of the thread's memory, wherever it lies; answers from outside are kept. -/
def State.readListed (s : State) (t : Thread) (n va : Nat) : Listed :=
  let o := Owner.thread t.id
  let asid := s.asidOf t
  match s.checkElem t .load .glob n n 0 va with
  | .trap s i => .stop (.trap (s.dropPends o) i)
  | .wait s => .stop (.retry s .none)
  | .ok s p =>
    let e : Elem := ⟨0, va, p⟩
    match s.outside o t asid false 1 [e] with
    | .failed i => .stop (.trap (s.dropPends o) i)
    | .asked s => .stop (.retry s .none)
    | .ready =>
      match s.firstBad t n [e] with
      | some e => let (s, i) := s.elemErr t n e; .stop (.trap s i)
      | none => .got s (natOfBytes (s.elemBytes o t asid e n))

/-- The members of a list in rank order, until one of them is 0xFFFF: none then. -/
def State.readMembers (t : Thread) : Nat → Nat → List (BitVec 16) → State → Except Res (State × Option (List (BitVec 16)))
  | 0, _, acc, s => .ok (s, some acc.reverse)
  | n + 1, va, acc, s =>
    match s.readListed t 2 va with
    | .stop r => .error r
    | .got s x => if x = 0xFFFF then .ok (s, none) else State.readMembers t n (va + 2) (BitVec.ofNat 16 x :: acc) s

/-- The bytes of a group in the table: the members, then 0xFFFF (R379). -/
def groupBytes (ms : List (BitVec 16)) : List Byte :=
  ms.flatMap (fun m => bytesOfNat 2 m.toNat) ++ List.replicate (2 * (1024 - ms.length)) 0xFF

/-- The pages of a group's part of the table, writable in the ASID that wrote AGBASE. DESIGN CHOICE (log 29): a fault there
is raised like one on the list. -/
def State.tablePages (s : State) (t : Thread) : List (Nat × Nat) → Check (List (Nat × Nat × Nat))
  | [] => .ok s []
  | (va, n) :: rest =>
    match s.translate (s.coreOf t) s.agAsid va ⟨false, true, false, false⟩ with
    | .wait => .wait s
    | .fault s c table pa => .trap s (trFault c 2 (BitVec.ofNat 64 va) 0 table pa)
    | .ok s page _ leaf =>
      if pteMode leaf ≠ 0 then .trap s { cause := .remoteUnsup, detail := 0, addr := BitVec.ofNat 64 va }
      else match s.tablePages t rest with
        | .ok s ps => .ok s ((leafPA page leaf va, va, n) :: ps)
        | r => r

/-- A range cut at page boundaries: two parts at most for 2 KiB. -/
def cutPages (va n : Nat) : List (Nat × Nat) :=
  let k := min n (4096 - va % 4096)
  if k = n then [(va, n)] else [(va, k), (va + k, n - k)]

/-- The group replaced, in the table and in the device's own copy; the domains of levels 4 and 5 look again (R139). -/
def State.takeGroup (s : State) (t : Thread) (g : Nat) (ms : List (BitVec 16)) : Check Unit :=
  let base := s.agbase.toNat + 2048 * g
  match s.tablePages t (cutPages base 2048) with
  | .trap s i => .trap s i
  | .wait s => .wait s
  | .ok s ps =>
    let bs := groupBytes ms
    let s := ps.foldl (fun s p => s.storeHome .all p.1 ((bs.drop (p.2.1 - base)).take p.2.2) none) s
    .ok (State.domainsCheck { s with groups := s.groups.filter (fun e => e.1 != g) ++ [(g, ms)] }) ()

/-- Replaces an address group with a list -/
def bodyAgset (d a b : SReg) : Body := fun _ s t =>
  let va := (t.s b).toNat
  let o := Owner.thread t.id
  let ends (s : State) (code detail : Nat) : Res := .ok (s.dropPends o) (t.setS d (statusWord code detail 0))
  if s.agbase = 0 then ends s 12 2
  else if 256 ≤ (t.s a).toNat then ends s 13 2
  else match s.readListed t 8 va with
    | .stop r => r
    | .got s h =>
      if 65536 ≤ h then ends s 13 2
      else if 1024 < h then ends s 13 1
      else match State.readMembers t h (va + 8) [] s with
        | .error r => r
        | .ok (s, none) => ends s 12 1
        | .ok (s, some ms) =>
          match s.takeGroup t (t.s a).toNat ms with
          | .trap s i => .trap (s.dropPends o) i
          | .wait s => .retry s .none
          | .ok s _ => .ok (s.dropPends o) (t.setS d (statusWord 0 0 ms.length))
def execAgset (d a b : SReg) (s : State) : Host.Outcome State Fault Refusal :=
  issue (.agset d a b) (bodyAgset d a b) s

end Sys2Proof.Machine
end

