-- ==== Sys2Proof/Machine/ThreadOps.lean ====
section
/-! DEFINITION. Threads and domains, major 0x70 (R130 to R143). -/

namespace Sys2Proof.Machine

/-! ## wait (R133 to R137) -/

/-- A condition's fields (R134). -/
def condKind (w : Word) : Nat := (getBits w 62 2).toNat
def condOp (w : Word) : Nat := (getBits w 60 2).toNat
def condReg (w : Word) : SReg := getBits w 54 6
def condAddr (w : Word) : Nat := (getBits w 0 54).toNat * 8

/-- A descriptor breaks its limits (R134). -/
def condBad (w : Word) : Bool :=
  match condKind w with
  | 0 => condOp w != 0 || getBits w 0 54 != 0
  | 1 => condOp w == 3
  | 2 => condOp w != 0
  | _ => condOp w != 0 || getBits w 8 46 != 0 || condReg w < 48 || 55 < condReg w

/-- The kinds that read a word of memory and S(CREG). -/
def condReads (w : Word) : Bool := condKind w == 1 || condKind w == 2

/-- The conditions of a `wait`, in order. -/
def waitConds (t : Thread) (a : VReg) (count : Nat) : List Word := tabulate count (fun i => getBits (t.v a) (64 * i) 64)

/-- The words of the conditions, checked as R137 says: the place of each memory or barrier word with its lane. -/
def State.checkWords (t : Thread) : State → List (Nat × Word) → Check (List Elem)
  | s, [] => .ok s []
  | s, (l, c) :: rest =>
    if !condReads c then State.checkWords t s rest
    else match s.checkGlobal t .waitWord l (condAddr c) with
      | .trap s i => .trap s i
      | .wait s => .wait s
      | .ok s p =>
        match State.checkWords t s rest with
        | .ok s es => .ok s (⟨l, condAddr c, p⟩ :: es)
        | r => r

/-- The word of a condition as memory has it. -/
def State.condWord (s : State) (asid : Nat) (es : List Elem) (l : Nat) : Option Word :=
  match es.find? (fun e => e.lane == l) with
  | some ⟨_, addr, .hbm pa leaf⟩ => some (wordOfBytes (s.readVia (viaOf asid addr leaf) pa 8))
  | _ => none

/-- A condition holds (R134). -/
def State.condHolds (s : State) (t : Thread) (es : List Elem) (l : Nat) (c : Word) : Bool :=
  let r := condReg c
  match condKind c with
  | 0 => r == 0 || (t.isValid (.s r) && !t.isPending (.s r))
  | 1 =>
    match s.condWord (s.asidOf t) es l with
    | some m => (match condOp c with
        | 0 => m == t.s r
        | 1 => m != t.s r
        | _ => decide (t.s r ≤ m))
    | none => false
  | 2 =>
    match s.condWord (s.asidOf t) es l with
    | some m => barCompleted m (getBits (t.s r) 0 24)
    | none => false
  | _ => t.deposits.getD (r.toNat - 48) 0 != getBits c 0 8

/-- The conditions that hold now, by number (R135). -/
def State.condsNow (s : State) (t : Thread) (es : List Elem) (cs : List Word) : List Nat :=
  (List.range cs.length).filter (fun i => s.condHolds t es i (cs.getD i 0))

/-- The `wait` may exit (R135). -/
def waitExits (all : Bool) (count : Nat) (timed out : Bool) (sat : List Nat) : Bool :=
  (if all then sat.length == count && count != 0 else !sat.isEmpty) || out || (count == 0 && !timed)

/-- The result (R135). -/
def waitResult (sat : List Nat) (out : Bool) : Word := BitVec.ofNat 64 ((sat.map (2 ^ ·)).sum + if out then 128 else 0)

/-- The exit is an acquire at system scope when a memory, barrier or deposit condition is in it (R136), or the validity of a
register that holds a status at system scope (R205). -/
def Thread.waitAcquires (t : Thread) (cs : List Word) (sat : List Nat) : Bool := sat.any (fun i =>
  let c := cs.getD i 0
  condKind c != 0 || t.wideStat.getLsbD (condReg c).toNat)

/-- The first register of a memory or barrier condition that is not valid. DEDUCED (log 26): before the limits (R326). -/
def condInvalid (t : Thread) (cs : List Word) : Option SReg :=
  (cs.find? (fun c => condReads c && !condBad c && !t.isValid (.s (condReg c)))).map condReg

/-- A blocked or parked thread's `wait` could exit now (R33, R35): evaluated on its registers as they stand. One whose deadline is to
restart executes again to set it (R137). -/
def State.waitReady (s : State) (t : Thread) (all : Bool) (count : BitVec 3) (a : VReg) (b : SReg) : Bool :=
  let n := count.toNat
  let cs := waitConds t a n
  let out := t.s b != 0 && (match t.deadline with
    | some d => decide (d ≤ s.tick)
    | none => true)
  match State.checkWords t s ((List.range n).zip cs) with
  | .ok s es => waitExits all n (t.s b != 0) out (s.condsNow t es cs) || es.any (fun e => match e.place with | .hbm .. => false | _ => true)
  | .trap .. => true
  | .wait _ => false


/-- Blocks until one or all of up to four conditions hold, or until a time-out expires -/
def bodyWait (all : Bool) (count : BitVec 3) (d : SReg) (a : VReg) (b : SReg) : Body := fun c s t =>
  let n := count.toNat
  let cs := waitConds t a n
  let timed := t.s b != 0
  match condInvalid t cs with
  | some r => .trap s { cause := .rdInv, detail := r.toNat }
  | none =>
    if cs.any condBad then .trap s { cause := .illegal, detail := 12 }
    else if cs.any (fun c => condReads c && t.isPending (.s (condReg c))) then .retry s .none
    else match State.checkWords t s ((List.range n).zip cs) with
      | .trap s i => .trap s i
      | .wait s => .retry s .none
      | .ok s es =>
        match t.watchHit .waitWord .glob 8 (es.map (fun e => (e.lane, e.addr, none))) with
        | some i => .trap s i
        | none =>
          match (es.filterMap (fun e => match e.place with
            | .peer dev _ _ => some (s, remoteTrap ⟨.remoteUnsup, (s.unreachable dev).getD 0⟩ 6 e.addr e.lane)
            | .hbm pa _ => if s.dataBad pa 8 then some (s.dataErr pa 8 e.addr e.lane) else none
            | _ => none)).head? with
          | some (s, i) => .trap s i
          | none =>
            let dl := if timed then some (t.deadline.getD (s.tick + (t.s b).toNat)) else none
            let out := match dl with
              | some x => decide (x ≤ s.tick)
              | none => false
            let sat := s.condsNow t es cs
            if waitExits all n timed out sat then
              .ok (s.acquired (t.waitAcquires cs sat) .sys) { (t.setS d (waitResult sat out)) with deadline := none }
            else .wait s { t with pc := c.pc0, block := .wait, saved := tabulate 4 (fun i => cs.getD i 0), deadline := dl }
def execWait (all : Bool) (count : BitVec 3) (d : SReg) (a : VReg) (b : SReg) (s : State) : Host.Outcome State Fault Refusal :=
  issue (.wait all count d a b) (bodyWait all count d a b) s

/-! ## Submission and scheduling (R130 to R132) -/

/-- Submits a chain of task cards through a port of its own ASID -/
def bodySpawn (d a : SReg) (port : BitVec 6) : Body := fun _ s t =>
  let p := port.toNat
  let x := s.port p
  if x.asid ≠ s.asidOf t then .ok s (t.setS d (statusWord 12 1 0))
  else if !x.takesHead then .ok s (t.setS d (statusWord 12 2 0))
  else if !s.mayRelease t true .sys then .retry (s.flushLast (.thread t.id)) .none
  else
    -- the status may land at once in this very thread: it is stored first, and taken up again
    let s := (s.setThread (t.setPending (.s d))).startPort p (t.s a) (some (t.id, d))
    .ok s ((s.thread? t.id).getD t)
def execSpawn (d a : SReg) (port : BitVec 6) (s : State) : Host.Outcome State Fault Refusal :=
  issue (.spawn d a port) (bodySpawn d a port) s

/-- Hands the issue slot to a ready resident thread of the core -/
def bodyYield : Body := fun _ s t =>
  let core := s.coreOf t
  if s.threads.any (fun u => s.readyResident u && u.id != t.id && s.coreOf u == core) then
    .ok s { t with run := .resident, slot := none, readyAt := s.cycle }
  else .ok s t
def execYield (s : State) : Host.Outcome State Fault Refusal :=
  issue .yield bodyYield s

/-- Ends the thread; it is dropped from every barrier it has not arrived at -/
def bodyRetire : Body := fun _ s t =>
  let t := { t with run := .retired, slot := none }
  .ok ((s.setThread t).departed t.id) t
def execRetire (s : State) : Host.Outcome State Fault Refusal :=
  issue .retire bodyRetire s

/-! ## Barriers (R138 to R140) -/

/-- An arrival at the gang barrier, from `gbar` or `dbar 1`. -/
def gangBarrier (block : Block) (level : Nat) : Body := fun _ s t =>
  match s.gangOf t with
  | none => .ok s t
  | some g =>
    let g := { g with arrived := g.arrived ||| onesAt 32 t.id.rank 1 }
    if s.gbarFull g then
      let g' := { g with phase := g.phase + 1, arrived := 0 }
      .ok ((s.setGang g').releaseThreads (fun u => u.id != t.id && u.atGbar g && phasePassed g'.phase u.savedPhase32)) t
    else .wait (s.setGang g) { t with block := block, saved := savedPhaseWait level g.phase }

/-- Waits until every thread of the gang that has not retired has arrived -/
def bodyGbar : Body := gangBarrier .gbar 0
def execGbar (s : State) : Host.Outcome State Fault Refusal :=
  issue .gbar bodyGbar s

/-- An arrival at the open phase of a domain of level 2 to 5, or a wait for the phase after it (R139). -/
def domainBarrier (level : Nat) : Body := fun _ s t =>
  let key := s.domainKey t level
  let dom := s.domain level key
  if dom.open' && !dom.members.contains t.id.task then
    .wait s { t with block := .dbar, nextPhase := true, saved := savedPhaseWait level (dom.phase + 1) }
  else
    let t' := { t with block := .dbar, nextPhase := false, saved := savedPhaseWait level dom.phase }
    -- the arriving thread's own step, if it has one, is taken when its group ends
    let s := ((s.setThread { t' with ss := false }).setDomain (s.arriveAt dom t.id)).domainsCheck
    if phasePassed (s.domain level key).phase dom.phase then .ok s t
    else .wait s t'

/-- Separates the phases of the thread's level-L domain -/
def bodyDbar (level : BitVec 32) : Body := fun c s t =>
  let l := level.toNat
  if (s.dmem t).toNat % 8 < l then .trap s { cause := .illegal, detail := 12 }
  else if l = 0 then .ok s t
  else if l = 1 then gangBarrier .dbar 1 c s t
  else domainBarrier l c s t
def execDbar (level : BitVec 32) (s : State) : Host.Outcome State Fault Refusal :=
  issue (.dbar level) (bodyDbar level) s

/-! ## Gang mates (R142, R143) -/

/-- Writes 1 in the first thread of the gang that executes its k-th `elect`, among those of one cycle the lowest rank (R142) -/
def bodyElect (d : SReg) : Body := fun _ s t =>
  match s.gangOf t with
  | none => .ok s t
  | some g =>
    let k := g.elects.getD t.id.rank 0 + 1
    let wins := phasePassed k g.elected
    let g := { g with elects := g.elects.set t.id.rank k, elected := if wins then k else g.elected }
    .ok ((s.setGang g).inOrder (.elect t.id.task t.id.gang k.toNat t.id.rank)) (t.setS d (if wins then 1 else 0))
def execElect (d : SReg) (s : State) : Host.Outcome State Fault Refusal :=
  issue (.elect d) (bodyElect d) s

/-- A mailbox field outside 48 to 55, or a rank at or above the gang size (R143). -/
def depositFault (s : State) (t : Thread) (box : BitVec 6) (rank : Word) : Option Nat :=
  if box < 48 ∨ 55 < box then some 1 else if s.gangSize t ≤ rank.toNat then some 2 else none

/-- A mailbox as it lies: in the register cache, else in the context block (R142). Where that does not translate, what the
register cache last held, DESIGN CHOICE (log 27); none while its page is under migration. -/
def State.mailboxOf (s : State) (u : Thread) (box : BitVec 6) : Option Word :=
  match s.loadRegs u [.s box] with
  | .ok (_, w) => some (w.s box)
  | .wait => none
  | .bad => some (u.s box)

/-- Reads a gang mate's mailbox, whatever its valid bit -/
def bodyGget (d a : SReg) (b : BitVec 6) : Body := fun _ s t =>
  match depositFault s t b (t.s a) with
  | some n => .trap s { cause := .deposit, detail := n }
  | none =>
    let id : ThreadId := ⟨t.id.task, t.id.gang, (t.s a).toNat⟩
    match (if id = t.id then s.mailboxOf t b else match s.thread? id with
      | some u => s.mailboxOf u b
      | none => some 0) with
    | some x => .ok s (t.setS d x)
    | none => .retry s .none
def execGget (d a : SReg) (b : BitVec 6) (s : State) : Host.Outcome State Fault Refusal :=
  issue (.gget d a b) (bodyGget d a b) s

/-- Deposits S(B) into a mailbox of a gang mate: those of one cycle in ascending rank (R56) -/
def bodyGput (d : BitVec 6) (a b : SReg) : Body := fun _ s t =>
  match depositFault s t d (t.s a) with
  | some n => .trap s { cause := .deposit, detail := n }
  | none =>
    let id : ThreadId := ⟨t.id.task, t.id.gang, (t.s a).toNat⟩
    -- the thread itself may be the target: it is stored first, and taken up again
    match ((s.setThread t).inOrder (.deposit id t.id.rank)).deposit id (d.toNat - 48) (t.s b) with
    | .refused s n => .trap s { cause := .deposit, detail := n }
    | .done s => .ok s ((s.thread? t.id).getD t)
    | .wait => .retry s .none
def execGput (d : BitVec 6) (a b : SReg) (s : State) : Host.Outcome State Fault Refusal :=
  issue (.gput d a b) (bodyGput d a b) s

/-- The device's tick count since power-good -/
def bodyTnow (d : SReg) : Body := fun _ s t => .ok s (t.setS d (BitVec.ofNat 64 s.tick))
def execTnow (d : SReg) (s : State) : Host.Outcome State Fault Refusal :=
  issue (.tnow d) (bodyTnow d) s

end Sys2Proof.Machine
end

