-- ==== Sys2Proof/Machine/Prefix.lean ====
section
/-! DEFINITION. Hints and prefix groups, majors 0xE0 to 0xF2 (R104, R106, R107, R110 to R117), and the posting of a `uni`. -/

namespace Sys2Proof

/-- The upper half of the value that an `imx` gives (R117). -/
def Instr.hiPart : Instr → Option (BitVec 32)
  | .imx hi _ => some hi
  | .uni i => i.hiPart
  | .rep _ _ _ _ _ i => i.hiPart
  | _ => none

/-- A word of a form with other register numbers. -/
def Form.withRegs (f : Form) (r : RegNums) : Form :=
  match f with
  | .a j n f => .a j n { f with d := r.d, a := r.a, b := r.b, c := r.c }
  | .i j n f => .i j n { f with d := r.d, a := r.a }
  | .m j n f => .m j n { f with d := r.d, a := r.a, b := r.b }
  | .ma j n f => .ma j n { f with d := r.d, a := r.a, b := r.b, c := r.c }
  | f => f

/-- Registers of a class that a stepped field may name (R99, R114). -/
def RClass.limit : RClass → Int
  | .vec | .vecIn | .vecOut => 32
  | .mask => 8
  | _ => 64

end Sys2Proof

namespace Sys2Proof.Machine

/-! ## Bodies that a prefix may stand before -/

/-- A hint (R104): nothing. -/
def bodyNop : Body := fun _ s t => .ok s t

/-- The meaning of an instruction that `uni`, `rep` or `imx` may prefix (R107); any other is ILLEGAL there. -/
def plainBody : Instr → Body
  | .nop _ => bodyNop
  | .add w d a b => bodyAdd w d a b
  | .sub w d a b => bodySub w d a b
  | .mul w d a b => bodyMul w d a b
  | .mulh w d a b => bodyMulh w d a b
  | .mulhn w d a b => bodyMulhn w d a b
  | .div w d a b => bodyDiv w d a b
  | .divn w d a b => bodyDivn w d a b
  | .rem w d a b => bodyRem w d a b
  | .remn w d a b => bodyRemn w d a b
  | .and w d a b => bodyAnd w d a b
  | .or w d a b => bodyOr w d a b
  | .xor w d a b => bodyXor w d a b
  | .andn w d a b => bodyAndn w d a b
  | .shl w d a b => bodyShl w d a b
  | .shr w d a b => bodyShr w d a b
  | .sar w d a b => bodySar w d a b
  | .rol w d a b => bodyRol w d a b
  | .min w d a b => bodyMin w d a b
  | .max w d a b => bodyMax w d a b
  | .minn w d a b => bodyMinn w d a b
  | .maxn w d a b => bodyMaxn w d a b
  | .clz w d a => bodyClz w d a
  | .ctz w d a => bodyCtz w d a
  | .pop w d a => bodyPop w d a
  | .sel w d a b c => bodySel w d a b c
  | .cmp w cond d a b => bodyCmp w cond d a b
  | .li kind d imm => bodyLi kind d imm
  | .lih d a imm => bodyLih d a imm
  | .addi w d a imm => bodyAddi w d a imm
  | .andi w d a imm => bodyAndi w d a imm
  | .ori w d a imm => bodyOri w d a imm
  | .xori w d a imm => bodyXori w d a imm
  | .shli w d a imm => bodyShli w d a imm
  | .shri w d a imm => bodyShri w d a imm
  | .sari w d a imm => bodySari w d a imm
  | .cmpi w cond d a imm => bodyCmpi w cond d a imm
  | .adr d imm => bodyAdr d imm
  | .vadd ty z k d a b => bodyVadd ty z k d a b
  | .vsub ty z k d a b => bodyVsub ty z k d a b
  | .vmul ty z k d a b => bodyVmul ty z k d a b
  | .vmulh ty z k d a b => bodyVmulh ty z k d a b
  | .vand ty z k d a b => bodyVand ty z k d a b
  | .vor ty z k d a b => bodyVor ty z k d a b
  | .vxor ty z k d a b => bodyVxor ty z k d a b
  | .vandn ty z k d a b => bodyVandn ty z k d a b
  | .vshl ty z k d a b => bodyVshl ty z k d a b
  | .vshr ty z k d a b => bodyVshr ty z k d a b
  | .vsar ty z k d a b => bodyVsar ty z k d a b
  | .vmin ty z k d a b => bodyVmin ty z k d a b
  | .vmax ty z k d a b => bodyVmax ty z k d a b
  | .vabs ty z k d a => bodyVabs ty z k d a
  | .vneg ty z k d a => bodyVneg ty z k d a
  | .vadds ty z k d a b => bodyVadds ty z k d a b
  | .vsubs ty z k d a b => bodyVsubs ty z k d a b
  | .vfadd ty r k d a b => bodyVfadd ty r k d a b
  | .vfsub ty r k d a b => bodyVfsub ty r k d a b
  | .vfmul ty r k d a b => bodyVfmul ty r k d a b
  | .vfma ty r k d a b c => bodyVfma ty r k d a b c
  | .vfms ty r k d a b c => bodyVfms ty r k d a b c
  | .vfnma ty r k d a b c => bodyVfnma ty r k d a b c
  | .vfmin ty r k d a b => bodyVfmin ty r k d a b
  | .vfmax ty r k d a b => bodyVfmax ty r k d a b
  | .vfabs ty k d a => bodyVfabs ty k d a
  | .vfneg ty k d a => bodyVfneg ty k d a
  | .vfdiv ty r k d a b => bodyVfdiv ty r k d a b
  | .vfsqrt ty r k d a => bodyVfsqrt ty r k d a
  | .vfrcp ty r k d a => bodyVfrcp ty r k d a
  | .vfrsq ty r k d a => bodyVfrsq ty r k d a
  | .vfexp2 ty r k d a => bodyVfexp2 ty r k d a
  | .vflog2 ty r k d a => bodyVflog2 ty r k d a
  | .vfscale ty r k d a b => bodyVfscale ty r k d a b
  | .vmov z k d a => bodyVmov z k d a
  | .vbcast ty z k d a => bodyVbcast ty z k d a
  | .vins ty z k d a b => bodyVins ty z k d a b
  | .vext ty d a b => bodyVext ty d a b
  | .vperm ty z k d a b => bodyVperm ty z k d a b
  | .vslide ty z k d a b => bodyVslide ty z k d a b
  | .vzip ty z hi k d a b => bodyVzip ty z hi k d a b
  | .vunzip ty z odd k d a b => bodyVunzip ty z odd k d a b
  | .vsel ty z k d a b c => bodyVsel ty z k d a b c
  | .vcomp ty z k d a => bodyVcomp ty z k d a
  | .vexpd ty z k d a => bodyVexpd ty z k d a
  | .vredsum ty r k d a => bodyVredsum ty r k d a
  | .vredmax ty k d a => bodyVredmax ty k d a
  | .vredmin ty k d a => bodyVredmin ty k d a
  | .vscan ty r z k d a => bodyVscan ty r z k d a
  | .vcmp ty cond z k d a b => bodyVcmp ty cond z k d a b
  | .vfcmp ty cond z k d a b => bodyVfcmp ty cond z k d a b
  | .vfclass ty z k d a b => bodyVfclass ty z k d a b
  | .kand d a b => bodyKand d a b
  | .kor d a b => bodyKor d a b
  | .kxor d a b => bodyKxor d a b
  | .knot d a => bodyKnot d a
  | .kmov d a => bodyKmov d a
  | .kpop ty d a => bodyKpop ty d a
  | .kfirst ty d a => bodyKfirst ty d a
  | .kset ty d a => bodyKset ty d a
  | .kget d a b => bodyKget d a b
  | .vcvt td ts r nsat part k d a => bodyVcvt td ts r nsat part k d a
  | .vcvtq td src r nsat part k d a b => bodyVcvtq td src r nsat part k d a b
  | .vcvtd td src r part k d a b => bodyVcvtd td src r part k d a b
  | .vpack td k d a b => bodyVpack td k d a b
  | .vunpack td part k d a => bodyVunpack td part k d a
  | .ld ty m d => bodyLd ty m d
  | .st ty m d => bodySt ty m d
  | .vld ty m k d => bodyVld ty m k d
  | .vst ty m k d => bodyVst ty m k d
  | .vlds ty m k d => bodyVlds ty m k d
  | .vsts ty m k d => bodyVsts ty m k d
  | .vgat ty m k d => bodyVgat ty m k d
  | .vsca ty m k d => bodyVsca ty m k d
  | .vldb ty m k d => bodyVldb ty m k d
  | .pf m => bodyPf m
  | .cwb m d => bodyCwb m d
  | .cinv m d => bodyCinv m d
  | .czero m d => bodyCzero m d
  | .qstat d => bodyQstat d
  | .aadd o => bodyAadd o
  | .aand o => bodyAand o
  | .aor o => bodyAor o
  | .axor o => bodyAxor o
  | .amin o => bodyAmin o
  | .amax o => bodyAmax o
  | .aminn o => bodyAminn o
  | .amaxn o => bodyAmaxn o
  | .aswp o => bodyAswp o
  | .acas o c => bodyAcas o c
  | .ainc o => bodyAinc o
  | .adec o => bodyAdec o
  | .afadd o => bodyAfadd o
  | .afmin o => bodyAfmin o
  | .afmax o => bodyAfmax o
  | .fence ord scope => bodyFence ord scope
  | .binit m d => bodyBinit m d
  | .bar m d => bodyBar m d
  | .bara m d => bodyBara m d
  | .barw m d => bodyBarw m d
  | .bstat m d => bodyBstat m d
  | .brk imm => bodyBrk imm
  | .trap imm => bodyTrap imm
  | .dbar level => bodyDbar level
  | .mxgeom a b c => bodyMxgeom a b c
  | .mxsub d => bodyMxsub d
  | .mxstat d => bodyMxstat d
  | .mxflag d => bodyMxflag d
  | .rfence d => bodyRfence d
  | .rstat d a => bodyRstat d a
  | .agrd d a b => bodyAgrd d a b
  | .mfsr d idx => bodyMfsr d idx
  | .mtsr a idx => bodyMtsr a idx
  | .bset m d => bodyBset m d
  | _ => fun _ s _ => .trap s { cause := .illegal, detail := 11 }

/-- A hint word: no register, no memory, the next group (R104) -/
def execNop (bits : BitVec 60) (s : State) : Host.Outcome State Fault Refusal :=
  issue (.nop bits) bodyNop s

/-- Supplies the upper bits of the next instruction's immediate or offset (R117) -/
def execImx (hi : BitVec 32) (i : Instr) (s : State) : Host.Outcome State Fault Refusal :=
  match s.thread? s.cur with
  | none => .fault .noThread
  | some t => .next (issueSized (1 + i.words) i (fun c => plainBody i { c with hi := some hi }) s t)

/-! ## Prefixed groups -/

/-- A field at an iteration (R114): none when it leaves its class. -/
def stepField (c : RClass) (n stride : BitVec 6) (it : Nat) : Option (BitVec 6) :=
  let v := (n.toNat : Int) + it * stride.toInt
  if stride = 0 then some n else if 0 ≤ v ∧ v < c.limit then some (BitVec.ofInt 6 v) else none

/-- The instruction of an iteration (R114), or its fault: REGRANGE names the first field that leaves its class (R328). -/
def stepInstr (i : Instr) (sd sa sb sc : BitVec 6) (it : Nat) : Except TrapInfo Instr :=
  let c := Instr.classes i
  let r := Instr.regs i
  let range (n : Nat) : Except TrapInfo Instr := .error { cause := .regRange, detail := n }
  match stepField c.d r.d sd it, stepField c.a r.a sa it, stepField c.b r.b sb it, stepField c.c r.c sc it with
  | none, _, _, _ => range 1
  | _, none, _, _ => range 2
  | _, _, none, _ => range 3
  | _, _, _, none => range 4
  | some d, some a, some b, some k =>
    match Instr.form i with
    | none => .ok i
    | some f => match decodeWord (f.withRegs ⟨d, a, b, k⟩).pack with
      | .ok j => .ok j
      | .error e => .error { cause := .illegal, detail := e.detail }

/-- A thread past a group that has no effect: a prefixed hint, or COUNT 0 (R104, R113). -/
def Thread.pastHint (t : Thread) (next : Word) : Thread :=
  { t.clearRep.executed with pc := next, block := .none, saved := List.replicate 4 0, zeroed := 0, passed := false }

/-- A thread that a completed phase has released on a prefixed `bar` or `barw` (R185). -/
def Thread.barPassed (t : Thread) : Bool := t.passed && t.pc == t.blockPC

/-- A prefixed body: a thread that its `bar` or `barw` has blocked waits on, or goes on once it has been released, without a
second arrival (R185, R186); otherwise the body runs. -/
def prefixedBody (i : Instr) (hi : Option (BitVec 32)) (next : Word) (s : State) (t : Thread) : Res :=
  let t' := { t with pc := next, block := .none, saved := List.replicate 4 0, zeroed := 0, passed := false }
  if t.onGroup then .wait s t
  else if t.barPassed then .ok s t'
  else plainBody i { pc0 := t.pc, hi := hi, pre := true } s t'

/-- One iteration of a `rep` group (R113 to R116): the PC stays on the prefix, and the REP state describes the next
iteration, until the last one. With SS the thread halts after the iteration, DETAIL 1 (R338). -/
def issueRep (count : BitVec 16) (sd sa sb sc : BitVec 6) (i : Instr) (s : State) (t : Thread) : State :=
  let core := i.core
  let next := t.pc + BitVec.ofNat 64 (8 * (1 + i.words))
  let (it, left) := if t.repLeft = 0 then (0, count) else (t.repIter, t.repLeft)
  if core.isHint ∨ left = 0 then
    s.finishGroup core.word [] t (t.pastHint next) 0
  else
    let t := { t with repIter := it, repLeft := left }
    if core.needsPriv && !s.asidPriv (s.asidOf t) then s.takeTrap t t.pc t.pc core.word ⟨.priv, 0, 0, 0, false, none⟩
    else match stepInstr core sd sa sb sc it.toNat with
      | .error info => s.takeTrap t t.pc t.pc core.word info
      | .ok j => match s.gate t j core.word with
        | .stall s b => s.setThread (t.stalled b s.cycle)
        | .ctxFault s => s
        | .trap s t info => s.takeTrap t t.pc t.pc core.word info
        | .go s t =>
          let t := t.atResume
          match prefixedBody j i.hiPart next (s.readStatus t j) t with
          | .ok s t' =>
            let t' := t'.executed
            if left = 1 then s.finishGroup core.word j.writes t t'.clearRep 1
            else s.finishGroup core.word j.writes t { t' with pc := t.pc, repIter := it + 1, repLeft := left - 1 } 1
          -- the record names the group's own word, not the stepped one (R327)
          | r => s.settleAs core.word j t next r

/-- Executes the next instruction COUNT times, stepping its register numbers (R113, R114) -/
def execRep (count : BitVec 16) (sd sa sb sc : BitVec 6) (i : Instr) (s : State) : Host.Outcome State Fault Refusal :=
  match s.thread? s.cur with
  | none => .fault .noThread
  | some t => .next (issueRep count sd sa sb sc i s t)

/-! ## uni (R110 to R112) -/

/-- A register as the gang records it: class and number. -/
def RegRef.asPair : RegRef → Nat × Nat
  | .s n => (0, n.toNat)
  | .k n => (1, n.toNat)
  | .v n => (2, n.toNat)

/-- What a posting writes from a register of the executor. -/
def Thread.posted (t : Thread) (p : Nat × Nat) : RegWrite :=
  match p.1 with
  | 0 => .scalar (BitVec.ofNat 6 p.2) (t.s (BitVec.ofNat 6 p.2))
  | 1 => .mask (BitVec.ofNat 3 p.2) (t.k (BitVec.ofNat 3 p.2))
  | _ => .vector (BitVec.ofNat 6 p.2) (t.v (BitVec.ofNat 6 p.2))

/-- A thread arrives at a `uni` (R110): the gang's state after it, or UNIDIV's DETAIL. -/
def Gang.uniArrive (g : Gang) (t : Thread) : Except Nat Gang :=
  let n := t.uniCount + 1
  if g.uniOpen then
    if n ≠ g.uniN then .error 1
    else if t.pc ≠ g.uniPC then .error 2
    else .ok { g with uniArrived := g.uniArrived ||| (1#32 <<< t.id.rank) }
  else if n ≠ g.uniClosed + 1 then .error 1
  else .ok { g with uniOpen := true, uniN := n, uniPC := t.pc, uniArrived := 1#32 <<< t.id.rank,
                    uniExec := BitVec.ofNat 5 t.id.rank, uniDone := false, uniPost := [], uniWords := 0 }

/-- A thread that has arrived stalls with its PC on the group. -/
def Thread.stallAtUni (t : Thread) (pc word : Word) (cycle : Nat) : Thread :=
  { t.stalled .uni cycle with pc := pc, blockPC := pc, blockWord := word }

/-- The executor runs the prefixed instruction (R110, R112): until it has, nothing else changes and it stays executor. -/
def executeUni (i : Instr) (s : State) (t : Thread) : State :=
  let core := i.core
  let words := 1 + i.words
  let next := t.pc + BitVec.ofNat 64 (8 * words)
  match s.gate t core with
  | .stall s b => s.setThread (t.stalled b s.cycle)
  | .ctxFault s => s
  | .trap s t info => s.takeTrap t t.pc t.pc core.word info
  | .go s t =>
    let t := t.atResume
    match prefixedBody core i.hiPart next (s.readStatus t core) t with
    | .ok s t' =>
      let t' := t'.executed.stallAtUni t.pc core.word s.cycle
      (s.finishGroup core.word core.writes { t with ss := false } t' 0).onGang t.id.task t.id.gang (fun g =>
        { g with uniDone := true, uniPost := core.writes.map RegRef.asPair, uniWords := words })
    | r => s.settle core t next r

/-- A thread reaches a `uni` group (R110, R112). One that would receive a register still pending waits for it before it
arrives (R50), DEDUCED (log 46). -/
def issueUni (i : Instr) (s : State) (t : Thread) : State :=
  let core := i.core
  if core.isHint then
    s.finishGroup core.word [] t (t.pastHint (t.pc + BitVec.ofNat 64 (8 * (1 + i.words)))) 0
  else if core.needsPriv && !s.asidPriv (s.asidOf t) then s.takeTrap t t.pc t.pc core.word ⟨.priv, 0, 0, 0, false, none⟩
  else
    let t := t.clearRep
    match s.gangOf t with
    | none => s
    | some g => match g.uniArrive t with
      | .error d => s.takeTrap t t.pc t.pc core.word { cause := .uniDiv, detail := d }
      | .ok g' =>
        let mine := g'.uniExec.toNat == t.id.rank
        -- of the threads that arrive in the cycle that opens it the lowest rank executes
        let s := if g.uniOpen && g.uniArrived.getLsbD t.id.rank then s else s.inOrder (.uni t.id.task t.id.gang t.id.rank)
        if mine && !g'.uniDone then executeUni i (s.setGang g') t
        else if !mine && core.writes.any t.isPending then s.setThread (t.stalled .none s.cycle)
        else (s.setGang g').setThread (t.stallAtUni t.pc core.word s.cycle)

/-- Arrives at the gang's open `uni`, and executes the prefixed instruction when this thread is the executor (R110) -/
def execUni (i : Instr) (s : State) : Host.Outcome State Fault Refusal :=
  match s.thread? s.cur with
  | none => .fault .noThread
  | some t => .next (issueUni i s t)

/-! ## The posting (R110, R111) -/

/-- Executed, and every thread of the gang that has not retired has arrived. -/
def State.uniComplete (s : State) (g : Gang) : Bool :=
  g.uniOpen && g.uniDone && (s.mates g.task g.index).all (fun t => t.run == .retired || g.uniArrived.getLsbD t.id.rank)

/-- What the executor posts: none while its own context cannot be reached. -/
def State.uniValues (s : State) (g : Gang) : Option (List RegWrite) :=
  match s.thread? ⟨g.task, g.index, g.uniExec.toNat⟩ with
  | none => some []
  | some t =>
    let refs : List RegRef := g.uniPost.map (fun p => match p.1 with
      | 0 => .s (BitVec.ofNat 6 p.2)
      | 1 => .k (BitVec.ofNat 3 p.2)
      | _ => .v (BitVec.ofNat 6 p.2))
    match s.loadRegs t refs with
    | .ok (_, u) => some (g.uniPost.map u.posted)
    | _ => none

/-- The group completes in one arrived thread: the registers posted, the counter, the PC past the group; with SS the thread
halts after it (R338). A thread whose context cannot be reached takes all of it later (R50). -/
def State.postTo (s : State) (ws : List RegWrite) (next n : Word) (id : ThreadId) : State :=
  match s.thread? id with
  | none => s
  | some t =>
    let moved (t : Thread) : Thread := { t.executed with pc := next, uniCount := n, block := .none, readyAt := s.cycle }
    match (s.landWrites id ws).bind (fun s => s.editThread id controlLine moved) with
    | .ok s' => s'.stepPosted t next
    | .wait => s.holdWrites id ws (some (next, n)) false
    | .bad => s.holdWrites id ws (some (next, n)) true

/-- A gang's open `uni` is posted and closed, when it is executed and all have arrived. -/
def State.postUni (s : State) (g : Gang) : State :=
  if !s.uniComplete g then s
  else match s.uniValues g with
    | none => s
    | some ws =>
      let next := g.uniPC + BitVec.ofNat 64 (8 * g.uniWords)
      let s := s.setGang { g with uniOpen := false, uniClosed := g.uniN, uniArrived := 0, uniDone := false, uniPost := [], uniWords := 0 }
      ((s.mates g.task g.index).filter (fun t => t.run != .retired)).foldl (fun s t =>
        s.postTo (if t.id.rank = g.uniExec.toNat then [] else ws) next g.uniN t.id) s

/-- The posting of a gang's open `uni`, performed once, when it has executed and every thread has arrived (R110) -/
def execUniPosting (task gang : Nat) (s : State) : Host.Outcome State Fault Refusal :=
  .next (match s.gang? task gang with
    | some g => if s.uniComplete g then (s.postUni g).saveHeader task gang else s
    | none => s)

end Sys2Proof.Machine
end

