-- ==== Sys2Proof/Machine/Stash.lean ====
section
/-! DEFINITION. `stash` and `resto` (R244 to R247, R264): the push that reads the descriptor, and the unit that encodes or
decodes one line. -/

namespace Sys2Proof.Machine

/-! ## Pushes (R245, R247) -/

/-- The descriptor words that a push captures: 0x00, 0x08 and 0x10 (R247). -/
def capturedDesc (r : Except (Nat × Nat) (List Byte)) : List Word :=
  match r with
  | .error (11, _) => [0, 0, 0]
  | .error (_, d) => [0, 0, (1#64 <<< 63) ||| BitVec.ofNat 64 d]
  | .ok bs =>
    let w (i : Nat) : Word := wordOfBytes ((bs.drop (8 * i)).take 8)
    [w 0, if w 3 = 0 then w 1 else setBits (w 1) 48 (0xFFFF#16), w 2]

/-- The DETAIL of a read that ends 11 ABSENT (R399), which the entry's progress records. DESIGN CHOICE (log 43). -/
def capturedAbsent (r : Except (Nat × Nat) (List Byte)) : BitVec 48 :=
  match r with
  | .error (11, d) => BitVec.ofNat 48 d
  | _ => 0

/-- The context in which the push of a thread reads a descriptor. -/
def pushCtx (s : State) (t : Thread) : EngCtx :=
  { t := t, owner := .thread t.id, asid := s.asidOf t, core := (s.coreOf t).getD 0, user := s.isUser t, mine := none }

/-- The push of `stash` or `resto` (R247): the descriptor is read once the queue has room, after the thread's earlier
accesses to it. -/
def pushStash (i : Instr) (a b c : Word) (d : SReg) (s : State) (t : Thread) : Res :=
  if t.ce0.isSome && t.ce1.isSome then .retry s .queue
  else if a.toNat % 32 ≠ 0 then pushCe i [a, b, c, 0, 0, 0] [.s d] s t
  else if t.engineHolds false .va a.toNat 32 then .retry s .none
  else
    let x := pushCtx s t
    match engTry (engRead x a.toNat 32) { s := s } with
    | .error (.wait asks) _ => .retry (s.sendAsks x asks) .none
    | .error .. => .retry s .none
    | .ok r e => pushCe i ([a, b, c] ++ capturedDesc r) [.s d] (e.s.dropPends x.owner) t (capturedAbsent r)


/-- Pushes a stash of lines (R245, R247) -/
def bodyStash (d a b c : SReg) (count : BitVec 16) : Body := fun _ s t => pushStash (.stash d a b c count) (t.s a) (t.s b) (t.s c) d s t
def execStash (d a b c : SReg) (count : BitVec 16) (s : State) : Host.Outcome State Fault Refusal :=
  issue (.stash d a b c count) (bodyStash d a b c count) s

/-- Pushes a restore of lines (R245, R247) -/
def bodyResto (d a b c : SReg) (count : BitVec 16) (f32 : Bool) : Body := fun _ s t => pushStash (.resto d a b c count f32) (t.s a) (t.s b) (t.s c) d s t
def execResto (d a b c : SReg) (count : BitVec 16) (f32 : Bool) (s : State) : Host.Outcome State Fault Refusal :=
  issue (.resto d a b c count f32) (bodyResto d a b c count f32) s


/-! ## Lines (R246) -/

/-- Ceil(Log2 x) of a nonzero magnitude m × 2^e. -/
def ceilLog2 (m : Nat) (e : Int) : Int := e + Nat.log2 m + (if 2 ^ Nat.log2 m = m then 0 else 1)

/-- A sub-block of 16 values encoded: scale byte and codes. -/
def stashBlock (b : Nat) (xs : List Real) : Nat × List Int :=
  if xs.any (fun x => match x with
    | .fin .. => false
    | _ => true) then (0xFF, List.replicate 16 0)
  else
    let logs : List Int := xs.filterMap (fun x => match x with
      | .fin _ m e _ => if m = 0 then none else some (ceilLog2 m e)
      | _ => none)
    match logs with
    | [] => (0, List.replicate 16 0)
    | l :: ls =>
      let e := clampInt (127 + ls.foldl max l) 1 254
      let top : Int := 2 ^ (b - 1) - 1
      (e.toNat, xs.map (fun x => match x with
        | .fin neg m ex _ => clampInt (roundToInt .rne 0 neg m (ex - (e - 127 + 1 - b)) false).1 (-top) top
        | _ => 0))

/-- A line's bytes from its 128 values. -/
def stashLineBytes (b : Nat) (xs : List Real) : List Byte :=
  let blocks := (chunks 16 xs).map (stashBlock b)
  blocks.map (fun k => BitVec.ofNat 8 k.1)
    ++ bytesOfNat (16 * b) (natOfLanes b (blocks.flatMap (fun k => k.2.map (fun (c : Int) => (c % (2 ^ b : Nat)).toNat))))

/-- The pattern of code `j` of a line, in the output format. -/
def restoValue (f : Fmt) (b : Nat) (line : List Byte) (j : Nat) : Nat :=
  let e := (line.getD (j / 16) 0).toNat
  let c := signedNat (fieldOf (natOfBytes (line.drop 8)) (b * j) b) b
  if e = 0xFF then f.nan
  else if e = 0 ∨ c = 0 then 0
  else (roundTo f .rne 0 false (.fin (decide (c < 0)) c.natAbs ((e : Int) - 127 + 1 - b) false)).1

/-! ## The command -/

/-- The format of the captured input type. -/
def stashFmt (e : CeEntry) : Fmt := (ElemType.ofCode (BitVec.ofNat 4 (stashType e))).fmt

/-- Lines of a region of n elements. -/
def regionLines (n : Nat) : Nat := (n + 127) / 128

/-- The checks at the start, in the order of R247; `width` is the element width that the data address must be aligned to.
DESIGN CHOICE (log 126): a command that breaks several limits gets the first of R244's table, then detail 2, then detail 5 of
R245; the spec gives no order among them. -/
def stashRefusal (s : State) (e : CeEntry) (count width : Nat) : Option (Nat × Nat) :=
  let n := stashCount e
  if !s.hasStash then some (12, 6)
  else if (ceOp e 0).toNat % 32 ≠ 0 then some (13, 4)
  else if (stashFault e).isSome then stashFault e
  else if stashBase e % 32 ≠ 0 then some (13, 3)
  else if n = 0 then some (13, 1)
  else if stashType e < 8 ∨ 10 < stashType e then some (12, 1)
  else if !([3, 4, 6, 8].contains (stashBits e)) then some (12, 2)
  else if getBits (ceOp e 4) 48 16 ≠ 0 then some (12, 3)
  else if (ceOp e 5).toNat ≠ roundUp (regionLines n * stashLine e) 32 then some (13, 1)
  else if regionLines n < (ceOp e 1).toNat + count then some (13, 2)
  else if (ceOp e 2).toNat % width ≠ 0 then some (13, 5)
  else none

/-- A region page that translates, for the access that the command makes of it, to another device or to the host ends the command
12 UNSUPPORTED, detail 4; one that does not translate is left for its line (R264). -/
def regionPages (x : EngCtx) (write : Bool) : List Nat → E Unit
  | [] => pure ()
  | va :: rest => fun e =>
    match engTranslate x va write e with
    | .ok (_, _, .peer ..) e' => .error (.fail 12 4) e'
    | .ok _ _ => regionPages x write rest e
    | .error (.fail 11 3) e' => .error (.fail 12 4) e'
    | .error (.fail ..) _ => regionPages x write rest e
    | .error w _ => .error w e

/-- Bytes of a region line, each page of which lies in this device's memory. -/
def regionCheck (x : EngCtx) (va n : Nat) (write : Bool) : E Unit :=
  (linePieces va n).forM (fun p => do
    match ← engTry (engTranslate x p.1 write) with
    | .ok (_, _, .peer ..) => engFail 12 4
    | .ok _ => pure ()
    | .error (11, 3) => engFail 12 4
    | .error (c, d) => engFail c d)

/-- One unit of `stash` or `resto`: one line; `p` counts the region bytes of the lines before it. DESIGN CHOICE (log 127): PROGRESS of
a command refused with 12 or 13 at its start is 0. -/
def stashUnit (x : EngCtx) (e : CeEntry) (count : Nat) (restore : Option Bool) (p : Nat) : E Unit' := do
  let s ← engState
  let out : Fmt := match restore with
    | some true => .f32
    | _ => .bf16
  let width := match restore with
    | some f32 => if f32 then 4 else 2
    | none => stashWidth e
  match (if p = 0 || (stashFault e).isSome then stashRefusal s e count width else none) with
  | some (c, d) => pure (.done c d 0)
  | none =>
    let size := stashLine e
    let k := p / size
    let l := (ceOp e 1).toNat + k
    let line := stashBase e + l * size
    if count ≤ k then pure (.done 0 0 p)
    else do
      if p = 0 then regionPages x restore.isNone (pagesOf line (count * size))
      let m := min 128 (stashCount e - 128 * l)
      let data := (ceOp e 2).toNat + k * 128 * width
      match restore with
      | none =>
        let bs ← engRead x data (m * width)
        let xs := (chunks width bs).map (fun b => (stashFmt e).value (natOfBytes b))
        regionCheck x line size true
        engWrite x line (stashLineBytes (stashBits e) (xs ++ List.replicate (128 - m) (.fin false 0 0 false)))
      | some _ =>
        regionCheck x line size false
        let bs ← engRead x line size
        engWrite x data ((tabulate m (fun j => bytesOfNat width (restoValue out (stashBits e) bs j))).flatten)
      let p' := p + size
      pure (if count ≤ k + 1 then .done 0 0 p' else .go p')

end Sys2Proof.Machine
end

