-- ==== Sys2Proof/Machine/Xpand.lean ====
section
/-! DEFINITION. `xpand` (R268 to R272): the push, the DEFLATE decoder (RFC 1951 as R269 and R270 take it), the state block,
and the unit of one output tile. -/

namespace Sys2Proof.Machine

/-- Pushes an expansion (R269) -/
def bodyXpand (d a : SReg) (resume : Bool) : Body := fun _ s t => pushCe (.xpand d a resume) [t.s a] [.s d] s t
def execXpand (d a : SReg) (resume : Bool) (s : State) : Host.Outcome State Fault Refusal :=
  issue (.xpand d a resume) (bodyXpand d a resume) s

/-! ## Bits of the input -/

/-- A window of the input: its first bit, the bits from there on, how many there are, and whether the input ends with it. -/
structure Window where
  base  : Nat
  bits  : Nat
  avail : Nat
  last  : Bool

/-- What a piece of the stream decodes to. -/
inductive Got (α : Type) where
  | ok (x : α) (pos : Nat)
  | short
  | bad (code detail pos : Nat)

/-- `k` bits, least significant first. -/
def Window.take (w : Window) (pos k : Nat) : Got Nat :=
  if w.avail < pos - w.base + k then .short else .ok (fieldOf w.bits (pos - w.base) k) (pos + k)

/-! ## Codes -/

/-- A set of code lengths as a canonical code: the number of codes of each length 1 to 15, the symbols by length and then
number, and the share of the code space used, in units of 2^-15. -/
structure Code where
  counts : List Nat
  syms   : List Nat
  used   : Nat

def codeOf (lens : List Nat) : Code :=
  let lengths := tabulate 15 (fun i => i + 1)
  let counts := lengths.map (fun l => lens.count l)
  { counts := counts
    syms := lengths.flatMap (fun l => (List.range lens.length).filter (fun i => lens.getD i 0 == l))
    used := ((counts.zip lengths).map (fun c => c.1 * 2 ^ (15 - c.2))).sum }

/-- An over-subscribed set. -/
def Code.over (c : Code) : Bool := decide (2 ^ 15 < c.used)

/-- One symbol. A pattern that no code begins with is an error as soon as it is seen. -/
def Code.symbol (c : Code) (w : Window) (start : Nat) : Got Nat :=
  let rec go : List Nat → Nat → Nat → Nat → Nat → Nat → Got Nat
    | [], _, _, _, _, _ => .bad 9 1 start
    | n :: ns, l, code, first, index, pos =>
      match w.take pos 1 with
      | .short => .short
      | .bad a b p => .bad a b p
      | .ok b pos =>
        let code := 2 * code + b
        let first := 2 * first
        if code < first + n then .ok (c.syms.getD (index + (code - first)) 0) pos
        else if c.used ≤ code * 2 ^ (15 - l) then .bad 9 1 start
        else go ns (l + 1) code (first + n) (index + n) pos
  go c.counts 1 0 0 0 start

/-- Base values and extra bits of length symbols 257 to 285 and of distance symbols 0 to 29 (RFC 1951; PRESUMED, log 44). -/
def lengthTable : List (Nat × Nat) :=
  [(3, 0), (4, 0), (5, 0), (6, 0), (7, 0), (8, 0), (9, 0), (10, 0), (11, 1), (13, 1), (15, 1), (17, 1), (19, 2), (23, 2),
   (27, 2), (31, 2), (35, 3), (43, 3), (51, 3), (59, 3), (67, 4), (83, 4), (99, 4), (115, 4), (131, 5), (163, 5), (195, 5),
   (227, 5), (258, 0)]
def distanceTable : List (Nat × Nat) :=
  [(1, 0), (2, 0), (3, 0), (4, 0), (5, 1), (7, 1), (9, 2), (13, 2), (17, 3), (25, 3), (33, 4), (49, 4), (65, 5), (97, 5),
   (129, 6), (193, 6), (257, 7), (385, 7), (513, 8), (769, 8), (1025, 9), (1537, 9), (2049, 10), (3073, 10), (4097, 11),
   (6145, 11), (8193, 12), (12289, 12), (16385, 13), (24577, 13)]
/-- The order in which a dynamic block gives the lengths of the code-length code. -/
def lengthOrder : List Nat := [16, 17, 18, 0, 8, 7, 9, 6, 10, 5, 11, 4, 12, 3, 13, 2, 14, 1, 15]

/-- The code lengths of a fixed block. -/
def fixedLens : List Nat :=
  List.replicate 144 8 ++ List.replicate 112 9 ++ List.replicate 24 7 ++ List.replicate 8 8 ++ List.replicate 32 5

/-! ## Block headers -/

/-- The code lengths of a dynamic block, newest first, until `n` are known (R270 detail 6). -/
def dynamicLens (c : Code) (w : Window) (n : Nat) : Nat → List Nat → Nat → Got (List Nat)
  | 0, _, pos => .bad 9 6 pos
  | fuel + 1, got, pos =>
    if n ≤ got.length then .ok got.reverse pos
    else match c.symbol w pos with
      | .short => .short
      | .bad a b p => .bad a b p
      | .ok sym p =>
        let rep (k extra : Nat) (v : Nat) : Got (List Nat) :=
          match w.take p extra with
          | .short => .short
          | .bad a b p => .bad a b p
          | .ok x p' =>
            if n < got.length + k + x then .bad 9 6 pos
            else dynamicLens c w n fuel (List.replicate (k + x) v ++ got) p'
        if sym < 16 then dynamicLens c w n fuel (sym :: got) p
        else if sym = 16 then (match got with
          | [] => .bad 9 6 pos
          | v :: _ => rep 3 2 v)
        else if sym = 17 then rep 3 3 0
        else rep 11 7 0

/-- A dynamic block's code lengths, 288 and 32, or what is wrong with them. -/
def dynamicHeader (w : Window) (header pos : Nat) : Got (List Nat) :=
  match w.take pos 14 with
  | .short => .short
  | .bad a b p => .bad a b p
  | .ok h pos =>
    let nl := h % 32 + 257
    let nd := h / 32 % 32 + 1
    let nc := h / 1024 + 4
    match w.take pos (3 * nc) with
    | .short => .short
    | .bad a b p => .bad a b p
    | .ok ls pos =>
      let cl := tabulate 19 (fun i => match lengthOrder.findIdx? (· == i) with
        | some k => if k < nc then fieldOf ls (3 * k) 3 else 0
        | none => 0)
      let code := codeOf cl
      if code.over then .bad 9 5 header
      else match dynamicLens code w (nl + nd) 321 [] pos with
        | .short => .short
        | .bad a b p => .bad a b p
        | .ok lens pos =>
          let lit := lens.take nl ++ List.replicate (288 - nl) 0
          let dist := lens.drop nl ++ List.replicate (32 - nd) 0
          if (codeOf lit).over || (codeOf dist).over then .bad 9 5 header else .ok (lit ++ dist) pos

/-- A block header (R269, R270): the decoder inside the block. -/
def Xpand.header (x : Xpand) (w : Window) : Got Xpand :=
  match w.take x.pos 3 with
  | .short => .short
  | .bad a b p => .bad a b p
  | .ok h pos =>
    let x' := { x with final := h % 2 == 1, btype := h / 2, inside := true }
    match h / 2 with
    | 0 =>
      match w.take (roundUp pos 8) 32 with
      | .short => .short
      | .bad a b p => .bad a b p
      | .ok v pos =>
        if v % 2 ^ 16 + v / 2 ^ 16 ≠ 2 ^ 16 - 1 then .bad 9 4 x.pos
        else .ok { x' with pos := pos, stored := v % 2 ^ 16, inside := v % 2 ^ 16 != 0 } pos
    | 1 => .ok { x' with pos := pos, lens := fixedLens } pos
    | 2 =>
      match dynamicHeader w x.pos pos with
      | .short => .short
      | .bad a b p => .bad a b p
      | .ok lens pos => .ok { x' with pos := pos, lens := lens } pos
    | _ => .bad 9 3 x.pos

/-! ## Symbols -/

/-- A step of the decoder, to the next byte of output or over a symbol without one. -/
inductive Sym where
  | byte (b : Byte) (x : Xpand)
  | over (x : Xpand)
  | ends
  | short
  | bad (code detail pos : Nat)

/-- A byte joins the history. -/
def Xpand.remember (x : Xpand) (b : Byte) : Xpand := { x with history := (b :: x.history).take 32768 }

/-- Bytes produced so far. -/
def Xpand.made (x : Xpand) : Nat := x.out + x.tile.length

/-- The distance of a match of `len` bytes whose pair began at `start` (R270). -/
def Xpand.distance (x : Xpand) (dist : Code) (w : Window) (limit len start pos : Nat) : Sym :=
  match dist.symbol w pos with
  | .short => .short
  | .bad a b _ => .bad a b start
  | .ok sym pos =>
    if 30 ≤ sym then .bad 9 2 start
    else
      let (base, extra) := distanceTable.getD sym (1, 0)
      match w.take pos extra with
      | .short => .short
      | .bad a b _ => .bad a b start
      | .ok v pos =>
        let d := base + v
        if x.history.length < d then .bad 8 0 start
        else if limit < x.made + len then .bad 14 0 start
        else .over { x with pos := pos, matchLen := len, matchDist := d }

/-- One symbol of a compressed block. -/
def Xpand.coded (x : Xpand) (lit dist : Code) (w : Window) (limit : Nat) : Sym :=
  match lit.symbol w x.pos with
  | .short => .short
  | .bad a b _ => .bad a b x.pos
  | .ok sym pos =>
    if sym < 256 then
      if limit ≤ x.made then .bad 14 0 x.pos
      else .byte (BitVec.ofNat 8 sym) ({ x with pos := pos }.remember (BitVec.ofNat 8 sym))
    else if sym = 256 then .over { x with pos := pos, inside := false }
    else if 286 ≤ sym then .bad 9 2 x.pos
    else
      let (base, extra) := lengthTable.getD (sym - 257) (3, 0)
      match w.take pos extra with
      | .short => .short
      | .bad a b _ => .bad a b x.pos
      | .ok v pos => x.distance dist w limit (base + v) x.pos pos

/-- One step of the decoder. -/
def Xpand.step (x : Xpand) (lit dist : Code) (w : Window) (limit : Nat) : Sym :=
  if x.matchLen ≠ 0 then
    -- a match from a state block meets the limit of the descriptor that resumes it
    if limit ≤ x.made then .bad 14 0 x.pos
    else
    let b := x.history.getD (x.matchDist - 1) 0
    .byte b ({ x with matchLen := x.matchLen - 1 }.remember b)
  else if !x.inside then
    if x.final then .ends
    else match x.header w with
      | .ok x' _ => .over x'
      | .short => .short
      | .bad a b p => .bad a b p
  else if x.btype = 0 then
    match w.take x.pos 8 with
    | .ok b pos =>
      if limit ≤ x.made then .bad 14 0 x.pos
      else
        let b := BitVec.ofNat 8 b
        .byte b ({ x with pos := pos, stored := x.stored - 1, inside := x.stored != 1 }.remember b)
    | .short => .short
    | .bad a b p => .bad a b p
  else x.coded lit dist w limit

/-- How the decoding of a unit stops. -/
inductive Decoded where
  /-- a whole tile: the decoder before its last byte, the tile, and the decoder after it -/
  | full (before : Xpand) (tile : List Byte) (after : Xpand)
  | short (x : Xpand)
  | ends (x : Xpand)
  | bad (x : Xpand) (code detail pos : Nat)

/-- Decoding until a tile is full. -/
def Xpand.run (w : Window) (limit : Nat) : Nat → Xpand → Code → Code → Decoded
  | 0, x, _, _ => .short x
  | fuel + 1, x, lit, dist =>
    match x.step lit dist w limit with
    | .short => .short x
    | .ends => .ends x
    | .bad c d p => .bad x c d p
    | .over x' =>
      if x'.lens = x.lens then Xpand.run w limit fuel x' lit dist
      else Xpand.run w limit fuel x' (codeOf (x'.lens.take 288)) (codeOf (x'.lens.drop 288))
    | .byte b x' =>
      let tile := x.tile ++ [b]
      if tile.length < 4096 then Xpand.run w limit fuel { x' with tile := tile } lit dist
      else .full x tile { x' with tile := [], out := x.out + 4096 }

/-! ## The state block (R271) -/

def Xpand.blockBytes (x : Xpand) : List Byte :=
  let w (n : Nat) : List Byte := bytesOfNat 8 n
  let pad (n : Nat) (bs : List Byte) : List Byte := bs ++ List.replicate (n - bs.length) 0
  let head := w 1 ++ w x.pos ++ w x.out ++ w x.tile.length
    ++ w ((if x.final then 1 else 0) + 2 * x.btype + (if x.inside then 8 else 0) + 16 * x.stored)
    ++ w (x.matchLen + 512 * x.matchDist) ++ w x.history.length
  let rest := pad 0xC0 [] ++ pad 0xF00 (x.lens.map (BitVec.ofNat 8)) ++ pad 0x8000 x.history.reverse ++ pad 0x1000 x.tile
    ++ pad 0x2000 []
  head ++ bytesOfNat 8 (crc32c (head ++ rest)).toNat ++ rest

/-- The decoder that a block holds; none when the version or the CRC fails, or a count is beyond its part of the block (log 112). -/
def Xpand.ofBlock (bs : List Byte) : Option Xpand :=
  let w (off : Nat) : Nat := natOfBytes ((bs.drop off).take 8)
  let head := bs.take 0x38
  let rest := bs.drop 0x40
  if w 0 % 2 ^ 16 ≠ 1 ∨ w 0x38 ≠ (crc32c (head ++ rest)).toNat ∨ 4095 < w 0x18 ∨ 32768 < w 0x30 then none
  else
    let st := w 0x20
    some { pos := w 8, out := w 0x10, tile := (bs.drop 0x9000).take (w 0x18), final := st.testBit 0,
           btype := fieldOf st 1 2, inside := st.testBit 3, stored := fieldOf st 4 32, matchLen := fieldOf (w 0x28) 0 9,
           matchDist := fieldOf (w 0x28) 9 16, history := ((bs.drop 0x1000).take (w 0x30)).reverse,
           lens := ((bs.drop 0x100).take 320).map (·.toNat) }

/-! ## The command. Walk state, DESIGN CHOICE (log 41): word 0 the state block's VA (R271), words 10 to 13 the input VA and
length, the output VA and limit, word 83 the writings of the state block, word 84 set once the decoder has been started. -/

/-- A decoder at the start of a stream. -/
def Xpand.fresh (dict : List Byte) : Xpand :=
  { pos := 0, out := 0, tile := [], final := false, btype := 0, inside := false, stored := 0, matchLen := 0, matchDist := 0,
    history := dict.reverse, lens := List.replicate 320 0 }

/-- The limits of the descriptor (R268). -/
def xpandRefusal (w : Nat → Nat) : Option (Nat × Nat) :=
  if 2 ^ 45 - 1 < w 1 then some (13, 1)
  else if 2 ^ 48 - 1 < w 3 then some (13, 2)
  else if 32768 < w 5 % 2 ^ 16 then some (13, 3)
  else if 2 ^ 16 ≤ w 5 then some (12, 2)
  else if w 6 = 0 ∨ w 6 % 4096 ≠ 0 then some (13, 4)
  else if w 7 ≠ 0 then some (12, 2)
  else none

def State.xpandOf (s : State) (id : ThreadId) : Option (Xpand × Xpand) :=
  (s.xpands.find? (fun p => decide (p.1 = id))).map (·.2)
def State.setXpand (s : State) (id : ThreadId) (v : Option (Xpand × Xpand)) : State :=
  let rest := s.xpands.filter (fun p => !decide (p.1 = id))
  { s with xpands := match v with
      | some v => rest ++ [(id, v)]
      | none => rest }

/-- A state block that cannot be written: 5 FAULT, detail 5, or what R399 says of a device that cannot be reached. -/
def blockLost (f : Nat × Nat) (progress : Nat) : Unit' := if f.1 = 11 then .done 11 f.2 progress else .done 5 5 progress

/-- The state block is written, and the command ends: 5 FAULT, detail 5 where it cannot be (R270). Word 83 counts its writings. -/
def xpandEnds (x : EngCtx) (d : Xpand) (code detail progress : Nat) : E Unit' := do
  let block ← walkGet x 0
  let k ← walkGet x 83
  walkPut x 83 (k + 1)
  match ← engTry (engWrite x block d.blockBytes) with
  | .ok _ => pure (.done code detail progress)
  | .error f => pure (blockLost f d.out)

/-- The input as far as it can be read, at most 8 KiB from a byte, and why it ends there, with the state that this leaves. -/
def readAhead (x : EngCtx) : List (Nat × Nat) → Eng → List Byte × Option (Stop × Eng) × Eng
  | [], e => ([], none, e)
  | (va, n) :: rest, e =>
    match readPiece x va n e with
    | .ok bs e => let (cs, r, e) := readAhead x rest e; (bs ++ cs, r, e)
    | .error r e' => ([], some (r, e'), e)

/-- Of the input that has been looked at, the decoder has read what lies before a bit (R269): the rest has not been touched. -/
def readUpTo (x : EngCtx) (input from' pos : Nat) : E Unit := do
  let _ ← engRead x (input + from') ((pos + 7) / 8 - from')

/-- The first unit (R269): the descriptor and its limits, then the decoder from the dictionary or the state block. DESIGN CHOICE (log
152): a fault on the dictionary leaves a state block without history. -/
def xpandStart (x : EngCtx) (desc : Nat) (resume : Bool) : E Unit' := do
  if desc % 64 ≠ 0 then pure (.done 13 5 0)
  else do
    let bs ← engRead x desc 64
    let w (i : Nat) : Nat := natOfBytes ((bs.drop (8 * i)).take 8)
    match xpandRefusal w with
    | some (c, d) => pure (.done c d 0)
    | none => do
      walkPut x 0 (w 6)
      for i in List.range 4 do walkPut x (10 + i) (w i)
      walkPut x 84 1
      let s ← engState
      if resume then do
        let block ← engRead x (w 6) 0xC000
        match Xpand.ofBlock block with
        | none => pure (.done 2 1 0)
        | some d => do engSet (s.setXpand x.t.id (some (d, d))); pure (.go d.out)
      else do
        match ← engTry (engRead x (w 4) (w 5)) with
        | .error (c, d) => do
          let s ← engState
          engSet (s.setXpand x.t.id (some (Xpand.fresh [], Xpand.fresh [])))
          xpandEnds x (Xpand.fresh []) c d 0
        | .ok dict => do engSet (s.setXpand x.t.id (some (Xpand.fresh dict, Xpand.fresh dict))); pure (.go 0)

/-- Input that the decoder needs is missing: it cannot be read, is still to come, or has ended. -/
def xpandShort (x : EngCtx) (old d : Xpand) (why : Option (Stop × Eng)) (last : Bool) (tile : E Unit) : E Unit' :=
  match why with
  | some (.wait asks, _) => throw (.wait asks)
  | some (.atomic w k b c, _) => throw (.atomic w k b c)
  | some (.again, _) => throw .again
  | some (.fail c k, e) => do set e; xpandEnds x d c k d.out
  | none =>
    if last then do
      match ← engTry tile with
      | .error (c, k) => xpandEnds x d c k d.out
      | .ok _ => xpandEnds x { d with out := d.made, tile := [] } 10 0 d.pos
    else do
      let s ← engState
      engSet (s.setXpand x.t.id (some (d, old)))
      pure (.go d.out)

/-- One unit: up to a tile of output. -/
def xpandUnit (x : EngCtx) (desc : Nat) (resume : Bool) : E Unit' := do
  let began ← walkGet x 84
  if began = 0 then xpandStart x desc resume
  else do
    let s ← engState
    match s.xpandOf x.t.id with
    | none => do
      -- placed again after a parking: the block holds the decoder (R271)
      let block ← walkGet x 0
      let bs ← engRead x block 0xC000
      match Xpand.ofBlock bs with
      | none => pure (.done 2 1 0)
      | some d => do engSet (s.setXpand x.t.id (some (d, d))); pure (.go d.out)
    | some (d, _) => do
      let input ← walkGet x 10
      let len ← walkGet x 11
      let output ← walkGet x 12
      let limit ← walkGet x 13
      let at' := d.pos / 8
      let n := min 8192 (len - at')
      engSet (s.setXpand x.t.id (some (d, d)))
      let e ← get
      let (bs, why, ahead) := readAhead x (linePieces (input + at') n) e
      let win : Window := ⟨8 * at', natOfBytes bs, 8 * bs.length, why.isNone && len ≤ at' + n⟩
      let tile (d : Xpand) : E Unit := if d.tile.isEmpty then pure () else engWrite x (output + d.out) d.tile
      match d.run win limit 131072 (codeOf (d.lens.take 288)) (codeOf (d.lens.drop 288)) with
      | .full before bytes after => do
        readUpTo x input at' after.pos
        match ← engTry (engWrite x (output + before.out) bytes) with
        | .error (c, k) => xpandEnds x before c k before.out
        | .ok _ => do
          let s ← engState
          engSet (s.setXpand x.t.id (some (after, d)))
          pure (.go after.out)
      | .short d' => do
        set ahead
        xpandShort x d d' why win.last (tile d')
      | .ends d' => do
        readUpTo x input at' d'.pos
        match ← engTry (tile d') with
        | .error (c, k) => xpandEnds x d' c k d'.out
        | .ok _ => pure (.done 0 0 d'.made)
      | .bad d' c k pos => do
        set ahead
        match ← engTry (tile d') with
        | .error (c, k) => xpandEnds x d' c k d'.out
        | .ok _ => xpandEnds x { d' with out := d'.made, tile := [], pos := pos } c k pos

/-- A write of `xpand` to another device has failed: the decoder stands where its last confirmed unit left it, and the state block is
written so. When that writing has failed, or the one of a parking, the block is lost. -/
def xpandFailed (x : EngCtx) (f : Nat × Nat) (p : Nat) : E Unit' := do
  let s ← engState
  let k ← walkGet x 83
  match s.xpandOf x.t.id with
  | some (_, old) => if 2 ≤ k then pure (blockLost f old.out) else do
    walkPut x 83 1
    xpandEnds x old f.1 f.2 old.out
  | none => pure (blockLost f p)

end Sys2Proof.Machine
end

