-- ==== Sys2Proof/Machine/EngineUnit.lean ====
section
/-! DEFINITION. The copy engine at work (R249 to R251, R50): the unit of the running command of a thread, the rotation over
the threads of a core, and the writes that wait for a context page. -/

namespace Sys2Proof.Machine

/-! ## One unit -/

/-- The unit of a command that has come to a progress. An entry that holds no engine instruction does nothing. -/
def unitOf (x : EngCtx) (e : CeEntry) : E Unit' :=
  let p := e.progress.toNat
  match ceInstr e with
  | some (.cpy _ _ _ _ dsp ssp _ f) => copyUnit x (linearCopy e dsp ssp f) p
  | some (.cpy2d _ _ _ _ dsp ssp _ f) => copyUnit x (rowCopy e dsp ssp f) p
  | some (.cpyc _ _ limit) => chainUnit x limit.toNat
  | some (.cmcast _ _ _ mask _) => castUnit x e mask p
  | some (.cfill _ _ _ _ dsp w _ f) => fillUnit x e dsp w f p
  | some (.stash _ _ _ _ n) => stashUnit x e n.toNat none p
  | some (.resto _ _ _ _ n f32) => stashUnit x e n.toNat (some f32) p
  | some (.xpand _ _ r) => xpandUnit x (ceOp e 0).toNat r
  | some (.gcopy _ _ _ _ _ o) => graphUnit x (gcmdOf .copy o e)
  | some (.gsend _ _ _ _ o) => graphUnit x (gcmdOf .send o e)
  | some (.gcmp _ _ _ _ o) => graphUnit x (gcmdOf .cmp o e)
  | some (.ghash _ _ _ _ o) => graphUnit x (gcmdOf .hash o e)
  | some (.gfree _ _ _ _ _ o) => graphUnit x (gcmdOf .free o e)
  | some (.gcount _ _ _ _ o) => graphUnit x (gcmdOf .count o e)
  | some (.gintake _ _ i m) => intakeUnit x e i.toNat m
  | some (.gtype ..) => typeUnit x e
  | some (.mldr _ _ _ _ g) => mldrUnit x (ceOp e 0).toNat g.toNat
  | some (.mst _ _ _ _ g n f) => mstUnit x (ceOp e 0).toNat (ceOp e 1).toNat g.toNat (32 * (n.toNat + 1)) f
  | _ => pure .idle

/-- What a command does when one of its writes to another device has failed (R399). -/
def unitFailed (x : EngCtx) (e : CeEntry) (f : Nat × Nat) : E Unit' :=
  match ceInstr e with
  | some (.cpyc ..) => chainFailed x f
  | some (.xpand ..) => xpandFailed x f e.progress.toNat
  | some (.gcopy _ _ _ _ _ o) => graphFailed x (gcmdOf .copy o e) f
  | some (.gsend _ _ _ _ o) => graphFailed x (gcmdOf .send o e) f
  | some (.gcmp _ _ _ _ o) => graphFailed x (gcmdOf .cmp o e) f
  | some (.ghash _ _ _ _ o) => graphFailed x (gcmdOf .hash o e) f
  | some (.gfree _ _ _ _ _ o) => graphFailed x (gcmdOf .free o e) f
  | some (.gcount _ _ _ _ o) => graphFailed x (gcmdOf .count o e) f
  | _ => pure (.done f.1 f.2 e.progress.toNat)

/-- The walk state of a command that starts: empty, but for the head of a chain of records (R261). -/
def firstWalk (e : CeEntry) : List Word :=
  match ceInstr e with
  | some (.cpyc ..) => ceOp e 0 :: List.replicate 89 0
  | _ => List.replicate 90 0

/-- A command that starts: its walk state is the first, and its entry STARTED. Progress that waited for acknowledgements is
confirmed, unless one of those writes has failed (R254). -/
def Thread.beginUnit (t : Thread) (e : CeEntry) (failed : Bool) : Thread :=
  let t := if e.started then t else { t with walk := firstWalk e }
  let w := (t.walkAt walkPending).toNat
  let t := t.setCeHead (fun c => some { c with
    started := true, progress := if w = 0 || failed then c.progress else BitVec.ofNat 48 (w - 1) })
  if w = 0 then t else t.setWalk walkPending 0

/-- The context of a thread's commands. -/
def engCtx (s : State) (t : Thread) (core : Nat) : EngCtx :=
  { t := t, owner := .engine t.id, asid := s.asidOf t, core := core, user := s.isUser t, mine := none }

/-- A unit run on a device. One that waits for answers keeps the pages that it has translated (R253). -/
def State.runUnit (s : State) (x : EngCtx) (p : Nat) (m : E Unit') : Option State :=
  match m { s := s } with
  | .ok u e => State.afterUnit x u e
  | .error (.wait asks) e => if asks.isEmpty then none else some ((s.sendAsks x asks).keepSegs x.t.id e.held)
  | .error (.atomic w k b c) _ => s.sendEngAtomic x w k b c
  | .error .again _ => some (s.dropPends x.owner)
  | .error (.fail c d) e => State.afterUnit x (.done c d p) e

/-- The running command is an `mldr` or `mst` that waits for its ranks. -/
def State.awaitsRanks (s : State) (id : ThreadId) : Option Nat := (s.rankCmds.find? (fun c => decide (c.owner = id))).map (·.tag)

/-- A command that waits for its ranks ends once each has answered, failed or been lost. -/
def State.ranksDone (s : State) (id : ThreadId) : State :=
  match s.awaitsRanks id with
  | some tag => s.rankCheck tag
  | none => s

/-- A status that waits for acknowledgements still gives way to a failed write: that of a command which has succeeded, CODE 0 or 3;
that of an `xpand`, whose state block may be what has failed (R270); and whatever code a walk would have written, since what has failed
belongs to the emptying of its table (R276) or to the record of a held one, but not the failure of that emptying itself. -/
def givesWay (t : Thread) (e : CeEntry) (ending : Word) : Bool :=
  getBits ending 0 7 == 0#7 || getBits ending 0 7 == 3#7 || (match ceInstr e with
    | some (.xpand ..) => true
    | some (.gcopy ..) | some (.gsend ..) | some (.gcmp ..) | some (.ghash ..) | some (.gfree ..) | some (.gcount ..) =>
      t.walkAt gPhase != 2 || (getBits ending 0 7 == getBits (t.walkAt gCode) 0 7 && getBits ending 8 8 == getBits (t.walkAt gDetail) 0 8)
    | _ => false)

/-- A running `xpand` has still to report a failed write, or to end: its unit is not over (R82, R270). -/
def State.xpandEnding (s : State) (t : Thread) : Bool :=
  (s.xpandOf t.id).isSome && ((s.engFailure (.engine t.id)).isSome || t.walkAt walkEnding != 0)

/-- The engine serves a thread: one unit of its running command, or none when nothing can proceed. Commands behind a register
write that waits for a context page wait for it (R50). The failure of a write counts unless the command has failed before. -/
def State.engineServe (s : State) (id : ThreadId) : Option State :=
  match s.thread? id with
  | none => none
  | some t => match t.ceHead, s.gangOf t, s.coreOf t with
    | some (_, e), some g, some core =>
      if s.deferred.any (fun (d : Deferred) => decide (d.owner = id)) then none
      else if (s.awaitsRanks id).isSome then
        let s' := s.ranksDone id
        if (s'.awaitsRanks id).isSome then none else some s'
      else if (g.parking.isSome && !s.xpandEnding t) || s.unackedBy (.engine id) then none
      else
        let ending := if e.started then t.walkAt walkEnding else 0
        let t' := t.beginUnit e (s.engFailure (.engine id)).isSome
        let s' := s.setThread t'
        let entry := (t'.ceHead.map (·.2)).getD e
        let p := entry.progress.toNat
        if ending ≠ 0 && ((s.engFailure (.engine id)).isNone || !givesWay t e ending) then
          some (s'.finishCe id (getBits ending 0 7).toNat (getBits ending 8 8).toNat (getBits ending 16 48).toNat)
        else match s.engFailure (.engine id) with
          | some f =>
            let t' := t'.setWalk walkEnding 0
            let s' := (s'.setThread t').dropPends (.engine id)
            s'.runUnit (engCtx s' t' core) p (unitFailed (engCtx s' t' core) entry (failStatus f))
          | none => (s'.runUnit (engCtx s' t' core) p (unitOf (engCtx s' t' core) entry)).map (fun u => u.ranksDone id)
    | _, _, _ => none

/-- A unit of a thread's running command, its engine words in memory where its control area lies there. -/
def State.engineTry (s : State) (id : ThreadId) : Option State :=
  match s.engineServe id with
  | none => none
  | some s' => match s.thread? id, s'.thread? id with
    | some t, some u => some (s'.mirrorEngines t u)
    | _, _ => some s'

/-! ## The rotation (R249) -/

/-- The threads of a core with a command, those after the last one served first. -/
def State.ceTurns (s : State) (core : Nat) : List ThreadId :=
  let ids := (s.threads.filter (fun t => t.ceHead.isSome && s.coreOf t == some core)).map (·.id)
  match (s.core core).ceTurn with
  | none => ids
  | some last =>
    let all := s.threads.map (·.id)
    match all.findIdx? (fun i => decide (i = last)) with
    | none => ids
    | some k =>
      let after := (all.drop (k + 1))
      ids.filter (fun i => after.contains i) ++ ids.filter (fun i => !after.contains i)

/-- The first thread in the rotation whose command can proceed, and the device after its unit. -/
def State.nextUnit (s : State) (core : Nat) : Option State :=
  (s.ceTurns core).findSome? (fun id => (s.engineTry id).map (fun s' =>
    let k := s'.core core
    s'.setCore { k with ceTurn := some id, units := k.units + 1 }))

/-- The copy engine of a core serves one unit of a running command in rotation (R249) -/
def execEngineUnit (core : Nat) (s : State) : Host.Outcome State Fault Refusal :=
  if Config.cores ≤ core then .fault .noUnit else .next ((s.nextUnit core).getD s)

/-! ## Waits that end (R261, R50) -/

/-- A thread's running `cpyc` has waited for its record's ownership as long as its limit says. -/
def State.cpycExpired (s : State) (t : Thread) : Bool :=
  match t.ceHead with
  | some (_, e) => (match ceInstr e with
      | some (.cpyc _ _ limit) => e.started && t.walkAt 3 == 0 && t.walkAt 2 != 0 && limit != 0
          && cpycOver (t.walkAt 2).toNat limit.toNat s.tick
      | _ => false)
  | none => false

/-- A record still unowned after limit × 1,024 ticks ends `cpyc` 11 ABSENT, detail 1 (R261) -/
def execCpycOwnershipTimeout (core : Nat) (s : State) : Host.Outcome State Fault Refusal :=
  if Config.cores ≤ core then .fault .noUnit
  else .next (match s.threads.find? (fun t => s.coreOf t == some core && s.cpycExpired t) with
    | some t => (s.engineTry t.id).getD s
    | none => s)

/-- Writes held for a context page, by CBASE, land once it translates (R50) -/
def execDeferredContextWrite (cbase : Word) (s : State) : Host.Outcome State Fault Refusal :=
  .next (match s.deferred.find? (fun d => d.cbase == cbase) with
    | some d => (s.landDeferred d.owner).saveLeft d.owner
    | none => s)

end Sys2Proof.Machine
end

