-- ==== Sys2Proof/Machine/Matrix.lean ====
section
/-! DEFINITION. The matrix engine (R223 to R239, R399): the checks of a command, its start, and the six kinds. A command
reads C when it starts and writes it when it ends, so that a store in between is overwritten (R238). -/

namespace Sys2Proof.Machine

/-! ## Checks (R225 to R227) -/

/-- A MX command's formats (R226): an 8-bit float. -/
def isF8 (c : Nat) : Bool := c == 11 || c == 12
def isI8 (c : Nat) : Bool := c == 0 || c == 4

/-- The format pairing of a compute command, or the format of another kind, is accepted (R225, R226, R235). -/
def mxFormatsOk (c : BitVec 512) : Bool :=
  let a := mxFmtA c
  let b := mxFmtB c
  match mxKind c with
  | 0 | 1 => (isF8 a && isF8 b) || (a == 13 && b == 13) || (isI8 a && isI8 b) || (a == 9 && b == 9) || (a == 10 && b == 10)
  | 2 => (isF8 a && isF8 b) || (a == 13 && b == 13 && !mxFine c)
  | 3 => isI8 b || (9 ≤ b && b ≤ 13)
  | 4 => 9 ≤ b && b ≤ 12
  | _ => true

/-- The accumulator mode is accepted (R226). -/
def mxAccOk (c : BitVec 512) : Bool :=
  match mxKind c with
  | 0 | 1 | 2 => if isI8 (mxFmtA c) then mxAcc c == 2 else if mxKind c == 2 && mxFine c then mxAcc c == 0 else mxAcc c ≤ 1
  | 3 => true
  | _ => mxAcc c ≤ 2

/-- The flags are allowed for the kind (R227). -/
def mxFlagsOk (c : BitVec 512) : Bool :=
  match mxKind c with
  | 2 => mxFlags c &&& ~~~1#16 == 0
  | 4 => mxFlags c &&& ~~~2#16 == 0 && (!mxNsat c || mxFmtB c == 11)
  | _ => mxFlags c == 0

/-- The fields that the kind marks with a dash are 0 (R225). -/
def mxDashesOk (c : BitVec 512) : Bool :=
  match mxKind c with
  | 3 => mxFmtA c == 0 && mxAcc c == 0 && mxAOff c == 0 && mxCOff c == 0 && mxCStride c == 0 && getBits c 320 64 == 0#64
  | 4 => mxFmtA c == 0 && mxK c == 0 && mxAOff c == 0 && getBits (mxB c) 32 32 == 0#32
  | 5 => mxFmtA c == 0 && mxFmtB c == 0 && mxK c == 0 && mxAOff c == 0 && mxStride c == 0 && mxB c == 0 && mxVA c == 0
  | _ => true

/-- K's limits (R226, R235). -/
def mxKOk (c : BitVec 512) : Bool :=
  3 < mxKind c || (mxK c % 32 == 0 && decide (32 ≤ mxK c ∧ mxK c ≤ 16384) && !(mxKind c == 2 && mxFine c && mxK c % 128 != 0))

/-- One more than the last enabled row, and the last enabled column; 0 for none. -/
def mxRowEnd (c : BitVec 512) : Nat := match (mxRows c).getLast? with
  | some m => m + 1
  | none => 0
def mxColEnd (c : BitVec 512) : Nat := match (mxCols c).getLast? with
  | some n => n + 1
  | none => 0
/-- Some element is enabled. -/
def mxSome (c : BitVec 512) : Bool := mxRowEnd c != 0 && mxColEnd c != 0

/-- A's range, alignment and stride, in `pad` bytes of scratchpad. -/
def mxAOk (c : BitVec 512) (pad : Nat) : Bool :=
  let len := mxK c * fmtBits (mxFmtA c) / 8
  2 < mxKind c || (mxAOff c % 16 == 0 && mxStride c % 16 == 0 && decide (len ≤ mxStride c)
    && (mxRowEnd c == 0 || decide (mxAOff c + (mxRowEnd c - 1) * mxStride c + len ≤ pad)))

/-- C's range, alignment and stride. -/
def mxCOk (c : BitVec 512) (pad : Nat) : Bool :=
  mxKind c == 3 || (mxCOff c % 32 == 0 && mxCStride c % 32 == 0 && decide (128 * mxCBytes c ≤ mxCStride c)
    && (!mxSome c || decide (mxCOff c + (mxRowEnd c - 1) * mxCStride c + mxColEnd c * mxCBytes c ≤ pad)))

/-- The B-store range, in banks of `bank` bytes. -/
def mxBOk (c : BitVec 512) (bank : Nat) : Bool :=
  3 < mxKind c || ((mxB c).toNat % 16 == 0 && decide ((mxB c).toNat + mxK c * fmtBits (mxFmtB c) / 8 ≤ bank))

/-- The scales that enabled elements need (R209, R227, R233); FP32 scales are aligned whether or not an element is enabled. -/
def mxScalesOk (c : BitVec 512) (pad : Nat) : Bool :=
  if mxKind c != 2 then true
  else if mxFine c && !(mxScaleA c % 4 == 0 && mxScaleB c % 4 == 0) then false
  else if !mxSome c then true
  else if mxFine c then
    decide (mxScaleA c + 4 * (mxRowEnd c * (mxK c / 128)) ≤ pad ∧ mxScaleB c + 4 * (mxK c / 128) ≤ pad)
  else decide (mxScaleA c + mxRowEnd c * (mxK c / 32) ≤ pad ∧ mxScaleB c + mxColEnd c * (mxK c / 32) ≤ pad)

/-- The memory operand of `bload` and `cstore`. -/
def mxMemOk (c : BitVec 512) : Bool :=
  !(mxKind c == 3 || mxKind c == 4)
    || ((mxVA c).toNat % 16 == 0 && mxStride c % 16 == 0 && decide (16 * fmtBits (mxFmtB c) ≤ mxStride c))

/-- What a command's checks find, in the order of R227's table: CODE and DETAIL of the first failure. -/
def mxCheck (c : BitVec 512) (pad bank : Nat) : Option (Nat × Nat) :=
  if 5 < mxKind c then some (12, 1)
  else if !mxFormatsOk c then some (12, 2)
  else if !mxAccOk c then some (12, 3)
  else if !mxFlagsOk c then some (12, 4)
  else if !mxDashesOk c then some (12, 5)
  else if !mxKOk c then some (13, 1)
  else if !mxAOk c pad then some (13, 2)
  else if !mxCOk c pad then some (13, 3)
  else if !mxBOk c bank then some (13, 4)
  else if !mxScalesOk c pad then some (13, 5)
  else if !mxMemOk c then some (13, 6)
  else none

/-! ## The queue (R229, R239) -/

/-- The entry pushed earlier; true for entry 1. -/
def Thread.mxHeadEntry (t : Thread) : Option (Bool × MxEntry) :=
  match t.mx0, t.mx1 with
  | some a, none => some (false, a)
  | none, some b => some (true, b)
  | some a, some b => if t.mxHead then some (true, b) else some (false, a)
  | none, none => none

/-- An entry changed; HEAD names the one that remains. -/
def Thread.setMx (t : Thread) (one : Bool) (e : Option MxEntry) : Thread :=
  let t := if one then { t with mx1 := e } else { t with mx0 := e }
  match t.mx0, t.mx1 with
  | some _, none | none, none => { t with mxHead := false }
  | none, some _ => { t with mxHead := true }
  | some _, some _ => t

/-- The entry whose command runs. -/
def Thread.mxRunning (t : Thread) : Option (Bool × MxEntry) := match t.mxHeadEntry with
  | some (one, e) => if e.started then some (one, e) else none
  | none => none

/-- The thread whose command a core's engine executes. -/
def State.mxThread (s : State) (core : Nat) : Option Thread :=
  s.threads.find? (fun t => t.mxRunning.isSome && s.coreOf t == some core)

/-- A thread's matrix entries change; the words of its control area follow. -/
def State.editMx (s : State) (t : Thread) (one : Bool) (e : Option MxEntry) : State :=
  let t' := t.setMx one e
  (s.setThread t').mirrorEngines t t'

/-- A running command ends (R210, R229): its flags are set, after a clear of the same cycle (R243), and then its status is written. -/
def State.endMx (s : State) (id : ThreadId) (flags : BitVec 3) (code detail progress : Nat) : State :=
  match s.thread? id with
  | none => s
  | some t => match t.mxHeadEntry with
    | none => s
    | some (one, e) =>
      let st := statusWord code detail progress
      (((s.inOrder (.mxEnd id)).editMx t one none).dropPends (.matrix id)).engineWrite id
        [.mxFlags flags, if e.wide then .wideStatus e.reg st else .scalar e.reg st]

/-- The k-steps of a core's engine are counted (R356). -/
def State.countKSteps (s : State) (core n : Nat) : State :=
  let k := s.core core
  s.setCore { k with ksteps := k.ksteps + n }

/-! ## Elements (R224, R225, R231) -/

/-- Element `k` of packed bytes, `w` bits wide (R93, R224). -/
def packedElem (bs : List Byte) (w k : Nat) : Nat :=
  if w = 4 then fieldOf (bs.getD (k / 2) 0).toNat (4 * (k % 2)) 4 else natOfBytes ((bs.drop (k * w / 8)).take (w / 8))

/-- A signed or unsigned 8-bit integer. -/
def mxInt (code p : Nat) : Int := if code = 0 then signedNat p 8 else p
/-- A pattern of a float format by its TYPE code. -/
def mxReal (code p : Nat) : Real := (ElemType.ofCode (BitVec.ofNat 4 code)).fmt.value p

/-- The scratchpad key of an offset of the thread's core. -/
def Thread.padKey (t : Thread) (off : Nat) : Nat := t.home * Config.coreSpan + off

/-- Element (m, n) of C. -/
def mxCKey (t : Thread) (c : BitVec 512) (m n : Nat) : Nat := t.padKey (mxCOff c + m * mxCStride c + n * mxCBytes c)
def State.mxReadC (s : State) (t : Thread) (c : BitVec 512) (m n : Nat) : Nat := natOfBytes (s.padRead t (mxCKey t c m n) (mxCBytes c))

/-- The enabled elements, rows first. -/
def mxElems (c : BitVec 512) : List (Nat × Nat) := (mxRows c).flatMap (fun m => (mxCols c).map (fun n => (m, n)))

/-! ## Uncorrectable errors of the inputs (R227, R357, R358) -/

/-- Scratchpad ranges, as offset and length, that a command reads of C. -/
def mxCRanges (c : BitVec 512) : List (Nat × Nat) := (mxElems c).map (fun p => (mxCOff c + p.1 * mxCStride c + p.2 * mxCBytes c, mxCBytes c))

/-- Those that a compute command reads of A and of the scales. -/
def mxInputRanges (c : BitVec 512) : List (Nat × Nat) :=
  if !mxSome c then []
  else (mxRows c).map (fun m => (mxAOff c + m * mxStride c, mxK c * fmtBits (mxFmtA c) / 8)) ++ mxScaleList c

/-- The first of some ranges with an uncorrectable error is lost: the state after it, or none where all are sound. -/
def State.mxLost (s : State) (t : Thread) (rs : List (Nat × Nat)) : Option State :=
  (rs.find? (fun r => s.padBad t (t.padKey r.1) r.2)).map (fun r => s.padLost t (t.padKey r.1) r.2)

/-- Elements of C written, in one step. -/
def State.mxWriteC (s : State) (t : Thread) (c : BitVec 512) (vs : List ((Nat × Nat) × Nat)) : State :=
  let lines := (vs.map (fun v => mxCKey t c v.1.1 v.1.2 / 256)).eraseDups
  let s := lines.foldl (fun s l => s.atPad t (256 * l) localStoreRank) s
  (s.onGang t.id.task t.id.gang (fun g => { g with
    spad := vs.foldl (fun cs v => cellsWrite zeroByte cs (mxCKey t c v.1.1 v.1.2) (bytesOfNat (mxCBytes c) v.2)) g.spad })).wakeBarriers

/-- Bytes of one bank of the B-store allocation (R224), and the key of a bank's byte. -/
def State.bankBytes (s : State) (t : Thread) : Nat := match s.taskOf t with
  | some k => k.bstore / 128
  | none => 0
def State.bankKey (s : State) (t : Thread) (bank byte : Nat) : Nat := t.home * Config.bstoreSpan + bank * s.bankBytes t + byte

/-- Damaged words of the B-store under a range of keys are lost, like those of a scratchpad (R358); none where the range is sound. -/
def State.bankLost (s : State) (t : Thread) (key n : Nat) : Option State :=
  match s.gangOf t with
  | none => none
  | some g =>
    let ws := g.badB.filter (fun w => meets (8 * w) 8 key n)
    if ws.isEmpty then none
    else
      let s := (s.sramLost ((s.coreOf t).getD 0)).setGang { g with badB := g.badB.filter (fun w => !ws.contains w) }
      some (ws.foldl (fun s w =>
        let (s, bs) := s.lostBytes 8
        s.onGang t.id.task t.id.gang (fun g => { g with bstore := cellsWrite zeroByte g.bstore (8 * w) bs })) s)

/-- The first column of B that a compute command reads in a damaged word. -/
def State.mxBLost (s : State) (t : Thread) (c : BitVec 512) : Option State :=
  if !mxSome c then none
  else (mxCols c).findSome? (fun n => s.bankLost t (s.bankKey t n (mxB c).toNat) (mxK c * fmtBits (mxFmtB c) / 8))

/-- A row of A, and a column of B, as elements. -/
def State.mxRowA (s : State) (t : Thread) (c : BitVec 512) (m : Nat) : List Nat :=
  let w := fmtBits (mxFmtA c)
  let bs := s.padRead t (t.padKey (mxAOff c + m * mxStride c)) (mxK c * w / 8)
  tabulate (mxK c) (packedElem bs w)
def State.mxColB (s : State) (t : Thread) (c : BitVec 512) (n : Nat) : List Nat :=
  let w := fmtBits (mxFmtB c)
  let bs := match s.gangOf t with
    | some g => cellsRead zeroByte g.bstore (s.bankKey t n (mxB c).toNat) (mxK c * w / 8)
    | none => []
  tabulate (mxK c) (packedElem bs w)

/-! ## Sums (R231 to R234) -/

def mxAOVF : BitVec 3 := 1
def mxASAT : BitVec 3 := 2
def mxANAN : BitVec 3 := 4

/-- The exact sum of products of a group (R232); it starts from the first product, so a zero is −0 only when all are. -/
def groupSum (ps : List (Real × Real)) : Real :=
  match ps with
  | [] => .zero false
  | p :: ps => ps.foldl (fun acc q => (realAdd .rne acc (realMul q.1 q.2).1).1) (realMul p.1 p.2).1

/-- An E8M0 scale (R212, R232). -/
def e8m0 (b : Nat) : Real := if b = 0xFF then .nan else .fin false 1 ((b : Int) - 127) false

/-- RoundNE32 (R233, R234): the value, and AOVF when a finite sum went beyond the range. -/
def roundNE32 (x : Real) : Nat × BitVec 3 :=
  let (p, f) := roundTo .f32 .rne 0 false x
  (p, if f &&& Flags.ovf != 0 then mxAOVF else 0)

/-- The accumulator's rounding of c + S in the float modes (R234). -/
def accRound (acc : Nat) (x : Real) : Nat × BitVec 3 :=
  if acc = 0 then roundNE32 x
  else
    let p := (roundTo .f16 .rne 0 false x).1
    if p % 2 ^ 15 = 0x7C00 then ((if p.testBit 15 then 0xFBFF else 0x7BFF), mxASAT) else (p, 0)

/-- The format of C in a float mode. -/
def accFmt (acc : Nat) : Fmt := if acc = 1 then .f16 else .f32

/-- One element in a float mode: groups of `g` products, each scaled by what `scale` gives. -/
def accFloat (acc g : Nat) (scale : Nat → Real) (xs : List (Real × Real)) (c : Nat) : Nat × BitVec 3 :=
  (((chunks g xs).zip (List.range (xs.length / g))).foldl (fun (a : Nat × BitVec 3) p =>
    let s := (realMul (groupSum p.1) (scale p.2)).1
    let (v, f) := accRound acc (realAdd .rne ((accFmt acc).value a.1) s).1
    (v, a.2 ||| f)) (c, 0))

/-- One element in INT32 mode. -/
def accInt (xs : List (Int × Int)) (c : Nat) : Nat × BitVec 3 :=
  (chunks 32 xs).foldl (fun (a : Nat × BitVec 3) ps =>
    let x := signedNat a.1 32 + (ps.map (fun p => p.1 * p.2)).sum
    let y := clampInt x (-(2 ^ 31 : Nat)) ((2 ^ 31 : Nat) - 1)
    ((BitVec.ofInt 32 y).toNat, a.2 ||| (if y = x then 0 else mxASAT))) (c, 0)

/-- One element in fine mode (R233): chunks of 128, each of four groups summed in f32, scaled by two f32 words. -/
def accFine (sa sb : Nat → Nat) (xs : List (Real × Real)) (c : Nat) : Nat × BitVec 3 :=
  ((chunks 128 xs).zip (List.range (xs.length / 128))).foldl (fun (a : Nat × BitVec 3) p =>
    let (pv, pf) := (chunks 32 p.1).foldl (fun (b : Nat × BitVec 3) ps =>
      let (v, f) := roundNE32 (realAdd .rne (Fmt.f32.value b.1) (groupSum ps)).1
      (v, b.2 ||| f)) (0, 0)
    let term := (realMul (realMul (Fmt.f32.value pv) (Fmt.f32.value (sa p.2))).1 (Fmt.f32.value (sb p.2))).1
    let (v, f) := roundNE32 (realAdd .rne (Fmt.f32.value a.1) term).1
    (v, a.2 ||| pf ||| f)) (c, 0)

/-- An element written as NaN sets ANAN (R234). -/
def withNan (acc : Nat) (r : Nat × BitVec 3) : Nat × BitVec 3 :=
  if acc ≠ 2 ∧ (accFmt acc).isNan r.1 then (r.1, r.2 ||| mxANAN) else r

/-- Element (m, n) of a compute command from a row of A, a column of B and its C. -/
def State.mxElement (s : State) (t : Thread) (c : BitVec 512) (m n : Nat) (a b : List Nat) (base : Nat) : Nat × BitVec 3 :=
  let byte (off : Nat) : Nat := natOfBytes (s.padRead t (t.padKey off) 1)
  let word (off : Nat) : Nat := natOfBytes (s.padRead t (t.padKey off) 4)
  withNan (mxAcc c) (
    if mxAcc c = 2 then accInt ((a.map (mxInt (mxFmtA c))).zip (b.map (mxInt (mxFmtB c)))) base
    else
      let xs := (a.map (mxReal (mxFmtA c))).zip (b.map (mxReal (mxFmtB c)))
      if mxKind c = 2 then
        if mxFine c then
          accFine (fun h => word (mxScaleA c + 4 * (m * (mxK c / 128) + h))) (fun h => word (mxScaleB c + 4 * h)) xs base
        else accFloat (mxAcc c) 32 (fun g =>
          (realMul (e8m0 (byte (mxScaleA c + m * (mxK c / 32) + g))) (e8m0 (byte (mxScaleB c + n * (mxK c / 32) + g)))).1) xs base
      else accFloat (mxAcc c) (if fmtBits (mxFmtA c) = 16 then 16 else 32) (fun _ => .fin false 1 0 false) xs base)

/-- Every enabled element of a compute command, with the flags of all (R231). -/
def State.mxProduct (s : State) (t : Thread) (c : BitVec 512) (base : List Nat) : List ((Nat × Nat) × Nat) × BitVec 3 :=
  let cols := (mxCols c).map (fun n => (n, s.mxColB t c n))
  let vs := ((mxRows c).flatMap (fun m =>
    let a := s.mxRowA t c m
    cols.map (fun b => (m, b.1, a, b.2)))).zip (List.range (mxElems c).length)
  let rs := vs.map (fun v => ((v.1.1, v.1.2.1), s.mxElement t c v.1.1 v.1.2.1 v.1.2.2.1 v.1.2.2.2 (base.getD v.2 0)))
  (rs.map (fun r => (r.1, r.2.1)), rs.foldl (fun f r => f ||| r.2.2) 0)

/-! ## The running command of a core -/

/-- The command of a kind that a core's engine executes: its thread, entry and command. -/
def State.mxCommand (s : State) (core kind : Nat) : Option (Thread × MxEntry) :=
  match s.mxThread core with
  | none => none
  | some t => match t.mxRunning with
    | some (_, e) => if mxKind e.cmd = kind then some (t, e) else none
    | none => none

/-- A compute command runs to its end, or ends at an uncorrectable error of an input, with C as it was (R227). -/
def State.mxCompute (s : State) (core kind : Nat) : Option State :=
  (s.mxCommand core kind).map (fun te =>
    match (s.mxLost te.1 (mxInputRanges te.2.cmd)).orElse (fun _ => s.mxBLost te.1 te.2.cmd) with
    | some s => s.endMx te.1.id 0 5 4 0
    | none =>
      let (vs, f) := s.mxProduct te.1 te.2.cmd te.2.base
      ((s.mxWriteC te.1 te.2.cmd vs).countKSteps core (mxK te.2.cmd)).endMx te.1.id f 0 0 (mxK te.2.cmd))

/-- `czero` runs to its end (R237). -/
def State.mxZero (s : State) (core : Nat) : Option State :=
  (s.mxCommand core 5).map (fun te =>
    let c := te.2.cmd
    (s.mxWriteC te.1 c ((mxElems c).map (fun p => (p, 0)))).endMx te.1.id 0 0 0 ((mxElems c).length * mxCBytes c))

/-! ## Rows to and from memory (R235, R236, R399) -/

/-- The running entry of a thread changed. -/
def State.onMx (s : State) (id : ThreadId) (f : MxEntry → MxEntry) : State :=
  s.onThread id (fun t => match t.mxRunning with
    | some (one, e) => t.setMx one (some (f e))
    | none => t)

/-- K-row `k` of a `bload`: each enabled column's element goes to its bank. -/
def bloadRow (x : EngCtx) (c : BitVec 512) (k : Nat) : E (BitVec 3) := do
  let w := fmtBits (mxFmtB c)
  let bs ← engRead x ((mxVA c).toNat + k * mxStride c) (16 * w)
  let s ← engState
  let put (cells : Cells) (j : Nat) : Cells :=
    let key := s.bankKey x.t j ((mxB c).toNat + k * w / 8)
    let p := packedElem bs w j
    if w = 4 then
      let old := (cellsByte zeroByte cells key).toNat
      let new := if k % 2 = 0 then old / 16 * 16 + p else old % 16 + 16 * p
      cellsWrite zeroByte cells key [BitVec.ofNat 8 new]
    else cellsWrite zeroByte cells key (bytesOfNat (w / 8) p)
  engSet (s.onGang x.t.id.task x.t.id.gang (fun g => { g with bstore := (mxCols c).foldl put g.bstore }))
  pure 0

/-- One element as `cstore` delivers it, and its flags (R236). -/
def cstoreElem (c : BitVec 512) (p : Nat) : Nat × BitVec 3 :=
  let ty := ElemType.ofCode (BitVec.ofNat 4 (mxFmtB c))
  let x := if mxAcc c = 2 then Real.ofInt (signedNat p 32) else (accFmt (mxAcc c)).value p
  let y := (realMul x (Fmt.f32.value (getBits (mxB c) 0 32).toNat)).1
  let (v, f) := roundTo ty.fmt .rne 0 (mxNsat c) y
  let nan := ty.fmt.isNan v
  (v, (if nan then mxANAN else 0) ||| (if !nan && f &&& Flags.ovf != 0 then mxAOVF else 0)
    ||| (if f &&& Flags.sat != 0 then mxASAT else 0))

/-- Runs of neighbouring columns. -/
def columnRuns (cols : List Nat) : List (Nat × Nat) :=
  cols.foldl (fun rs n => match rs.getLast? with
    | some (a, k) => if a + k = n then rs.dropLast ++ [(a, k + 1)] else rs ++ [(n, 1)]
    | none => [(n, 1)]) []

/-- The `r`-th enabled row of a `cstore`, whose elements of C were read at its start: its bytes are written when every one of them
can be. -/
def cstoreRow (x : EngCtx) (c : BitVec 512) (elems : List Nat) (r : Nat) : E (BitVec 3) := do
  let m := (mxRows c).getD r 0
  let w := fmtBits (mxFmtB c) / 8
  let base := (mxVA c).toNat + m * mxStride c
  let vs := ((mxCols c).zip (elems.drop (r * (mxCols c).length))).map (fun p => (p.1, cstoreElem c p.2))
  let value (n : Nat) : Nat := match vs.find? (fun v => v.1 == n) with
    | some v => v.2.1
    | none => 0
  let runs := columnRuns (mxCols c)
  for r in runs do probePieces x (linePieces (base + r.1 * w) (r.2 * w))
  for r in runs do engWrite x (base + r.1 * w) ((tabulate r.2 (fun i => bytesOfNat w (value (r.1 + i)))).flatten)
  pure (vs.foldl (fun f v => f ||| v.2.2) 0)

/-- Rows of a running command from the first not done, until one waits, fails, or all are done. -/
def mxRowLoop (x : EngCtx) (rows rowBytes : Nat) (unit : Nat → E (BitVec 3)) : Nat → State → State
  | 0, s => s
  | fuel + 1, s =>
    match (s.thread? x.t.id).bind Thread.mxRunning with
    | none => s
    | some (_, e) =>
      if rows ≤ e.row then s.endMx x.t.id e.found 0 0 (rows * rowBytes)
      else match unit e.row { s := s } with
        | .error (.wait asks) _ => s.sendAsks x asks
        | .error (.atomic ..) _ => s
        | .error .again _ => s
        | .error (.fail c d) eng => eng.s.endMx x.t.id e.found c d (e.row * rowBytes)
        | .ok f eng =>
          let s' := eng.commit x
          let waits := s'.unackedBy x.owner
          let s' := (s'.dropPends x.owner).onMx x.t.id (fun e => { e with
            row := if waits then e.row else e.row + 1, acking := waits, found := e.found ||| f
            wide := e.wide || eng.out.any (fun w => w.1 != 0xFFFF) })
          if waits then s' else mxRowLoop x rows rowBytes unit fuel s'

/-- A command that moves rows goes on: none while acknowledgements are still to come. -/
def State.mxMove (s : State) (core kind rows rowBytes : Nat) (te : Thread × MxEntry) (unit : EngCtx → Nat → E (BitVec 3)) : Option State :=
  let (t, e) := te
  let x : EngCtx := { t := t, owner := .matrix t.id, asid := s.asidOf t, core := core, user := s.isUser t, mine := none }
  if mxKind e.cmd ≠ kind ∨ s.unackedBy x.owner then none
  else match s.engFailure x.owner with
    | some f => some (s.endMx t.id e.found (failStatus f).1 (failStatus f).2 (e.row * rowBytes))
    | none =>
      let s := if e.acking then s.onMx t.id (fun e => { e with row := e.row + 1, acking := false }) else s
      let s' := mxRowLoop x rows rowBytes (unit x) (rows + 1) s
      if s' = s then none else some s'

/-- A `bload` goes on. -/
def State.mxLoad (s : State) (core : Nat) : Option State :=
  match s.mxCommand core 3 with
  | none => none
  | some te =>
    let c := te.2.cmd
    s.mxMove core 3 (mxK c) (16 * fmtBits (mxFmtB c)) te (fun x => bloadRow x c)

/-- A `cstore` goes on. -/
def State.mxStore (s : State) (core : Nat) : Option State :=
  match s.mxCommand core 4 with
  | none => none
  | some te =>
    let c := te.2.cmd
    s.mxMove core 4 (mxRows c).length ((mxCols c).length * (fmtBits (mxFmtB c) / 8)) te (fun x => cstoreRow x c te.2.base)

/-! ## Start (R227, R229) -/

/-- The queue heads of a core's threads that may start, the one pushed earliest first. Commands behind a register write that waits for a
context page wait for it (R50). -/
def State.mxNext (s : State) (core : Nat) : Option (Thread × Bool × MxEntry) :=
  if (s.mxThread core).isSome then none
  else
    let heads := s.threads.filterMap (fun t => match t.mxHeadEntry, s.gangOf t with
      | some (one, e), some g =>
        if s.coreOf t == some core && g.parking.isNone && !s.deferred.any (fun (d : Deferred) => decide (d.owner = t.id)) then some (t, one, e) else none
      | _, _ => none)
    heads.foldl (fun best h => match best with
      | none => some h
      | some b => if h.2.2.stamp < b.2.2.stamp then some h else some b) none

/-- The command reads C, and does so when it starts. -/
def mxReadsC (c : BitVec 512) : Bool := mxKind c == 0 || mxKind c == 2 || mxKind c == 4

/-- The engine of a core starts the earliest command: a failed check ends it, else it reads C, where an uncorrectable error ends it with
nothing written (R227). -/
def State.mxStart (s : State) (core : Nat) : Option State :=
  (s.mxNext core).map (fun h =>
    let (t, one, e) := h
    match mxCheck e.cmd (s.padBytes t) (s.bankBytes t) with
    | some (code, detail) => s.endMx t.id 0 code detail 0
    | none =>
      match (if mxReadsC e.cmd then s.mxLost t (mxCRanges e.cmd) else none) with
      | some s => s.endMx t.id 0 5 4 0
      | none =>
      let base := if mxReadsC e.cmd then (mxElems e.cmd).map (fun p => s.mxReadC t e.cmd p.1 p.2) else []
      s.editMx t one (some { e with started := true, base := base, row := 0, acking := false, wide := false, found := 0 }))

/-! ## The steps of the engine -/

/-- The idle matrix engine of a core starts the earliest-pushed queue head (R229) -/
def execMatrixCommandStart (core : Nat) (s : State) : Host.Outcome State Fault Refusal :=
  if Config.cores ≤ core then .fault .noUnit else .next ((s.mxStart core).getD s)

/-- The running command of a core, when it is of the kind, C += A·B (R231) -/
def execMma (core : Nat) (s : State) : Host.Outcome State Fault Refusal :=
  if Config.cores ≤ core then .fault .noUnit else .next ((s.mxCompute core 0).getD s)

/-- C = A·B (R231) -/
def execMmaz (core : Nat) (s : State) : Host.Outcome State Fault Refusal :=
  if Config.cores ≤ core then .fault .noUnit else .next ((s.mxCompute core 1).getD s)

/-- Block-scaled, in MX or fine mode (R231, R233) -/
def execMmas (core : Nat) (s : State) : Host.Outcome State Fault Refusal :=
  if Config.cores ≤ core then .fault .noUnit else .next ((s.mxCompute core 2).getD s)

/-- Fills the B-store from memory (R235) -/
def execBload (core : Nat) (s : State) : Host.Outcome State Fault Refusal :=
  if Config.cores ≤ core then .fault .noUnit else .next ((s.mxLoad core).getD s)

/-- Writes C to memory (R236) -/
def execCstore (core : Nat) (s : State) : Host.Outcome State Fault Refusal :=
  if Config.cores ≤ core then .fault .noUnit else .next ((s.mxStore core).getD s)

/-- Zeroes the enabled elements of C (R237) -/
def execMatrixCzero (core : Nat) (s : State) : Host.Outcome State Fault Refusal :=
  if Config.cores ≤ core then .fault .noUnit else .next ((s.mxZero core).getD s)

end Sys2Proof.Machine
end

