-- ==== Sys2Proof/Machine/Parking.lean ====
section
/-! DEFINITION. Parking a gang (R34, R35, R82, R83): how it begins, what it waits for, what it saves, and what makes a
parked gang ready again. -/

namespace Sys2Proof.Machine

/-! ## Beginning -/

/-- A placed gang begins to be parked: `why` is 0 for R34, 1 for pre-emption, a PARK write or a fence. A parking under way
is joined (R83). -/
def State.beginPark (s : State) (why : Nat) (key : Nat × Nat) : State :=
  s.onGang key.1 key.2 (fun g => if g.cluster.isSome && g.parking.isNone then { g with parking := some why } else g)

/-- The gangs that leave with a gang: a co-resident task's leave together (R76, R82). -/
def State.leaveWith (s : State) (key : Nat × Nat) : List (Nat × Nat) :=
  match s.task? key.1 with
  | some k => if k.cores then ((s.gangs.filter (fun g => g.task == key.1 && g.cluster.isSome)).map (fun g => (g.task, g.index))) else [key]
  | none => [key]

/-- Every placed gang that a predicate picks is parked. -/
def State.parkAll (s : State) (p : Gang → Bool) : State :=
  (((s.gangs.filter (fun g => g.cluster.isSome && p g)).flatMap (fun g => s.leaveWith (g.task, g.index))).eraseDups).foldl
    (fun s key => s.beginPark 1 key) s

/-! ## What is saved -/

/-- A running `xpand` saves its state block (R271); a block that cannot be written ends it with 5 FAULT, detail 5 (R270). None while
the block's page is under migration, for which the parking waits (R320). -/
def State.suspendXpand (s : State) (id : ThreadId) : Option State :=
  match s.xpandOf id, s.thread? id with
  | some (d, _), some t => match s.coreOf t with
    | none => some s
    | some core =>
      let x := engCtx s t core
      let save : E Unit := do
        let block ← walkGet x 0
        engWrite x block d.blockBytes
      match save { s := s } with
      | .ok _ e => some ((e.commit x).setXpand id none)
      | .error (.fail 11 k) e => some (e.s.finishCe id 11 k d.out)
      | .error (.fail ..) e => some (e.s.finishCe id 5 5 d.out)
      | .error .. => none
  | _, _ => some s

/-- A thread leaves its core: its context goes to memory with RUN 2 (R82 steps 4 and 5). A part whose page does not translate
stays in the register cache, DESIGN CHOICE (log 47). Its engine's reads for data under way end; an atomic stays asked. -/
def State.parkThread (s : State) (id : ThreadId) : State :=
  let s := (((s.suspendXpand id).getD s).dropLoads (.thread id)).dropLoads (.engine id)
  let s := { s with segs := s.segs.filter (fun h => h.owner != id) }
  match s.thread? id with
  | none => s
  | some t =>
    let t := if t.run == .halted || t.run == .retired then t else { t with run := .parked, slot := none, lqFly := 0 }
    let (s, t) := s.saveContext t
    s.setThread t

/-- A thread of a gang works on something that ends before a parking: a matrix command that executes, or an atomic that
another device may have performed (R82 steps 1 and 2). -/
def State.midWork (s : State) (t : Thread) : Bool := t.mxRunning.isSome || s.midAtomic t.id

/-- The image and the contexts are written, slots and allocations freed (R82, R83). -/
def State.leaveCluster (s : State) (k : Task) (g : Gang) (why : Nat) (ps : List (Nat × Nat × Nat)) : State :=
  let s := (s.mates g.task g.index).foldl (fun s t => s.parkThread t.id) s
  let (s, g) := s.scrubGang g (g.cluster.getD 0)
  let s := s.putPieces ps (g.image k)
  s.setGang { g with cluster := none, parking := none, imaged := true, imageLost := false, spad := [], bstore := []
                     ready := why != 0, prio := k.prio, ageFrom := s.tick, keptReady := why != 0 }

/-- A tile of an `xpand` is not acknowledged, or its failure not reported: its unit is not over (R82, R270). -/
def State.midTile (s : State) (t : Thread) : Bool := (s.xpandOf t.id).isSome && (s.unackedBy (.engine t.id) || s.xpandEnding t)

/-- A parking of a gang is held up: a command that must complete, a unit that is not over, a state block or an image page under
migration. -/
def State.parkWaits (s : State) (k : Task) (g : Gang) : Bool :=
  (s.mates g.task g.index).any (fun t => s.midWork t || s.midTile t || (s.suspendXpand t.id).isNone)
    || (match s.imagePieces k g.index k.imageBytes with
      | .wait => true
      | _ => false)

/-- The gangs whose parking ends with a gang's: a co-resident task is parked whole (R76, R82). -/
def State.parksWith (s : State) (k : Task) (g : Gang) : List Gang :=
  if k.cores then s.gangs.filter (fun h => h.task == k.num && h.cluster.isSome && h.parking.isSome) else [g]

/-- A gang leaves its cluster, its image in pages that have been found to translate. -/
def State.parkGang (s : State) (k : Task) (g : Gang) : State :=
  match g.parking, s.imagePieces k g.index k.imageBytes with
  | some why, .ok ps => s.leaveCluster k g why ps
  | _, _ => s

/-- A gang stays placed; one whose image does not translate is marked, with one notice (R82). -/
def State.abandonPark (s : State) (k : Task) (g : Gang) : State :=
  if s.imageAbsent k g.index then (s.setGang { g with parking := none, imageLost := true }).imageNotice k g.index
  else s.setGang { g with parking := none }

/-- A parking ends: the gang, with every gang that is parked with it, leaves its cluster, or, where a page of an image does not
translate, stays placed (R82). -/
def State.endPark (s : State) (g : Gang) : Option State :=
  match g.parking, s.task? g.task with
  | some _, some k =>
    let gs := s.parksWith k g
    if gs.any (s.parkWaits k) then none
    else if gs.any (fun h => s.imageAbsent k h.index) then some (gs.foldl (fun s h => s.abandonPark k h) s)
    else some (gs.foldl (fun s h => s.parkGang k h) s)
  | _, _ => none

/-! ## Waking (R35) -/

/-- What a parked thread's `wait` names, by the word at its PC (R141). -/
def State.waitWakes (s : State) (t : Thread) : Bool :=
  match decodeWord t.blockWord with
  | .ok (.wait all count _ a b) =>
    match s.loadLines t allLines with
    | .ok (s, u) => s.waitReady u all count a b
    | _ => s.waitReady t all count a b
  | _ => true

/-- A barrier word has completed the phase that a thread awaits, whether or not a prefix stands before its `bar`. -/
def State.barOver (s : State) (t : Thread) : Bool := match s.barWordOf t with
  | some w => barCompleted w t.savedPhase24
  | none => false

/-- The phase that a thread may arrive at, having awaited it, has begun (R139). -/
def State.nextBegun (s : State) (t : Thread) : Bool :=
  t.nextPhase && (s.domain t.savedLevel (s.domainKey t t.savedLevel)).phase == t.savedPhase32

/-- A thread that is neither blocked, halted nor retired, or whose block has ended. -/
def State.awake (s : State) (t : Thread) : Bool :=
  (t.run != .halted && t.run != .retired) && (match t.block with
    | .ctxFault => false
    | .wait => s.waitWakes t
    | .bar => s.barOver t
    | .gbar => s.phaseOver t
    | .dbar => s.phaseOver t || s.nextBegun t
    | _ => true)

/-- A gang parked by R34 becomes ready when one of its threads is unblocked or resumed (R35, R83). -/
def State.refreshReady (s : State) : State :=
  (s.gangs.filter (fun g => g.cluster.isNone && !g.ready && g.imaged && (s.mates g.task g.index).any s.awake)).foldl
    (fun s g => s.readyGang g.task g.index) s

end Sys2Proof.Machine
end

