-- ==== Sys2Proof/Machine/Retirement.lean ====
section
/-! DEFINITION. Retirement (R37), the completion of a task (R38, R72), and notices delivered (R331). -/

namespace Sys2Proof.Machine

/-! ## Retirement (R37) -/

/-- A retired thread has nothing under way: its queues are empty, and every store it issued to another device has been
acknowledged. -/
def State.settled (s : State) (t : Thread) : Bool :=
  t.run == .retired && !t.gone && t.mxEntries.isEmpty && t.ceEntries.isEmpty
    && !s.unackedBy (.thread t.id) && !s.unackedBy (.engine t.id) && !s.unackedBy (.matrix t.id) && !s.midAtomic t.id

/-- The retirement of a thread takes effect; the last of a gang frees its slots and allocations. -/
def State.retireThread (s : State) (t : Thread) : State :=
  let (s, t) := (s.forget (fun i => decide (i = t.id))).saveContext { t with gone := true, lq := [], sq := [] }
  let s := s.setThread t
  if (s.mates t.id.task t.id.gang).all (·.gone) then
    s.onGang t.id.task t.id.gang (fun g =>
      { g with cluster := none, parking := none, ready := false, spad := [], bstore := [], badPad := [], badB := [] })
  else s

/-! ## Completion (R38, R72) -/

/-- The completion word is written: none while its page is under migration, and with it whether the task is then complete. A store that
cannot be made becomes a record of kind 0x0F. One on another device is over when it is acknowledged, or has failed; one on the host
as soon as it has left, since host memory acknowledges nothing (R364). -/
def State.completionStore (s : State) (k : Task) (t : Thread) (core : Nat) : Option (State × Bool) :=
  let failed (s : State) : Option (State × Bool) := some (s.completionFailed k, true)
  match s.translate none k.asid k.done.toNat ⟨false, true, false, false⟩ with
  | .wait => none
  | .fault s .. => failed s
  | .ok s page size leaf =>
    if pteMode leaf = 0 then
      let pa := leafPA page leaf k.done.toNat
      if s.dataBad pa 8 then failed (s.retireRange pa 8)
      else some ((s.atHome pa localStoreRank).storeHome (viaOf k.asid k.done.toNat leaf) pa (bytesOfWord k.value) none, true)
    else match s.unreachable (ptePeer leaf) with
      | some _ => failed s
      | none =>
        let s := s.countRequest k.asid k.done.toNat size leaf
        if ptePeer leaf = 0xFFFF then some (s.sendRun (.thread t.id) t core k.asid true ⟨ptePeer leaf, k.done.toNat, bytesOfWord k.value⟩, true)
        else some (s.postOp ⟨core, ptePeer leaf, .completion k.num, s.asidJob k.asid, k.asid, k.done.toNat, bytesOfWord k.value, true, s.tick⟩, false)

/-- A task whose every thread has retired completes. -/
def State.taskOver (k : Task) : Bool := k.retired == k.gangs * k.size

/-- The effect of a retirement, and of the task's end if it was the last: none while something is still under way. -/
def State.retirement (s : State) (id : ThreadId) : Option State :=
  match s.thread? id with
  | none => none
  | some t =>
    if !s.settled t then none
    else match s.taskOf t with
      | none => none
      | some k =>
        let core := (s.coreOf t).getD 0
        let k := { k with retired := k.retired + 1 }
        let s' := (s.retireThread t).setTask k
        if State.taskOver k then
          ((s'.setTask { k with closing := true }).completionStore k t core).map
            (fun r => (if r.2 then r.1.removeTask k.num else r.1).domainsCheck)
        else some s'.domainsCheck

/-! ## Notices (R331) -/

/-- NPEND of a halted thread is cleared when its notice is delivered; where its control area cannot be reached now, once it can. -/
def State.clearNpend (s : State) (id : Option ThreadId) : State :=
  match id with
  | none => s
  | some id => match s.editThread id controlLine (fun t => t.apply .npend) with
    | .ok s => s
    | _ => s.holdWrites id [.npend] none false

/-- The first notice held for an ASID goes: a deposit in the receiver's mailbox once it has written it since the last one, or
a record to the host when the trap gang does not serve the ASID or the deposit is refused. None when it must wait, as it does for the
write-back of the halted thread's context (R308). -/
def State.deliverNotice (s : State) (asid : Nat) : Option State :=
  let q := s.noticeQueue asid
  match q.held with
  | [] => none
  | (w, id) :: rest =>
    let toHost (s : State) : State := ((s.setNoticeQueue { q with held := rest }).event 0x02 asid w 0).clearNpend id
    if s.unsaved id then none
    else if !s.trapServed asid then some (toHost s)
    else if !s.noticeFree q then none
    else match s.receiver asid with
      | none => some (toHost s)
      | some r =>
        let m := trapMbox (s.trapGang asid)
        match s.deposit r.id m w with
        | .wait => none
        | .refused s _ => some (toHost s)
        | .done s =>
          let s := s.onThread r.id (fun t => { t with mboxSeen := t.mboxSeen &&& ~~~onesAt 8 m 1 })
          some ((s.setNoticeQueue { q with held := rest, last := some (r.id, m) }).clearNpend id)

/-! ## Steps -/

/-- The retirement of a thread takes effect once its queues are empty and its remote stores acknowledged (R37) -/
def execRetirementEffect (t : ThreadId) (s : State) : Host.Outcome State Fault Refusal := .next ((s.retirement t).getD s)

/-- A held notice is deposited to the trap gang, or sent to the host (R331) -/
def execTrapNotice (asid : Nat) (s : State) : Host.Outcome State Fault Refusal := .next ((s.deliverNotice asid).getD s)

end Sys2Proof.Machine
end

