-- ==== Sys2Proof/Machine/Links.lean ====
section
/-! DEFINITION. Links and the router (R381 to R395): the choice of an output, replay, flow control, retraining, join records,
restriping, and the recovery of deadlocks. -/

namespace Sys2Proof.Machine

/-! ## Devices and links (R381) -/

def groupOf (dev : BitVec 16) : BitVec 11 := getBits dev 5 11
def posOf (dev : BitVec 16) : Nat := (getBits dev 0 5).toNat

def State.link? (s : State) (n : Nat) : Option Link := s.links.find? (fun l => l.num == n)
def State.linkOf (s : State) (n : Nat) : Link := (s.link? n).getD (Link.reset n)
def State.setLink (s : State) (l : Link) : State :=
  if (s.link? l.num).isSome then { s with links := s.links.map (fun m => if m.num = l.num then l else m) }
  else { s with links := s.links ++ [l] }

/-- A link number of the device: local link 0 to 31, or 32 + q for braid q (R381, R388). -/
def linkExists (n : Nat) : Bool := decide (n < 128)

/-- The unit of FENCECTL that a braid is (R354). -/
def braidUnit (link : Nat) : Nat := link - 32 + 24

/-- A link carries packets (R383, R388, R390); a braid without a live feed is down (R382). -/
def State.linkRuns (s : State) (l : Link) : Bool := l.state == .up && s.hasFabric && (l.num < 32 || l.feeds != 0)

/-- A link may be chosen for a new packet: not down, dark, draining or fenced, and not restriping (R354, R390, R391). -/
def State.linkOpen (s : State) (l : Link) : Bool :=
  s.linkRuns l && l.striping.isEmpty && (l.num < 32 || s.unitState (braidUnit l.num) == .inService)

/-! ## Wavelengths (R382) -/

/-- The live wavelengths of a braid, ascending: feed `k` supplies 4k to 4k + 3. -/
def wavelengths (feeds : BitVec 4) : List Nat := (List.range 16).filter (fun w => feeds.getLsbD (w / 4))

/-- The wavelength to which word `w` of the stream is dealt; none without a live feed. -/
def dealtTo (feeds : BitVec 4) (w : Nat) : Option Nat := let ws := wavelengths feeds; ws[w % ws.length]?

/-- The wavelengths of a flit's sixteen words. -/
def Link.deal (l : Link) : List Nat := (List.range 16).filterMap (fun i => dealtTo l.feeds (l.words + i))

/-- A braid that is up deals anew after the loss of a feed (R391). -/
def Link.restriping (l : Link) : Bool := l.state == .up && !l.striping.isEmpty

/-! ## Paths (R390) -/

/-- Global ports from one group into another: device and the peer at the other end. -/
def State.portsBetween (s : State) (a b : BitVec 11) : List (BitVec 16 × Nat × BitVec 16) :=
  s.site.shape.filter (fun e => 32 ≤ e.2.1 && groupOf e.1 == a && groupOf e.2.2 == b)

/-- Hops of a minimal path: local, global, local (R390). -/
def State.hopsTo (s : State) (from' dst : BitVec 16) : Option Nat :=
  if from' = dst then some 0
  else if groupOf from' = groupOf dst then some 1
  else (s.portsBetween (groupOf from') (groupOf dst)).foldl (fun best e =>
    let n := (if e.1 = from' then 0 else 1) + 1 + (if e.2.2 = dst then 0 else 1)
    match best with
    | some b => some (min b n)
    | none => some n) none

/-- Flits of a frame. -/
def frameFlits (f : Frame) : Nat := 1 + f.body

/-- Flits queued for an output. -/
def Link.queued (l : Link) : Nat := (l.queue.map frameFlits).sum

/-- The lane of the deadlock lane by which a frame crosses an output (R394): sub-lane 1 within the destination's group and
on the global port, else sub-lane 0. -/
def crossLane (f : Frame) (global inside : Bool) : Nat :=
  let answer := f.lane % 2
  (if global || inside then 4 else 2) + answer

/-- A global port of the group is live, as far as this router sees: its own by the link's state, another's while the local link to that
router runs (log 57). -/
def State.portLive (s : State) (dev : BitVec 16) (port : Nat) : Bool :=
  s.linkRuns (s.linkOf (if dev = s.devnum then port else posOf dev))

/-- The router that owns the group's lowest-numbered live port towards a destination's group, and that port (R394). DESIGN CHOICE
(log 57): of ports with one number, that of the lowest position. -/
def State.deadlockPort (s : State) (dst : BitVec 16) : Option (BitVec 16 × Nat) :=
  ((s.portsBetween (groupOf s.devnum) (groupOf dst)).filter (fun e => s.portLive e.1 e.2.1)).foldl (fun best e =>
    match best with
    | some b => if e.2.1 < b.2 ∨ (e.2.1 = b.2 ∧ posOf e.1 < posOf b.1) then some (e.1, e.2.1) else best
    | none => some (e.1, e.2.1)) none

/-- The one output of a frame in the deadlock lane, with the lane it leaves by (R394). -/
def State.deadlockOutput (s : State) (f : Frame) : Option (Nat × Nat) :=
  if groupOf f.dst = groupOf s.devnum then some (posOf f.dst, crossLane f false true)
  else match s.deadlockPort f.dst with
    | some (dev, port) => if dev = s.devnum then some (port, crossLane f true false) else some (posOf dev, crossLane f false false)
    | none => none

/-- The cost of an output: its queue, twice for a non-minimal one, then minimal before non-minimal, then the port (R390). -/
structure OutCost where
  cost    : Nat
  minimal : Bool
  port    : Nat
  deriving DecidableEq, Repr

def OutCost.better (a b : OutCost) : Bool :=
  decide (a.cost < b.cost) || (a.cost == b.cost && ((a.minimal && !b.minimal) || (a.minimal == b.minimal && decide (a.port < b.port))))

/-- The outputs that R390 permits a frame of lanes 0 and 1, STOP bits apart. -/
def State.permitted (s : State) (f : Frame) : List OutCost :=
  match s.hopsTo s.devnum f.dst with
  | none => []
  | some here =>
    s.links.filterMap (fun l => match l.peer with
      | none => none
      | some p =>
        if !s.linkOpen l then none
        else match s.hopsTo p.device f.dst with
          | none => none
          | some there =>
            let minimal := decide (there + 1 = here)
            if minimal then some ⟨l.queued, true, l.num⟩
            else if f.hops < 6 then some ⟨2 * l.queued, false, l.num⟩ else none)

/-- The output that a frame takes now: its link and lane; none when no permitted one has its STOP bit clear (R389, R390). -/
def State.chooseOutput (s : State) (f : Frame) : Option (Nat × Nat) :=
  if 2 ≤ f.lane then
    match s.deadlockOutput f with
    | some (port, lane) => let l := s.linkOf port
      if s.linkOpen l && !l.stopped.getLsbD lane then some (port, lane) else none
    | none => none
  else
    ((s.permitted f).filter (fun o => !(s.linkOf o.port).stopped.getLsbD f.lane)).foldl (fun best o =>
      match best with
      | some b => if o.better b then some o else best
      | none => some o) none |>.map (fun o => (o.port, f.lane))

/-! ## Sending and replay (R385, R387, R389) -/

/-- Flits that each buffer holds beyond the skid (R389). -/
def laneRoom (lane : Nat) : Nat := if lane < 2 then 1024 else 32

/-- STOP bits that this end sends on a link: the free space of a lane's buffer is at most the skid (R389). The flits of a frame that is
still arriving fill it too. -/
def State.stopBits (s : State) (link : Nat) : BitVec 6 :=
  (List.range 6).foldl (fun acc lane =>
    let coming := match (s.linkOf link).inFrame with
      | some (f, left) => if f.lane = lane then frameFlits f - left else 0
      | none => 0
    let used := ((s.bufs.filter (fun b => b.port == link && b.lane == lane)).map (fun b => (b.frames.map frameFlits).sum)).sum
    if laneRoom lane ≤ used + coming then acc ||| (1#6 <<< lane) else acc) 0

/-- The first sixteen payload bytes of a head flit (R386). -/
def headBytes (f : Frame) : List Byte :=
  [BitVec.ofNat 8 f.lane, BitVec.ofNat 8 (f.hops % 16 + 16 * (f.body % 16))] ++ bytesOfNat 2 f.dst.toNat ++ bytesOfNat 2 f.src.toNat
    ++ bytesOfNat 2 f.op ++ bytesOfNat 2 f.core.toNat ++ bytesOfNat 2 f.seq.toNat ++ bytesOfNat 2 f.job.toNat ++ [f.gen, f.rsv]

/-- KIND (R385). -/
def FlitLoad.kind : FlitLoad → BitVec 2
  | .idle => 0
  | .head _ => 1
  | .body .. => 2
  | _ => 3

/-- The numbers that a link-control flit carries, behind a number for what it is. -/
def FlitLoad.says : FlitLoad → Nat × List Nat
  | .nak seq => (1, [seq.toNat])
  | .token gen tmo => (2, [gen, tmo])
  | .tokenLost => (3, [])
  | .marker live => (4, [live.toNat])
  | .markerAck live => (5, [live.toNat])
  | .join r => (6, [r.device.toNat, r.port, r.minor, r.tmo])
  | _ => (0, [])

/-- The 56 payload bytes of a flit (R385, R386). -/
def FlitLoad.payload : FlitLoad → List Byte
  | .head f => headBytes f ++ tabulate 40 (Config.operationByte f.payload)
  | .body f i => tabulate 56 (fun k => Config.operationByte f.payload (40 + 56 * (i - 1) + k))
  | w => tabulate 56 (Config.controlByte w.says.1 w.says.2)

/-- The control word of a flit (R385): its CRC is that of the payload and of the word's low half. -/
def controlWord (payload : List Byte) (seq ack : BitVec 12) (stop : BitVec 6) (kind : BitVec 2) : Word :=
  let low : BitVec 32 := seq ++ ack ++ stop ++ kind
  crc32c (payload ++ bytesOfNat 4 low.toNat) ++ low

/-- A flit leaves on a link, with ACK and STOP (R385); a braid deals its words over the live wavelengths, a restripe marker stands on
each of them (R382, R391). -/
def State.put (s : State) (n : Nat) (seq : BitVec 12) (load : FlitLoad) : State :=
  let l := s.linkOf n
  let waves := if n < 32 then [] else match load with
    | .marker live => wavelengths live
    | _ => l.deal
  let s' := if n < 32 then s else s.setLink { l with words := l.words + 16 }
  { s' with wires := s.wires ++ [⟨n, controlWord load.payload seq l.rxNext (s.stopBits n) load.kind, waves, load⟩] }

/-- An idle or link-control flit: its SEQ is the next number to be given (R385). -/
def State.putControl (s : State) (n : Nat) (load : FlitLoad) : State := s.put n (s.linkOf n).txNext load

/-- The flit of a frame at a place in it. A hop is counted as the frame leaves (R390). -/
def flitAt (f : Frame) (i : Nat) : FlitLoad :=
  let f := { f with hops := min 15 (f.hops + 1) }
  if i = 0 then .head f else .body f i

/-- Flits that hold a number leave. -/
def State.putFlits (s : State) (n : Nat) (es : List (BitVec 12 × Frame × Nat)) : State :=
  es.foldl (fun s e => s.put n e.1 (flitAt e.2.1 e.2.2)) s

/-- A frame's flits take the next numbers, stay in the replay buffer, and leave. -/
def State.transmit (s : State) (l : Link) (f : Frame) : State :=
  let es := tabulate (frameFlits f) (fun i => (l.txNext + BitVec.ofNat 12 i, f, i))
  (s.setLink { l with txNext := l.txNext + BitVec.ofNat 12 (frameFlits f), replay := l.replay ++ es }).putFlits l.num es

/-- Queued frames leave, in order within a lane, while the lane is not stopped, the replay buffer of 2,048 flits has room and the link
runs (R387, R389). -/
def State.drainLink (s : State) (n : Nat) : Nat → State
  | 0 => s
  | fuel + 1 =>
    let l := s.linkOf n
    match l.queue.find? (fun f => !l.stopped.getLsbD f.lane) with
    | none => s
    | some f =>
      if !s.linkRuns l || l.restriping || 2048 < l.replay.length + frameFlits f then s
      else (s.transmit { l with queue := l.queue.erase f } f).drainLink n fuel

/-- A frame joins an output's queue. -/
def State.queueFrame (s : State) (n lane : Nat) (f : Frame) : State :=
  let l := s.linkOf n
  let s := s.setLink { l with queue := l.queue ++ [{ f with lane := lane }] }
  s.drainLink n (l.queue.length + 1)

/-- The frames of a replay buffer, oldest first; of the oldest one, the first flits may be gone. -/
def replayFrames : List (BitVec 12 × Frame × Nat) → List Frame
  | [] => []
  | e :: es => e.2.1 :: (es.filter (fun d => d.2.2 == 0)).map (·.2.1)

/-- Packets of a link that went down or was taken out are sent along other outputs: they stand at the router again (R390). -/
def State.reroute (s : State) (l : Link) : State :=
  (replayFrames l.replay ++ l.queue).foldl (fun s f => s.bufferFrame endpointPort f)
    (s.setLink { l with replay := [], queue := [] })

/-- A link as a new run finds it: both directions start at SEQ 0, with every STOP bit set until the first flit (R388). -/
def Link.restart (l : Link) : Link :=
  { l with replay := [], txNext := 0, rxNext := 0, inFrame := none, stopped := 0x3F, nakAt := none, resends := 0, words := 0, rxFeeds := none }

/-- A link goes down: both ends discard their replay buffers, and it retrains (R387, R388). A dark link stays dark. -/
def State.linkDown (s : State) (n : Nat) : State :=
  let l := s.linkOf n
  let s := s.reroute l
  s.setLink { (s.linkOf n).restart with state := if l.state = .dark then .dark else .down, trained := false, retryAt := none }

/-- Flits from a number on are sent again (R387, R391). -/
def State.resendFrom (s : State) (l : Link) (seq : BitVec 12) : State :=
  s.putFlits l.num (l.replay.filter (fun e => (e.1 - seq).toNat < 2048))

/-- A braid that runs again: the record of each feed that it lost (R391). -/
def State.sayFeeds (s : State) (n : Nat) : State :=
  let l := s.linkOf n
  l.striping.foldl (fun s feed => s.event 0x07 0 (BitVec.ofNat 64 (n - 32)) (BitVec.ofNat 64 feed)) (s.setLink { l with striping := [] })

/-- A braid that drains becomes fenced when its replay buffer is empty (R354). -/
def State.setUnit (s : State) (unit : Nat) (f : FenceState) : State :=
  let code := match f with
    | .inService => 0
    | .draining => 1
    | .fenced => 2
    | .recalibrating => 3
  let rest := s.fences.filter (fun p => p.1 != unit)
  { s with fences := if f == FenceState.inService then rest else rest ++ [(unit, f)] }.event 0x0A 0 (BitVec.ofNat 64 unit) code

/-- ACK and STOP of an accepted flit (R385, R387): acknowledged flits leave the replay buffer; the answer to the newest restripe marker
ends the restripe: the sender resends from its ACK, and the records follow (R391). -/
def State.takeControl (s : State) (n : Nat) (word : Word) (realigned : Option (BitVec 4)) : State :=
  let l := s.linkOf n
  let ack := getBits word 8 12
  let keep := l.replay.filter (fun e => (e.1 - ack).toNat < 2048)
  let l' := { l with replay := keep, stopped := getBits word 2 6, resends := if keep.length < l.replay.length then 0 else l.resends }
  let s := s.setLink l'
  let s := if l.restriping && realigned == some l.feeds then (s.resendFrom l' ack).sayFeeds n else s
  let s := s.drainLink n (l.queue.length + 1)
  if 32 ≤ n && s.unitState (braidUnit n) == .draining && (s.linkOf n).replay.isEmpty && (s.linkOf n).queue.isEmpty then
    s.setUnit (braidUnit n) .fenced
  else s

/-- A flit can be read: on a braid its words were dealt as the receiver is aligned, and its CRC holds (R385, R387, R391). -/
def Link.reads (l : Link) (payload : List Byte) (a : Flit) : Bool :=
  (l.num < 32 || (a.live != 0 && l.rxFeeds.all (· == a.live))) && payload.length == 56
    && getBits a.word 32 32 == crc32c (payload ++ bytesOfNat 4 (getBits a.word 0 32).toNat)

/-- After the first discard, a NAK names the expected SEQ (R387). -/
def State.discardFlit (s : State) (n : Nat) : State :=
  let l := s.linkOf n
  match l.nakAt with
  | some _ => s
  | none => (s.setLink { l with nakAt := some s.cycle }).putControl n (.nak l.rxNext)

/-- A flit that the link reads shows how its words were dealt. -/
def State.aligned (s : State) (n : Nat) (a : Flit) : State :=
  if n < 32 then s else s.setLink { s.linkOf n with rxFeeds := some a.live }

/-- NAK: the sender resends from the named flit; with sixteen resendings and still no acceptance it takes the link down (R387). -/
def execNak (link : Nat) (seq : BitVec 12) (s : State) : Host.Outcome State Fault Refusal :=
  if !linkExists link then .fault .noUnit
  else
    let l := s.linkOf link
    if !s.linkRuns l || l.restriping || !(l.replay.any (fun e => e.1 == seq)) then .next s
    else
      let again := l.replay.head?.any (fun e => e.1 == seq)
      let l : Link := { l with replay := l.replay.filter (fun e => (e.1 - seq).toNat < 2048), resends := if again then l.resends + 1 else 1 }
      if 16 < l.resends then .next ((s.setLink l).linkDown link)
      else .next ((s.setLink l).resendFrom l seq)

/-- NAK_REPEAT: every microsecond until the expected flit arrives (R387). -/
def execNakRepeat (link : Nat) (s : State) : Host.Outcome State Fault Refusal :=
  if !linkExists link then .fault .noUnit
  else
    let l := s.linkOf link
    match l.nakAt with
    | some c =>
      .next (if s.linkRuns l ∧ c + 1500 ≤ s.cycle then (s.setLink { l with nakAt := some s.cycle }).putControl link (.nak l.rxNext) else s)
    | none => .next s

/-! ## The router (R386, R389, R390, R394) -/

/-- The OP of an operation (R386). -/
def payloadOp : Payload → Nat
  | .loadReq .. => 0
  | .loadAns .. | .lineAns .. | .loadFail .. => 1
  | .store .. => 2
  | .atomic .. => 3
  | .atomicAns .. | .atomicFail .. => 4
  | .ack .. | .ackRequest => 5
  | .resend .. => 6
  | .mldrReq .. => 7
  | .mldrAns .. | .mldrFail .. => 8
  | .graphOpen .. | .graphObject .. | .graphClose .. | .graphAbort .. | .graphAnswer .. => 9
  | .handOverReq .. | .handOverData .. | .handOverRefused .. => 10
  | .barrierReport .. => 11

/-- A frame has no reserved OP, lane or count, 0 in the reserved byte, and carries what its OP names (R386). -/
def frameSound (f : Frame) : Bool := f.op == payloadOp f.payload && f.rsv == 0 && decide (f.lane < 6) && decide (f.body ≤ 4)

/-- A packet of the deadlock lane's request class is accepted only into a reserved store of 64 packets (R394). -/
def State.endpointTakes (s : State) (f : Frame) : Bool :=
  !(f.lane == 2 || f.lane == 4) || decide ((s.inbox.filter (fun g => g.lane == 2 || g.lane == 4)).length < 64)

def State.buf? (s : State) (port lane : Nat) : Option RouterBuf := s.bufs.find? (fun b => b.port == port && b.lane == lane)

/-- The head of an input buffer leaves it; an empty buffer is not kept. -/
def State.popBuf (s : State) (port lane : Nat) : State :=
  { s with bufs := (s.bufs.map (fun b => if b.port = port ∧ b.lane = lane then { b with frames := b.frames.drop 1, stuck := none, suspect := false } else b)).filter (fun b => !b.frames.isEmpty) }

/-- The head of a buffer has found no output: since when (R392). -/
def State.stickBuf (s : State) (port lane : Nat) : State :=
  { s with bufs := s.bufs.map (fun b => if b.port = port ∧ b.lane = lane ∧ b.stuck = none then { b with stuck := some s.cycle } else b) }

/-- STOP bits that have changed are told at once (R389): an idle flit carries them. -/
def State.tellStop (s : State) (port : Nat) (before : BitVec 6) : State :=
  if port < 128 && s.linkRuns (s.linkOf port) && s.stopBits port != before then s.putControl port .idle else s

/-- The head of an input buffer goes to the endpoint or to an output; none when there is neither. -/
def State.routeHead (s : State) (port lane : Nat) : Option State :=
  match s.buf? port lane with
  | none => none
  | some b => match b.frames with
    | [] => none
    | f :: _ =>
      if f.dst = s.devnum then
        if !frameSound f then some ({ s.popBuf port lane with discards := s.discards + 1 }.tellStop port (s.stopBits port))
        else if s.endpointTakes f then some ({ s.popBuf port lane with inbox := s.inbox ++ [f] }.tellStop port (s.stopBits port))
        else none
      else match s.chooseOutput f with
        | some (out, lane') => some (((s.popBuf port lane).queueFrame out lane' f).tellStop port (s.stopBits port))
        | none => none

/-- A frame whose last flit has come stands at its input, unless it is to be discarded (R386). -/
def State.frameCame (s : State) (n : Nat) (f : Frame) : State :=
  if frameSound f then s.bufferFrame n f else { s with discards := s.discards + 1 }

/-- A packet flit in its turn: a head begins a frame, a body flit goes on with it, and the last of them ends it (R386). DESIGN CHOICE
(log 150): a body flit outside a frame holds nothing, and a head ends a frame that is not complete. -/
def State.takeFlit (s : State) (n : Nat) (kind : BitVec 2) (f : Frame) : State :=
  let l := s.linkOf n
  let l := { l with rxNext := l.rxNext + 1, nakAt := none }
  if kind = 1 then
    if f.body = 0 then (s.setLink { l with inFrame := none }).frameCame n f else s.setLink { l with inFrame := some (f, f.body) }
  else match l.inFrame with
    | some (g, 1) => (s.setLink { l with inFrame := none }).frameCame n g
    | some (g, left) => s.setLink { l with inFrame := some (g, left - 1) }
    | none => s.setLink l

/-- An arriving flit (R387): accepted when it can be read and its SEQ is the next expected, else discarded. One that takes no number
brings its ACK and STOP alone. An idle flit acknowledges an accepted one. -/
def State.acceptFlit (s : State) (n : Nat) (a : Arrival) : State :=
  let l := s.linkOf n
  let kind := getBits a.flit.word 0 2
  let payload := if kind = 1 then headBytes a.frame ++ a.flit.rest else a.flit.rest
  if !s.linkRuns l then s
  else if !l.reads payload a.flit then s.discardFlit n
  else if kind = 0 ∨ kind = 3 then (s.aligned n a.flit).takeControl n a.flit.word none
  else if getBits a.flit.word 20 12 ≠ l.rxNext then s.discardFlit n
  else (((s.aligned n a.flit).takeControl n a.flit.word none).takeFlit n kind a.frame).putControl n .idle

/-- FRAME_ROUTE of an input port and lane: a flit that arrives is accepted or not, then the head of the buffer is routed (R390). -/
def execFrameRoute (port lane : Nat) (arrival : Option Arrival) (s : State) : Host.Outcome State Fault Refusal :=
  if endpointPort < port ∨ 6 ≤ lane then .fault .noUnit
  else
    let s := match arrival with
      | some a => if port = endpointPort then s else s.acceptFlit port a
      | none => s
    .next ((s.routeHead port lane).getD (s.stickBuf port lane))

/-! ## Training and joining (R383, R384, R388) -/

/-- The I/O die's optics of a braid are there and accepted (R349, R350, R381). -/
def State.opticsOn (s : State) (n : Nat) : Bool :=
  let die := (n - 32) / 48
  n < 32 || (s.site.units.getLsbD (24 + die) && (!s.featLock || s.featAcc1.getLsbD (24 + die)))

/-- A link may be lit: its optics are accepted, and FABRIC unless that is not decided yet (R350). -/
def State.mayLight (s : State) (n : Nat) : Bool := s.opticsOn n && (!s.featLock || s.hasFabric)

/-- A join record is accepted (R383, R384). DESIGN CHOICE (log 57): a local link whose peer is of another group stays dark. -/
def State.joinOk (s : State) (n : Nat) (r : JoinData) : Bool :=
  s.devnum != 0xFFFF && r.device != 0xFFFF && r.device != s.devnum && s.mayLight n
    && (if n < 32 then groupOf r.device == groupOf s.devnum && posOf r.device == n else groupOf r.device != groupOf s.devnum)

/-- The token's TMO, or the site's own value until the first visit (R392). -/
def State.tmo (s : State) : Nat := s.tokenTmo.getD s.site.tmo

/-- This end's join record. -/
def State.joinOf (s : State) (n : Nat) : JoinData := ⟨s.devnum, if n < 32 then n else n - 32, Config.isaMinor, s.tmo⟩

/-- Ticks of 10 ms between attempts (R388). -/
def retryTicks : Nat := 1000000

/-- A link may train: it may be lit, a braid is in service and has a live feed, and the device has a number (R350, R354, R382, R384). -/
def State.mayTrain (s : State) (l : Link) : Bool :=
  s.devnum != 0xFFFF && s.mayLight l.num && (l.num < 32 || (l.feeds != 0 && s.unitState (braidUnit l.num) == .inService))

/-- An attempt may be made: the link is down, and 10 ms have passed since a failed one. -/
def State.mayRetry (s : State) (l : Link) : Bool :=
  l.state == .down && s.mayTrain l && (match l.retryAt with
    | some t => decide (t + retryTicks ≤ s.tick)
    | none => true)

/-- A link has trained: it starts anew, and this end's join record leaves (R383, R388). -/
def State.trainedLink (s : State) (n : Nat) : State :=
  (s.setLink { (s.linkOf n).restart with trained := true, retryAt := some s.tick }).putControl n (.join (s.joinOf n))

/-- The peer trains the link again: it has gone down at the other end, so it is down at both (R388). -/
def State.peerDown (s : State) (n : Nat) : State := if (s.linkOf n).state = .up then s.linkDown n else s

/-- LINK_RETRAIN_RETRY: an attempt to train a link that is down. A trained link exchanges join records; the third failure in
succession leaves it dark, with a record (R388). -/
def execLinkRetrainRetry (link : Nat) (trained : Bool) (s : State) : Host.Outcome State Fault Refusal :=
  if !linkExists link then .fault .noUnit
  else
    let s := s.peerDown link
    let l := s.linkOf link
    if !s.mayRetry l then .next s
    else if trained then .next (s.trainedLink link)
    else if l.tries + 1 < 3 then .next (s.setLink { l with tries := l.tries + 1, trained := false, retryAt := some s.tick })
    else .next ((s.setLink { l with state := .dark, tries := 0, trained := false, retryAt := none }).event 0x0E 0 (BitVec.ofNat 64 link) 3)

/-! ## Restriping (R391) -/

/-- LASER_FEED_LOST: the braid stops giving numbers and sends a marker on its surviving wavelengths; with its last feed it
goes down, and its record is written at once. The record of a feed lost while the braid does not run is written when it does. -/
def execLaserFeedLost (braid feed : Nat) (s : State) : Host.Outcome State Fault Refusal :=
  if 96 ≤ braid ∨ 4 ≤ feed then .fault .noUnit
  else
    let n := braid + 32
    let l := s.linkOf n
    if !l.feeds.getLsbD feed then .next s
    else
      let feeds := l.feeds &&& ~~~(1#4 <<< feed)
      if feeds = 0 then
        .next (((s.setLink { l with feeds := feeds }).linkDown n).event 0x07 0 (BitVec.ofNat 64 braid) (BitVec.ofNat 64 feed))
      else
        let s := s.setLink { l with feeds := feeds, words := 0, striping := l.striping ++ [feed] }
        .next (if l.state = .up then s.putControl n (.marker feeds) else s)

/-- RESTRIPE_MARKER at the receiver: it aligns to the new dealing and answers with an ACK on the reverse braid. -/
def execRestripeMarker (braid : Nat) (live : BitVec 4) (s : State) : Host.Outcome State Fault Refusal :=
  if 96 ≤ braid then .fault .noUnit
  else
    let l := s.linkOf (braid + 32)
    .next (if s.linkRuns l ∧ live ≠ 0 then (s.setLink { l with rxFeeds := some live }).putControl (braid + 32) (.markerAck live) else s)

/-! ## Deadlock recovery (R392 to R394) -/

/-- Core cycles of the time-out. -/
def State.tmoCycles (s : State) : Nat := s.tmo * 1500

/-- The suspects, oldest first, at most 64 (R393). -/
def State.suspects (s : State) : List RouterBuf :=
  ((s.bufs.filter (·.suspect)).mergeSort (fun a b => decide (a.stuck.getD 0 ≤ b.stuck.getD 0))).take 64

/-- A suspect packet moves into the deadlock lane of its input (R393, R394). -/
def State.moveSuspect (s : State) (b : RouterBuf) : State :=
  match b.frames with
  | [] => s
  | f :: _ =>
    let lane := crossLane f false (groupOf f.dst == groupOf s.devnum)
    ((s.popBuf b.port b.lane).bufferFrame b.port { f with lane := lane }).tellStop b.port (s.stopBits b.port)

/-- Live positions of the group: this device's and those of its local links that are up. -/
def State.livePositions (s : State) : List Nat :=
  (List.range 32).filter (fun p => p == posOf s.devnum || s.linkRuns (s.linkOf p))

/-- The next live position after this one, wrapping; none when this device is alone. -/
def State.nextPosition (s : State) : Option Nat :=
  let me := posOf s.devnum
  let others := s.livePositions.filter (· != me)
  match others.find? (fun p => decide (me < p)) with
  | some p => some p
  | none => others.head?

/-- The token at this router: its suspects move, and it goes on to the next live position (R393). -/
def State.holdToken (s : State) (gen tmo : Nat) : State :=
  let s := { s with tokenGen := gen, tokenTmo := some tmo, tokenAt := s.cycle }
  let s := s.suspects.foldl State.moveSuspect s
  match s.nextPosition with
  | some p => { s with token := false }.putControl p (.token gen tmo)
  | none => { s with token := true }

/-- A token that this router holds, for want of another live position, serves it again (R393). -/
def State.tokenOn (s : State) : State := if s.token then s.holdToken s.tokenGen s.tmo else s

/-- DEADLOCK_SUSPECT: the head of an input on lane 0 or 1 has found no output for TMO (R392); a router that holds
the token moves it at once (R393). -/
def execDeadlockSuspect (port lane : Nat) (s : State) : Host.Outcome State Fault Refusal :=
  if endpointPort < port ∨ 2 ≤ lane then .fault .noUnit
  else .next (State.tokenOn { s with bufs := s.bufs.map (fun b =>
      if b.port = port ∧ b.lane = lane ∧ b.stuck.any (fun c => decide (c + s.tmoCycles ≤ s.cycle)) then { b with suspect := true } else b) })

/-- The link comes up with its peer: a braid's due records are written, an idle flit tells the peer what it may send (R388, R391), and a
token held here goes on to a new neighbour (R393). -/
def State.linkUp (s : State) (n : Nat) (r : JoinData) : State :=
  (((s.setLink { s.linkOf n with state := .up, peer := some r, tries := 0, trained := false, retryAt := none }).sayFeeds n).putControl n .idle).tokenOn

/-- JOIN_RECORD: a record comes on lanes that have trained. On a link that is up, the peer has gone down and joins anew (R388); an end that
has not sent its own record sends it; then the link comes up or stays dark (R383, R384). -/
def execJoinRecord (link : Nat) (rec' : JoinData) (s : State) : Host.Outcome State Fault Refusal :=
  if !linkExists link then .fault .noUnit
  else
    let s := s.peerDown link
    let l := s.linkOf link
    if l.state ≠ .down ∨ !s.mayTrain l then .next s
    else
      let s := if l.trained then s else s.trainedLink link
      if s.joinOk link rec' then .next (s.linkUp link rec')
      else .next (s.setLink { s.linkOf link with state := .dark, peer := none, trained := false, retryAt := none })

/-- RECOVERY_TOKEN: a token whose generation is older than the newest seen is discarded (R393). -/
def execRecoveryToken (gen tmo : Nat) (s : State) : Host.Outcome State Fault Refusal :=
  if gen < s.tokenGen ∨ s.hasFabric = false then .next s else .next (s.holdToken gen tmo)

/-- The token has not been seen for 32 × (TMO + 10 μs). -/
def State.tokenLate (s : State) : Bool := !s.token && decide (s.tokenAt + 32 * (s.tmo + 10) * 1500 ≤ s.cycle)

/-- The group's lowest live position, as this router sees it. -/
def State.lowestLive (s : State) : Nat := s.livePositions.headD (posOf s.devnum)

/-- TOKEN_REISSUE: a router that has not seen the token in time reports to the group's lowest live position; that position itself issues
a new token (R393). -/
def execTokenReissue (s : State) : Host.Outcome State Fault Refusal :=
  if !s.hasFabric || s.devnum == 0xFFFF || !s.tokenLate then .next s
  else if s.lowestLive = posOf s.devnum then .next (s.holdToken (s.tokenGen + 1) s.tmo)
  else .next ({ s with tokenAt := s.cycle }.putControl s.lowestLive .tokenLost)

/-- A report of a lost token reaches the group's lowest live position, which issues a new one (R393). -/
def State.tokenReported (s : State) : State :=
  if s.hasFabric && s.devnum != 0xFFFF && s.lowestLive = posOf s.devnum then s.holdToken (s.tokenGen + 1) s.tmo else s

/-- IDLE_FLIT: an idle or control flit brings its ACK and STOP (R385), and what it reports. It takes no number, so its CRC alone is tested
(log 150). -/
def execIdleFlit (link : Nat) (ctl : FlitControl) (s : State) : Host.Outcome State Fault Refusal :=
  if !linkExists link then .fault .noUnit
  else
    let l := s.linkOf link
    if !s.linkRuns l then .next s
    else if !l.reads ctl.flit.rest ctl.flit then .next (s.discardFlit link)
    else
      let s := (s.aligned link ctl.flit).takeControl link ctl.flit.word ctl.realigned
      .next (if ctl.tokenLost then s.tokenReported else s)

end Sys2Proof.Machine
end

