-- ==== Sys2Proof/Machine/Scheduler.lean ====
section
/-! DEFINITION. The scheduler's steps (R31 to R35, R65, R73, R74, R82, R83, R135). -/

namespace Sys2Proof.Machine

/-! ## The head of the order (R74, R82) -/

/-- Since when the gang at the head has stood there. -/
def State.noteHead (s : State) : State :=
  match s.order.head?, s.headGang with
  | some c, some (t, i, _) => if c.task = t ∧ c.index = i then s else { s with headGang := some (c.task, c.index, s.tick) }
  | some c, none => { s with headGang := some (c.task, c.index, s.tick) }
  | none, _ => { s with headGang := none }

/-- The head, when it has stood there for `n` ticks and fits nowhere. -/
def State.headWaited (s : State) (n : Nat) : Option Cand :=
  match s.order.head?, s.headGang with
  | some c, some (t, i, since) =>
    if c.task = t ∧ c.index = i ∧ since + n ≤ s.tick ∧ (s.tryPlace c).isNone then some c else none
  | _, _ => none

/-! ## Placing (R34, R74, R82) -/

/-- A match whose gang fits its cluster, or whose cluster no gang is still leaving. -/
def State.matchRipe (s : State) (m : Nat × Option Nat × Nat) : Bool :=
  !s.gangs.any (fun g => g.cluster == some m.2.2 && g.parking.isSome) || (match s.task? m.1 with
    | some k => s.fits k m.2.2 [] []
    | none => true)

/-- A matched gang is placed on its cluster; none where the match no longer holds. DESIGN CHOICE (log 137): a reservation for another
gang does not end a match (R74). -/
def State.placeMatch (s : State) (m : Nat × Option Nat × Nat) : Option State :=
  match s.task? m.1 with
  | none => none
  | some k =>
    let index := m.2.1.getD k.formed
    if s.heldAsid k.asid || !s.fits k m.2.2 [] [] || !(s.unplaced k).contains index || !s.canPlace k index then none
    else some (s.place k index m.2.2)

/-- Every match of a list is placed, or none. -/
def State.placeAll (s : State) (ms : List (Nat × Option Nat × Nat)) : Option State :=
  ms.foldl (fun acc m => acc.bind (fun s => s.placeMatch m)) (some s)

/-- The matches of a list place every unplaced gang of a co-resident task (R76). -/
def State.placesWhole (s : State) (ms : List (Nat × Option Nat × Nat)) : Bool := ms.all (fun m => match s.task? m.1 with
  | some k => !k.cores || ms.length == (s.unplaced k).length
  | none => false)

/-- The first matched gangs that are ripe are placed, or their match is dropped; those of a co-resident task go together or not at
all (R76, R82). -/
def State.placeMatched (s : State) : Option State :=
  let group (m : Nat × Option Nat × Nat) : List (Nat × Option Nat × Nat) :=
    match s.task? m.1 with
    | some k => if k.cores then s.matched.filter (fun x => x.1 == m.1) else [m]
    | none => [m]
  match s.matched.find? (fun m => (group m).all s.matchRipe) with
  | none => none
  | some m =>
    let ms := group m
    let s := { s with matched := s.matched.filter (fun x => !ms.contains x) }
    some (if s.placesWhole ms then (s.placeAll ms).getD s else s)

/-- A gang behind the head takes no cluster where the head fits (R74). -/
def State.tryBehind (s : State) (head : Task) (c : Cand) : Option State :=
  s.tryPlaceBy (fun s k i => s.clusterOrder.find? (fun cl => s.takes k i cl && !s.fits head cl [] (s.comingTo cl))) c

/-- The next placement: a matched gang, the head, or one behind it. -/
def State.placeNext (s : State) : Option State :=
  match s.placeMatched with
  | some s => some s
  | none => match s.order with
    | [] => none
    | h :: rest => match s.tryPlace h with
      | some s => some s
      | none => match s.task? h.task with
        | none => none
        | some hk => rest.findSome? (s.tryBehind hk)

/-! ## Aging and reservation (R73, R74) -/

/-- A ready unplaced gang's effective priority rises, whether or not it may be placed now; one not yet formed stands for all of its
task. -/
def State.ageGang (s : State) (task index : Nat) : Option State :=
  match s.gang? task index, s.task? task with
  | some g, some _ =>
    if g.cluster.isNone && g.ready && decide (g.prio < 7 ∧ g.ageFrom + 5000 ≤ s.tick) then
      some (s.setGang { g with prio := g.prio + 1, ageFrom := g.ageFrom + 5000 })
    else none
  | none, some k =>
    if k.ready && decide (k.formed < k.gangs ∧ k.prioEff < 7 ∧ k.ageFrom + 5000 ≤ s.tick) then
      some (s.setTask { k with prioEff := k.prioEff + 1, ageFrom := k.ageFrom + 5000 })
    else none
  | _, none => none

/-- Rises of a priority that are due since a tick, and that tick after them (R73). -/
def State.risen (s : State) (prio since : Nat) : Nat × Nat :=
  let n := min (7 - prio) ((s.tick - since) / 5000)
  (prio + n, since + 5000 * n)

/-- Every rise that is due. -/
def State.ageAll (s : State) : State :=
  { s with
    gangs := s.gangs.map (fun g => if g.cluster.isNone && g.ready then
      (let r := s.risen g.prio g.ageFrom; { g with prio := r.1, ageFrom := r.2 }) else g)
    tasks := s.tasks.map (fun k => if k.ready && decide (k.formed < k.gangs) then
      (let r := s.risen k.prioEff k.ageFrom; { k with prioEff := r.1, ageFrom := r.2 }) else k) }

/-- What the scheduler sees when it looks at the order: gangs that have become ready, priorities, and the head. -/
def State.looked (s : State) : State := s.refreshReady.ageAll.noteHead

/-- Free issue slots of a cluster's eight cores. -/
def State.freeSlots (s : State) (cluster : Nat) : Nat :=
  128 - (s.threads.filter (fun t => t.slot.isSome && (s.coreOf t).map (· / 8) == some cluster)).length

/-- The cluster with the most free slots, the lowest-numbered on a tie. -/
def State.roomiest (s : State) : Option Nat :=
  ((List.range Config.clusters).filter (fun c => !s.clusterShut c)).foldl (fun best c => match best with
    | none => some c
    | some b => if s.freeSlots b < s.freeSlots c then some c else some b) none

/-- A cluster is reserved for the head gang. DESIGN CHOICE (log 137): one matched to a parking may be reserved, and a cluster that takes
no placement is not. -/
def State.reserve (s : State) : Option State :=
  if s.reserved.isSome then none
  else match s.headWaited 20000, s.roomiest with
    | some c, some cl => some { s with reserved := some (cl, c.task, c.index) }
    | _, _ => none

/-! ## Pre-emption (R82) -/

/-- A placed gang may be a victim of a head of priority `p`. -/
def State.mayBeVictim (s : State) (p : Nat) (gk : Gang × Task) : Bool :=
  gk.1.parking.isNone && decide (gk.2.prio < p) && !(s.leaveWith (gk.1.task, gk.1.index)).any (fun key => match s.gang? key.1 key.2 with
    | some g => g.imageLost && s.imageAbsent gk.2 g.index
    | none => false)

def victimBefore (a b : Gang × Task) : Bool := decide (a.2.prio < b.2.prio ∨ (a.2.prio = b.2.prio ∧ b.1.placedAt < a.1.placedAt))
def insertVictim (v : Gang × Task) : List (Gang × Task) → List (Gang × Task)
  | [] => [v]
  | w :: ws => if victimBefore v w then v :: w :: ws else w :: insertVictim v ws

/-- Victims taken one after another until the gang fits. -/
def State.takeVictims (s : State) (k : Task) (cluster : Nat) : List (Gang × Task) → List (Nat × Nat) → List (Nat × Nat) → Option (List (Nat × Nat))
  | vs, leaving, taken =>
    if s.fits k cluster leaving (s.comingTo cluster) then some taken
    else match vs with
      | [] => none
      | v :: vs =>
        let more := s.leaveWith (v.1.task, v.1.index)
        s.takeVictims k cluster vs (leaving ++ more) (taken ++ more)

/-- The victims that make a gang fit a cluster; gangs already being parked there leave anyway. -/
def State.victims (s : State) (k : Task) (p cluster : Nat) : Option (List (Nat × Nat)) :=
  let here := s.placedOn cluster []
  let vs := (here.filter (s.mayBeVictim p)).foldr insertVictim []
  s.takeVictims k cluster vs ((here.filter (fun g => g.1.parking.isSome)).map (fun g => (g.1.task, g.1.index))) []

/-- One cluster for each gang, the lowest-numbered that parking makes fit and that no earlier gang has taken. -/
def State.preemptPlan (s : State) (k : Task) : List Nat → List Nat → Option (List (Nat × Nat × List (Nat × Nat)))
  | [], _ => some []
  | i :: is, taken =>
    match (List.range Config.clusters).findSome? (fun c =>
      if taken.contains c || s.keptCluster c k.num i then none else (s.victims k k.prio c).map (fun v => (c, v))) with
    | none => none
    | some (c, v) => (s.preemptPlan k is (c :: taken)).map (fun r => (i, c, v) :: r)

/-- Pre-emption for the head gang: its victims begin to be parked, and it is matched to their clusters. -/
def State.preempt (s : State) : Option State :=
  match s.headWaited 2000 with
  | none => none
  | some c => match s.task? c.task with
    | none => none
    | some k => match s.preemptPlan k (if k.cores then s.unplaced k else [c.index]) [] with
      | none => none
      | some plan =>
        let victims := (plan.flatMap (fun x => x.2.2)).eraseDups
        if victims.isEmpty && !plan.all (fun x => s.gangs.any (fun g => g.cluster == some x.2.1 && g.parking.isSome)) then none
        else
          let s := victims.foldl (fun s key => s.beginPark 1 key) s
          some { s with matched := s.matched ++ plan.map (fun x => (k.num, if (s.gang? k.num x.1).isSome then some x.1 else none, x.2.1)) }

/-! ## Parking of idle gangs (R34) -/

/-- Every thread that has not retired has been blocked or halted for 10,000 ticks without a break. -/
def State.idleGang (s : State) (g : Gang) : Bool :=
  let ts := (s.mates g.task g.index).filter (fun t => t.run != .retired)
  !ts.isEmpty && ts.all (fun t => (t.run == .halted || (t.waitsHere && t.isBlocked))
    && decide (t.since + 10000 * Config.cyclesPerTick ≤ s.cycle))

/-- Since when a gang has been idle. -/
def State.idleSince (s : State) (g : Gang) : Nat :=
  ((s.mates g.task g.index).filter (fun t => t.run != .retired)).foldl (fun m t => max m t.since) 0

def State.idleBefore (s : State) (a b : Gang) : Bool :=
  let ca := a.cluster.getD 0
  let cb := b.cluster.getD 0
  decide (ca < cb ∨ (ca = cb ∧ s.idleSince a < s.idleSince b))
def State.insertIdle (s : State) (g : Gang) : List Gang → List Gang
  | [] => [g]
  | h :: hs => if s.idleBefore g h then g :: h :: hs else h :: s.insertIdle g hs

/-- The idle gangs that R34 may park, in its order. -/
def State.idleGangs (s : State) : List Gang :=
  (s.gangs.filter (fun g => g.cluster.isSome && g.parking.isNone && s.idleGang g && (match s.task? g.task with
    | some k => !k.cores && !(g.imageLost && s.imageAbsent k g.index)
    | none => false))).foldr s.insertIdle []

/-- The gangs that are leaving a cluster. -/
def State.leavingOf (s : State) (cluster : Nat) : List (Nat × Nat) :=
  (s.gangs.filter (fun g => g.cluster == some cluster && g.parking.isSome)).map (fun g => (g.task, g.index))

/-- An idle gang is parked for the first ready gang that then fits its cluster, beside those that are matched to it already. A gang of a co-resident task of several is
placed only with its mates, and is matched to no such parking. -/
def State.parkIdle (s : State) : Option State :=
  let cands := s.order.filter (fun c => match s.task? c.task with
    | some k => !k.cores || k.gangs == 1
    | none => false)
  s.idleGangs.findSome? (fun g =>
    let cl := g.cluster.getD 0
    (cands.find? (fun c => match s.task? c.task with
      | some k => !s.keptCluster cl k.num c.index && s.fits k cl ((g.task, g.index) :: s.leavingOf cl) (s.comingTo cl)
      | none => false)).map (fun c =>
        let s := s.beginPark 0 (g.task, g.index)
        { s with matched := s.matched ++ [(c.task, if c.formed then some c.index else none, cl)] }))

/-! ## Slots (R32, R33) -/

/-- A resident thread's `wait` may exit: it is ready again. One that stalls is not ready yet. -/
def State.wakeWaits (s : State) : State :=
  { s with threads := s.threads.map (fun t =>
      if t.run == .resident && t.block == .wait && s.waitWakes t then { t with block := .none, saved := List.replicate 4 0, readyAt := s.cycle }
      else if t.run == .resident && s.isStalled t then { t with readyAt := s.cycle }
      else t) }

/-- The ready resident threads of a core, and the one that became ready first. -/
def State.waiting (s : State) (core : Nat) : Option Thread :=
  earliest (·.readyAt) (s.threads.filter (fun t => s.readyResident t && s.coreOf t == some core && (match s.gangOf t with
    | some g => g.parking.isNone
    | none => false)))

/-- A ready resident thread takes a free slot, or one that R32 makes free. -/
def State.promoteOn (s : State) (core : Nat) : State :=
  match s.waiting core with
  | none => s
  | some t => match s.makeSlot core none with
    | some (s, n) => s.seatAt t.id n
    | none => s

/-- Every core that has a ready resident thread looks for a slot. -/
def State.promote (s : State) : State :=
  ((s.threads.filterMap (fun t => if s.readyResident t then s.coreOf t else none)).eraseDups).foldl State.promoteOn s

/-- A ready resident thread that has waited 4,096 cycles takes the slot of the ready thread that has held one longest. -/
def State.slice (s : State) (core : Nat) : Option State :=
  match s.waiting core with
  | none => none
  | some t =>
    if t.readyAt + 4096 ≤ s.cycle ∧ (s.makeSlot core none).isNone then
      match earliest (·.seatedAt) ((s.activeOn core).filter (fun u => !u.isBlocked && !s.isStalled u)) with
      | none => none
      | some u =>
        let s := s.demote u.id
        (s.freeSlot core).map (fun n => s.seatAt t.id n)
    else none

/-! ## Time-outs of `wait` (R135) -/

/-- The deadline of a thread's `wait` has passed. -/
def State.waitExpired (s : State) (t : Thread) : Bool :=
  t.block == .wait && (match t.deadline with
    | some d => decide (d ≤ s.tick)
    | none => false)

/-- An expired `wait` exits where its thread is active; a resident thread becomes ready, and a parked gang becomes ready. -/
def State.expireWait (s : State) (id : ThreadId) : State :=
  match s.thread? id with
  | none => s
  | some t =>
    if !s.waitExpired t then s
    else if t.run == .resident then s.setThread { t with block := .none, saved := List.replicate 4 0, readyAt := s.cycle }
    else if t.run == .parked then s.refreshReady
    else if !s.mayIssue t then s
    else match decodeWord t.blockWord with
      | .ok (.wait all count d a b) => issueThread (.wait all count d a b) (bodyWait all count d a b) s t
      | _ => s

/-- What the scheduler keeps up to date by itself: readiness, the head of the order, and issue slots. -/
def State.upkeep (s : State) : Option State :=
  let s' := s.looked.wakeWaits.promote
  if s'.gangs = s.gangs ∧ s'.headGang = s.headGang ∧ s'.threads = s.threads ∧ s'.tasks = s.tasks then none else some s'

/-! ## Steps -/

/-- The head ready gang, or one matched to a parking, or one behind the head, is placed on a fitting cluster (R74) -/
def execGangPlace (s : State) : Host.Outcome State Fault Refusal :=
  let s := s.looked
  .next ((s.placeNext).getD s)

/-- After 4,096 cycles of waiting the longest-held ready thread of a core is demoted (R33) -/
def execTimeSlice (core : Nat) (s : State) : Host.Outcome State Fault Refusal :=
  if Config.cores ≤ core then .fault .noUnit else .next ((s.slice core).getD s)

/-- Each 5,000 ticks ready and unplaced raise a gang's effective priority by one (R73) -/
def execPriorityAging (task gang : Nat) (s : State) : Host.Outcome State Fault Refusal := .next ((s.ageGang task gang).getD s)

/-- After 20,000 ticks without a fit a cluster is reserved for the head gang (R74) -/
def execClusterReservation (s : State) : Host.Outcome State Fault Refusal :=
  let s := s.looked
  .next (s.reserve.getD s)

/-- After 2,000 ticks at the head, gangs of lower priority are parked for it (R82) -/
def execPreemption (s : State) : Host.Outcome State Fault Refusal :=
  let s := s.looked
  .next (s.preempt.getD s)

/-- A gang blocked or halted for 100 μs is parked for a matched ready gang (R34) -/
def execIdleGangPark (s : State) : Host.Outcome State Fault Refusal :=
  let s := s.looked
  .next (s.parkIdle.getD s)

/-- A parking finishes once what runs has completed (R82) -/
def execGangParkComplete (task gang : Nat) (s : State) : Host.Outcome State Fault Refusal :=
  .next (match s.gang? task gang with
    | some g => (s.endPark g).getD s
    | none => s)

/-- A `wait`'s deadline expires (R135) -/
def execWaitTimeout (t : ThreadId) (s : State) : Host.Outcome State Fault Refusal := .next (s.expireWait t)

/-- Writing PARK parks every placed gang of the port's ASID (R65) -/
def execSpctlPark (port : Nat) (s : State) : Host.Outcome State Fault Refusal :=
  if 64 ≤ port then .fault .noUnit
  else
    let asid := (s.port port).asid
    .next (s.parkAll (fun g => match s.task? g.task with
      | some k => k.asid == asid
      | none => false))

end Sys2Proof.Machine
end

