-- ==== Sys2Proof/Machine/Service.lean ====
section
/-! DEFINITION. The host and the management complex (R346 to R358): start, features, fences, firmware, snapshots, scrubbing,
the host's accesses to device memory (R202), BAR0 registers (R6), and PCI Express completions (R201, R373). -/

namespace Sys2Proof.Machine

/-! ## Fences (R354) -/

/-- Units 0 to 7 dies, 8 to 23 stacks, 24 to 119 braids. -/
def isDie (unit : Nat) : Bool := decide (unit < 8)
def isStack (unit : Nat) : Bool := decide (8 ≤ unit ∧ unit < 24)
def isBraid (unit : Nat) : Bool := decide (24 ≤ unit ∧ unit < 120)

/-- The link of a braid's unit. -/
def unitLink (unit : Nat) : Nat := unit - 24 + 32

/-- A gang stands on a die. -/
def Gang.onDie (g : Gang) (die : Nat) : Bool := g.cluster.any (fun c => c / 32 == die)

/-- A draining unit is empty: no gang remains on the die, or nothing in the braid's replay buffer. -/
def State.unitEmpty (s : State) (unit : Nat) : Bool :=
  if isDie unit then s.gangs.all (fun g => !g.onDie unit)
  else if isBraid unit then (s.linkOf (unitLink unit)).replay.isEmpty && (s.linkOf (unitLink unit)).queue.isEmpty
  else false

/-- A braid is taken out: its packets go along other outputs, and its link is down. -/
def State.takeOut (s : State) (unit : Nat) : State := if isBraid unit then s.linkDown (unitLink unit) else s

/-- The L2 slices of a die write back their dirty lines and drop every line (R354): those whose home lies there (R61). -/
def State.flushDie (s : State) (die : Nat) : State :=
  let leaves (d : VaCopy) : Bool := match s.walk d.asid (d.va * 32) with
    | .leaf _ _ leaf _ => (match s.homeCore d.asid (d.va * 32) leaf with
      | some c => c / 256 == die
      | none => true)
    | _ => true
  { s with copies := { s.copies with lines := s.copies.lines.map (fun e =>
      let u := e.settle s.cycle
      (u.copies.filter leaves).foldl HeldSector.leave u) } }

/-- A unit that drains and is empty becomes fenced. -/
def State.endDrain (s : State) (unit : Nat) : State :=
  if s.unitState unit = .draining ∧ s.unitEmpty unit then
    (if isDie unit then s.flushDie unit else s.takeOut unit).setUnit unit .fenced
  else s

/-- The writes of FENCECTL are served: LIVESVC is accepted and the unit exists. -/
def State.fenceServed (s : State) (unit : Nat) : Bool := s.feature 5 && decide (unit < 120)

/-- FENCECTL, action fence. A die's placed gangs are parked first, in the state draining (log 58); a stack or a braid is
fenced at once. A unit that is draining accepts it, any other action in progress ignores it. -/
def execFencectlFence (unit : Nat) (s : State) : Host.Outcome State Fault Refusal :=
  if !s.fenceServed unit then .next s
  else
    let s := { s with fenceSel := unit }
    match s.unitState unit with
    | .fenced | .recalibrating => .next s
    | st =>
      if isDie unit then
        let s := if st = .draining then s else s.setUnit unit .draining
        .next ((s.parkAll (fun g => g.onDie unit)).endDrain unit)
      else .next ((s.takeOut unit).setUnit unit .fenced)

/-- FENCECTL, action drain: nothing new is placed there, or sent there. -/
def execFencectlDrain (unit : Nat) (s : State) : Host.Outcome State Fault Refusal :=
  if !s.fenceServed unit then .next s
  else
    let s := { s with fenceSel := unit }
    match s.unitState unit with
    | .inService => .next (s.setUnit unit .draining)
    | _ => .next s

/-- FENCECTL, action return: recalibration or retraining begins. A braid in service returns too, for its feeds (R391) or
when it is dark (R388). -/
def execFencectlReturn (unit : Nat) (s : State) : Host.Outcome State Fault Refusal :=
  if !s.fenceServed unit then .next s
  else
    let s := { s with fenceSel := unit }
    match s.unitState unit with
    | .fenced => .next (s.setUnit unit .recalibrating)
    | .inService => if isBraid unit then .next ((s.takeOut unit).setUnit unit .recalibrating) else .next s
    | _ => .next s

/-- DRAIN_COMPLETE. -/
def execDrainComplete (unit : Nat) (s : State) : Host.Outcome State Fault Refusal := .next (s.endDrain unit)

/-- A stack rejoins with its contents unknown: its bytes are free values from now on (log 13). -/
def State.forgetStack (s : State) (stack : Nat) : State :=
  let mem : Memory := { cells := s.mem.cells.filter (fun c => stackOf c.1 != stack)
                        unknown := s.mem.unknown.filter (fun p => p.1 != stack) ++ [(stack, s.fresh)] }
  { s with mem := mem, fresh := s.fresh + 1, badLines := s.badLines.filter (fun l => stackOf (l * 256) != stack) }

/-- A braid rejoins with every feed: it trains again (R388), unless its links must stay dark (R350, R384). -/
def State.relight (s : State) (unit : Nat) : State :=
  s.setLink { s.linkOf (unitLink unit) with
    state := if s.mayLight (unitLink unit) ∧ s.devnum ≠ 0xFFFF then .down else .dark, feeds := 15, tries := 0, retryAt := none }

/-- RECALIBRATION_COMPLETE: the unit is in service again. -/
def execRecalibrationComplete (unit : Nat) (s : State) : Host.Outcome State Fault Refusal :=
  match s.unitState unit with
  | .recalibrating =>
    let s := if isStack unit then s.forgetStack (unit - 8) else if isBraid unit then s.relight unit else s
    .next (s.setUnit unit .inService)
  | _ => .next s

/-! ## Start and features (R349, R350) -/

/-- FEATOFF1 offers no more than the units of the device: dies, stacks, optics (R350). -/
def offered1 : Word := 0x3FFFFFF

/-- A change of BOOTSTAT, with its record (R349); records need EVCTL.EN. -/
def Boot.word (b : Boot) : Word := 0#48 ++ b.code ++ b.status ++ b.stage ++ b.step
def State.bootStep (s : State) (b : Boot) : State :=
  let s := { s with boot := b }
  if s.events.en then s.event 0x0B 0 b.word 0 else s

/-- Stage one runs the first image that verifies and whose version is at or above the floor (R351). -/
def Firmware.bootSlot (f : Firmware) : Option Bool :=
  let good (img : List Byte) : Bool := Config.imageVerifies img && decide (f.floor ≤ Config.imageVersion img)
  if good f.slotA then some false else if good f.slotB then some true else none

/-- Every link that may train does so (R383): FABRIC is not yet decided, a device without a number stays alone (R384). -/
def State.trainLinks (s : State) : State :=
  if s.devnum = 0xFFFF then s
  else (List.range 128).foldl (fun s n => if s.opticsOn n && n != posOf s.devnum then s.setLink { Link.reset n with state := .down } else s) s

/-- Units are left out of a step when one of those it trains does not come up (R349). -/
def stepStatus (units : Word) (mask : Word) : BitVec 2 := if units &&& mask = mask then 1 else 2

/-- What a step of stage two does (R349): 1 HBM training, 2 die calibration, 3 optics lighting, 4 fabric join, 5 feature offer; and
how BOOTSTAT stands after it. DESIGN CHOICE (log 140): a link that does not retrain at step 5 gives CODE 2 with STATUS 2. -/
def State.runStep (s : State) (step : BitVec 4) : State :=
  let u := s.site.units
  let done (s : State) (mask : Word) : State := s.bootStep ⟨0, stepStatus u mask, 2, step⟩
  match step with
  | 1 => done s 0xFFFF00
  | 2 => done s 0xFF
  | 3 => done s 0x3000000
  | 4 => done (State.trainLinks { s with devnum := s.site.devnum }) 0
  | _ =>
    let s := { s with featOff0 := s.site.offer &&& 0x7F, featOff1 := u &&& offered1 }
    if s.site.linkOk then done s 0 else s.bootStep ⟨2, 2, 2, step⟩

/-- The next change of BOOTSTAT in stage two: a step that runs is done, or the one after it begins. -/
def State.stageTwo (s : State) : Option State :=
  let b := s.boot
  if b.stage ≠ 2 then none
  else if b.status = 0 then some (s.runStep b.step)
  else if b.step < 5 then some (s.bootStep ⟨0, 0, 2, b.step + 1⟩)
  else none

/-- Stage one: without a valid image (CODE 1) or above its temperature (CODE 3) the part stays in it, else stage two begins (R349,
R351). -/
def State.stageOne (s : State) : State :=
  let s := { s with cycle := 0, marks := [], marksAt := 0 }
  if !s.site.coolOk then s.bootStep ⟨3, 3, 1, 0⟩
  else match s.fw.bootSlot with
    | none => s.bootStep ⟨1, 3, 1, 0⟩
    | some b =>
      let img := if b then s.fw.slotB else s.fw.slotA
      State.bootStep { s with fw := { s.fw with slot := b, runver := Config.imageVersion img } } ⟨0, 0, 2, 1⟩

/-- The staged image: the window's first LEN bytes, by the LEN that came with ACT (R353). -/
def Firmware.staged (f : Firmware) : List Byte := cellsRead (fun _ => 0) f.window 0 f.taken.toNat

/-- The image that is being activated goes into the inactive slot. -/
def Firmware.withSlot (f : Firmware) (img : List Byte) : Firmware :=
  { f with slotA := if f.slot then img else f.slotA, slotB := if f.slot then f.slotB else img }

/-- Power was lost and has come back: what is left is what the board and the fuses hold, the image slots, and memory of unknown
content. A loss during a swap leaves the inactive slot as it was or as written whole (R353), a free value (log 141). -/
def State.powerCut (s : State) : State :=
  let f := s.fw
  let f' := if f.state = .swapping ∧ Config.slotWritten s.fresh then
      f.withSlot f.staged else f
  { State.reset with
    agenda := s.agenda, fresh := s.fresh + 1, stamp := s.stamp, site := s.site, badLines := s.badLines, softLines := s.softLines
    mem := { cells := [], unknown := tabulate 16 (fun k => (k, s.fresh)) }
    fw := { Firmware.reset with slotA := f'.slotA, slotB := f'.slotB, floor := f.floor }
    wires := s.wires, pcie := s.pcie }

/-- POWER_GOOD: the start; on a part that has started, power was lost before it (R349, R351). -/
def execPowerGood (s : State) : Host.Outcome State Fault Refusal :=
  .next (if s.boot = ⟨0, 0, 1, 0⟩ then s else s.powerCut).stageOne

/-- FEATLOCK: each accepted word becomes the written value AND the offered one, until reset; an unaccepted die or stack is
fenced, and the fibres of unaccepted optics, or every link without FABRIC, stay dark (R350). -/
def execFeatlock (s : State) : Host.Outcome State Fault Refusal :=
  if s.featLock then .next s
  else
    let s := { s with featAcc0 := s.featAcc0 &&& s.featOff0, featAcc1 := s.featAcc1 &&& s.featOff1, featLock := true }
    let s := (List.range 24).foldl (fun s unit => if s.featAcc1.getLsbD unit then s else s.setUnit unit .fenced) s
    .next { s with links := s.links.map (fun l => if s.mayLight l.num then l else { l with state := .dark, peer := none }) }

/-! ## Firmware (R351 to R353) -/

def Firmware.busy (f : Firmware) : Bool := f.state == .verifying || f.state == .swapping

/-- FWCTL.OPEN: the window opens, cleared; while busy the write sets RESULT 5. -/
def execFwctlOpen (s : State) : Host.Outcome State Fault Refusal :=
  if s.fw.busy then .next { s with fw := { s.fw with result := 5 } }
  else .next { s with fw := { s.fw with state := .windowOpen, window := [] } }

/-- The record of an update: the slot written, and RESULT. -/
def State.endUpdate (s : State) (result : BitVec 8) : State :=
  let written : Word := if s.fw.slot then 0 else 1
  let s := { s with fw := { s.fw with state := .idle, result := result } }
  s.event 0x0D 0 written (result.setWidth 64)

/-- FWCTL.ACT, with LEN and COMMIT as written: the window closes and its image is to be verified. -/
def execFwctlAct (len : BitVec 32) (commit : Bool) (s : State) : Host.Outcome State Fault Refusal :=
  if s.fw.busy then .next { s with fw := { s.fw with result := 5 } }
  else
    let s := { s with fw := { s.fw with len := len, taken := len, commit := commit } }
    if len = 0 ∨ 2 ^ 24 < len.toNat then .next (s.endUpdate 4)
    else .next { s with fw := { s.fw with state := .verifying } }

/-- Records held during the swap are written in order (R352). -/
def State.releaseRecords (s : State) : State :=
  s.events.held.foldl (fun s words => let (e, outs) := s.events.put words
    { s with events := e, pcie := s.pcie ++ outs }) { s with events := { s.events with held := [] } }

/-- A word of the snapshot window (R356). What the firmware's descriptor says, and what the blocks it lays out hold, is free (log 124). -/
def Snapshot.window (p : Snapshot) (off : Nat) : Word :=
  if off < 0x40 then
    match off / 8 with
    | 0 => p.seq.setWidth 64
    | 1 => BitVec.ofNat 64 p.tick
    | 2 => BitVec.ofNat 64 p.trigger
    | _ => 0
  else if 0x10000 ≤ off ∧ off < 0x100000 then
    let c := (off - 0x10000) / 256
    match p.cores.lookup c with
    | some ws => BitVec.ofNat 64 (ws.getD ((off - 0x10000) % 256 / 8) 0)
    | none => 0
  else Config.snapshotBlock p.seq.toNat p.discards off

/-! ## BAR0 registers (R6, R346) -/

/-- SPSTAT and SPCTL of a port (R65). -/
def Port.statWord (x : Port) : Word :=
  x.cards ++ 0#23 ++ BitVec.ofBool x.lost ++ x.code ++ 0#6 ++ (match x.state with
    | .idle => 0#2
    | .busy => 1#2
    | .waiting => 2#2
    | .stopped => 3#2)

/-- A port's register at an offset of its block. -/
def Port.register (x : Port) (off : Nat) : Word :=
  match off with
  | 0x00 => x.head
  | 0x08 => BitVec.ofNat 64 x.asid
  | 0x10 => x.statWord
  | 0x18 => if x.hold then 1 else 0
  | 0x20 => x.fail
  | _ => 0

/-- EVCTL (R347). -/
def EventBuf.ctl (e : EventBuf) : Word :=
  0#50 ++ e.vec ++ e.logn ++ BitVec.ofBool e.ovf ++ 0#1 ++ BitVec.ofBool e.en

/-- FENCESTAT (R354). -/
def FenceState.code : FenceState → Word
  | .inService => 0 | .draining => 1 | .fenced => 2 | .recalibrating => 3

/-- FWSTAT (R353). -/
def Firmware.stat (f : Firmware) : Word :=
  f.runver ++ 0#16 ++ f.result ++ 0#5 ++ BitVec.ofBool f.slot ++ (match f.state with
    | .idle => 0#2
    | .windowOpen => 1#2
    | .verifying => 2#2
    | .swapping => 3#2)

/-- What a BAR0 register holds, but for BOOTSTAT, FWCTL and FWSTAT (R346); offsets not listed read 0. -/
def State.liveRegister (s : State) (off : Nat) : Word :=
  if 0x100000 ≤ off ∧ off < 0x101000 then (s.port ((off - 0x100000) / 64)).register ((off - 0x100000) % 64)
  else match off with
    | 0x0008 => s.featOff0
    | 0x0010 => s.featOff1
    | 0x0018 => s.featAcc0
    | 0x0020 => s.featAcc1
    | 0x0030 => s.devnum.setWidth 64
    | 0x1000 => s.events.base
    | 0x1008 => s.events.ctl
    | 0x1010 => BitVec.ofNat 64 s.events.head
    | 0x1018 => BitVec.ofNat 64 s.events.tail
    | 0x1020 => BitVec.ofNat 64 s.events.lost
    | 0x2008 => (s.unitState s.fenceSel).code
    | 0x4000 => 0#20 ++ s.dirBase ++ 0#23 ++ BitVec.ofBool s.dirEn
    | _ => 0

/-- The offsets of those registers. -/
def liveOffsets : List Nat :=
  [0x0008, 0x0010, 0x0018, 0x0020, 0x0030, 0x1000, 0x1008, 0x1010, 0x1018, 0x1020, 0x2008, 0x4000]
  ++ (List.range 64).flatMap (fun p => [0x00, 0x08, 0x10, 0x18, 0x20].map (fun o => 0x100000 + 64 * p + o))

/-- BAR0 reads keep their last values during a firmware swap (R352): those at its beginning. DESIGN CHOICE (log 142). -/
def State.freeze (s : State) : State := { s with frozen := some (liveOffsets.map (fun o => (o, s.liveRegister o)), s.snap) }

/-- What the host reads at a BAR0 offset (R346). -/
def State.register (s : State) (off : Nat) : Word :=
  if 0x1000000 ≤ off ∧ off < 0x2000000 then
    (if s.fw.state = .windowOpen then wordOfBytes (cellsRead (fun _ => 0) s.fw.window (off - 0x1000000) 8) else 0)
  else if 0x2000000 ≤ off then (match s.frozen with
    | some f => f.2
    | none => s.snap).window (off - 0x2000000)
  else match off with
    | 0x0000 => s.boot.word
    | 0x5000 => s.fw.len ++ 0#29 ++ BitVec.ofBool s.fw.commit ++ 0#2
    | 0x5008 => s.fw.stat
    | _ => match s.frozen with
      | some f => (f.1.lookup off).getD 0
      | none => s.liveRegister off

/-! ## The end of an update -/

/-- FIRMWARE_ACTIVATION_END: verification ends, with a failed check or with the swap; or the swap ends, with the image in the slot
that was inactive and now runs (R351 to R353). -/
def execFirmwareActivationEnd (s : State) : Host.Outcome State Fault Refusal :=
  match s.fw.state with
  | .verifying =>
    let img := s.fw.staged
    if !Config.imageVerifies img then .next (s.endUpdate 2)
    else if Config.imageVersion img < s.fw.floor then .next (s.endUpdate 3)
    else .next (State.freeze { s with fw := { s.fw with state := .swapping } })
  | .swapping =>
    let img := s.fw.staged
    let f := s.fw.withSlot img
    let version := Config.imageVersion img
    let written : Word := if f.slot then 0 else 1
    let s := State.releaseRecords { s with frozen := none, fw := { f with
      state := .idle, result := 1, slot := !f.slot, runver := version
      floor := if f.commit ∧ f.floor < version then version else f.floor } }
    .next (s.event 0x0D 0 written 1)
  | _ => .next s

/-! ## Snapshots (R355, R356) -/

/-- SNAPTRIG: the host's trigger. -/
def execSnaptrig (s : State) : Host.Outcome State Fault Refusal := .next (s.trigger 2)

/-- A core's eight words (R356). -/
def State.coreWords (s : State) (c : Nat) : List Nat :=
  let k := s.core c
  let placed := s.threads.filter (fun t => s.coreOf t == some c)
  let active := placed.filter (fun t => t.slot.isSome)
  let here := s.gangs.filter (fun g => g.cluster == some (c / 8) && placed.any (fun t => t.id.task == g.task && t.id.gang == g.index))
  let spad := (here.map (fun g => match s.task? g.task with
    | some k => k.spad
    | none => 0)).sum
  [k.groupsA, k.groupsE, k.misses, k.full, k.ksteps, k.units, active.length + 256 * placed.length, spad]

/-- Cores with anything to latch. -/
def State.busyCores (s : State) : List Nat := ((s.coreTab.map (·.num)) ++ s.threads.filterMap s.coreOf).eraseDups.filter
  (fun c => (s.coreWords c).any (· != 0))

/-- SNAPSHOT_LATCH: two ticks after a trigger every block's registers latch; SEQ advances, with a record (R355). -/
def execSnapshotLatch (s : State) : Host.Outcome State Fault Refusal :=
  match s.snap.armed with
  | [] => .next s
  | (tick, which) :: rest =>
    if s.tick < tick + 2 then .next s
    else
      let seq := s.snap.seq + 1
      let s := { s with snap := { s.snap with armed := rest, seq := seq, tick := tick + 2, trigger := which, discards := s.discards
                                              cores := s.busyCores.map (fun c => (c, s.coreWords c)) } }
      .next (s.event 0x0C 0 (seq.setWidth 64) (BitVec.ofNat 64 which))

/-! ## Errors (R357, R358) -/

/-- PATROL_SCRUB of a line: a corrected error is written back, an uncorrectable one retires the line (R357, R358). -/
def execPatrolScrub (line : Nat) (s : State) : Host.Outcome State Fault Refusal :=
  if s.badLines.contains line then .next (s.retireLine line)
  else if s.softLines.contains line then
    .next ({ s with softLines := s.softLines.filter (· != line) }.countSoft (8 + stackOf (line * 256)))
  else .next s

/-! ## The host's accesses to device memory (R202, R346) -/

/-- The control area of a thread lies under a range that the host writes (R340). -/
def State.controlUnder (s : State) (t : Thread) (pa n : Nat) : Bool :=
  match s.ctxPage t 3 with
  | .ok (_, a) => decide (a < pa + n ∧ pa < a + 4096)
  | _ => false

/-- The bytes of a damaged control area that a host write has rewritten are damaged no more (R340). -/
def State.healed (s : State) (t : Thread) (pa n : Nat) : Thread :=
  match s.ctxPage t 3 with
  | .ok (_, a) => { t with damaged := t.damaged &&& ~~~onesAt 4096 (max pa a - a) (min (pa + n) (a + 4096) - max pa a) }
  | _ => t

/-- HOST_WRITE through BAR2, which maps device PA 0 onward. A frame that is not resident takes nothing. -/
def execHostWrite (pa : Nat) (data : List Byte) (s : State) : Host.Outcome State Fault Refusal :=
  if data.isEmpty ∨ Config.hbmBytes < pa + data.length ∨ !s.resident pa then .next s
  else
    let hurt := s.threads.filter (fun t => t.damaged != 0 && s.controlUnder t pa data.length)
    let s := s.storeHome .all pa data none
    .next (hurt.foldl (fun s t => s.setThread (s.healed t pa data.length)) s)

/-- HOST_READ through BAR2: answered after every earlier host write. Damaged lines are retired, and read as their spares
do. -/
def execHostRead (pa bytes : Nat) (s : State) : Host.Outcome State Fault Refusal :=
  if Config.hbmBytes < pa + bytes ∨ !s.resident pa then .next { s with pcie := s.pcie ++ [.completion []] }
  else
    let s := (s.retireRange pa bytes).corrected pa bytes
    .next { s with pcie := s.pcie ++ [.completion (s.readPA pa bytes)] }

/-! ## Writes of BAR0 registers (R6, R346) -/

/-- A write of FENCECTL: with GO 0 it only names the unit (R354). -/
def State.writeFence (s : State) (v : Word) : Host.Outcome State Fault Refusal :=
  let unit := (getBits v 0 8).toNat
  if !v.getLsbD 10 then .next (if s.fenceServed unit then { s with fenceSel := unit } else s)
  else match (getBits v 8 2).toNat with
    | 1 => execFencectlFence unit s
    | 2 => execFencectlDrain unit s
    | 3 => execFencectlReturn unit s
    | _ => .next s

/-- A write of FWCTL (R353): LEN and COMMIT as written, then ACT or OPEN; one of ACT or OPEN while an update runs is ignored, with
RESULT 5. -/
def State.writeFw (s : State) (v : Word) : Host.Outcome State Fault Refusal :=
  if v.getLsbD 1 then execFwctlAct (getBits v 32 32) (v.getLsbD 2) s
  else if v.getLsbD 0 && s.fw.busy then execFwctlOpen s
  else
    let s := { s with fw := { s.fw with len := getBits v 32 32, commit := v.getLsbD 2 } }
    if v.getLsbD 0 then execFwctlOpen s else .next s

/-- A write of SPCTL (R65): HOLD as written, then PARK. -/
def State.writeSpctl (s : State) (p : Nat) (v : Word) : Host.Outcome State Fault Refusal :=
  let s := s.setPort p { s.port p with hold := v.getLsbD 0 }
  if v.getLsbD 1 then execSpctlPark p s else .next s

/-- A write to a port's register block (R65). -/
def State.writePort (s : State) (p off : Nat) (v : Word) : Host.Outcome State Fault Refusal :=
  let x := s.port p
  match off with
  | 0x00 => execSphead p v s
  | 0x08 => .next (if x.takesHead then s.setPort p { x with asid := (getBits v 0 16).toNat } else s)
  | 0x10 => .next (if v.getLsbD 16 then s.setPort p { x with lost := false } else s)
  | 0x18 => s.writeSpctl p v
  | _ => .next s

/-- A write of EVCTL (R347): OVF is cleared by writing 1; the indexes are modulo the ring's size. -/
def EventBuf.write (e : EventBuf) (v : Word) : EventBuf :=
  let e := { e with vec := getBits v 8 6, logn := getBits v 3 5, ovf := e.ovf && !v.getLsbD 2, en := v.getLsbD 0 }
  match e.size with
  | some n => { e with head := e.head % n, tail := e.tail % n }
  | none => e

/-- REGISTER_WRITE: a 64-bit host write to BAR0 (R346); RO fields and offsets not listed ignore it (R6). -/
def execRegisterWrite (off : Nat) (v : Word) (s : State) : Host.Outcome State Fault Refusal :=
  if 0x100000 ≤ off ∧ off < 0x101000 then s.writePort ((off - 0x100000) / 64) ((off - 0x100000) % 64) v
  else if 0x1000000 ≤ off ∧ off < 0x2000000 then
    .next (if s.fw.state = .windowOpen then
      { s with fw := { s.fw with window := cellsWrite (fun _ => 0) s.fw.window (off - 0x1000000) (bytesOfWord v) } } else s)
  else match off with
    | 0x0018 => .next (if s.featLock then s else { s with featAcc0 := v &&& 0x7F })
    | 0x0020 => .next (if s.featLock then s else { s with featAcc1 := v &&& offered1 })
    | 0x0028 => if v.getLsbD 0 then execFeatlock s else .next s
    | 0x1000 => .next { s with events := { s.events with base := v &&& ~~~0xFFF#64 } }
    | 0x1008 => .next { s with events := s.events.write v }
    | 0x1018 => .next { s with events := { s.events with tail := (getBits v 0 20).toNat, sent := false } }
    | 0x2000 => s.writeFence v
    | 0x3000 => if v.getLsbD 0 then execSnaptrig s else .next s
    | 0x4000 => .next { s with dirBase := getBits v 24 20, dirEn := if s.tasks.isEmpty then v.getLsbD 0 else s.dirEn }
    | 0x5000 => s.writeFw v
    | _ => .next s

/-! ## PCI Express completions (R201, R346, R373) -/

/-- An AtomicOp that the host refuses whatever it is asked for: one that PCI Express has not, or a root complex that completes none (R373). -/
def State.hostRefuses (s : State) (tag : Nat) : Bool := s.pcie.any (fun o => match o with
  | .atomic n _ _ kind ty _ _ => n == tag && (!hostServes kind ty || !s.site.atomicOps)
  | _ => false)

/-- PCIE_COMPLETION: the answer to a read, to an atomic, or to an `.nr` atomic, whose refusal goes into the core's host-path
error word (R373). -/
def execPcieCompletion (tag : Nat) (answer : PcieAnswer) (s : State) : Host.Outcome State Fault Refusal :=
  match s.pends.find? (fun p => p.tag == tag && p.answer.isNone) with
  | none => .next s
  | some p =>
    let put (a : Answer) : State := { s with pends := s.pends.map (fun q => if q.tag = tag then { q with answer := some a } else q) }
    let drop : State := { s with pends := s.pends.filter (fun q => q.tag != tag) }
    match p.owner, (if s.hostRefuses tag then PcieAnswer.refused else answer) with
    | .hostNr core _, .refused => .next (drop.hostFail core 9 1)
    | .hostNr core _, .fault c => .next (drop.hostFail core (Cause.num c) 3)
    | .hostNr .., .data _ => .next drop
    | _, .data bs => .next (put (.data bs))
    | _, .refused => .next (put (.fail ⟨.remoteUnsup, match p.asked with
        | .atomic _ => 1
        | .bytes .. => 0⟩))
    | _, .fault c => .next (put (.fail ⟨c, match p.asked with
        | .atomic _ => 3
        | .bytes .. => 1⟩))

end Sys2Proof.Machine
end

