-- ==== Sys2Proof/Machine/Auto.lean ====
section
/-! DEFINITION. The default schedule: which step of the device's own hardware is due when the agenda names none. The spec
orders these steps against one another only where a rule says so; the order here is the model's own (log 6). -/

namespace Sys2Proof.Machine

/-- The state after a step of the hardware. -/
def State.after (s : State) (r : Host.Outcome State Fault Refusal) : State :=
  match r with
  | .next s => s
  | _ => s

/-! ## Time -/

/-- Core cycles pass; a core with 16 active threads counts them (R356). -/
def State.passCycles (s : State) (n : Nat) : State :=
  if n = 0 then s
  else
    let full := (s.threads.filterMap s.coreOf).eraseDups.filter
      (fun c => (s.threads.filter (fun t => t.slot.isSome && s.coreOf t == some c)).length == 16)
    full.foldl (fun s c => let k := s.core c
      s.setCore { k with full := k.full + n }) { s with cycle := s.cycle + n }

/-! ## Frames and routers -/

/-- A frame of the inbox as its event. -/
def State.serveFrame (s : State) (f : Frame) : State :=
  s.after (match f.op with
    | 0 => execLoadRequest f s
    | 1 => execLoadAnswer f s
    | 2 => execStoreFrame f s
    | 3 => execAtomicFrame f s
    | 4 => execAtomicAnswer f s
    | 5 => execStreamAcknowledgement f s
    | 6 => execResendRequest f s
    | 7 => execMldrRead f s
    | 8 => execMldrAnswer f s
    | 9 => execGraphTransfer f s
    | 10 => execMigrationHandOver f s
    | _ => execDomainBarrierReport f s)

/-- A request that still waits, for a migration or for its own forwarding. -/
def State.frameWaits (s : State) (f : Frame) : Bool :=
  (match s.pend? (forwardOwner f) (forwardAsked f.payload) with
    | some p => p.answer.isNone
    | none => false)
  || (match f.op with
    | 0 => (s.serveLoad f).isNone
    | 7 => (s.serveRank f).isNone
    | 10 => (s.takeHandOver f).isNone
    | _ => false)

/-- The next frame of the inbox that can be served. -/
def State.dueFrame (s : State) : Option State :=
  (s.inbox.find? (fun f => !(s.frameWaits f))).map (fun f => { s with inbox := s.inbox.erase f }.serveFrame f)

/-- A router input whose head has not been looked at, or now finds a way. -/
def State.dueRoute (s : State) : Option State :=
  (s.bufs.find? (fun b => b.stuck.isNone || (s.routeHead b.port b.lane).isSome)).map (fun b => s.after (execFrameRoute b.port b.lane none s))

/-- A stream whose next operation had to wait and now goes on. -/
def State.dueStream (s : State) : Option State :=
  s.rx.findSome? (fun r =>
    if r.window.any (fun f => f.seq == r.next) then
      let s' := s.drainStream r.src r.core 64
      if s'.rx = s.rx ∧ s'.pends.length = s.pends.length then none else some s'
    else none)

/-- The timers of the endpoints and links. -/
def State.dueTimer (s : State) : Option State :=
  match s.rx.find? (fun r => r.since != 0 && decide (r.last + 1000 ≤ s.tick)) with
  | some r => some (s.after (execAckTimer r.src r.core s))
  | none => match s.tx.find? (fun x => x.unacked.any (fun u => decide (u.first + 100000 ≤ s.tick))) with
    | some x => some (s.after (execStreamLost x.core x.dev s))
    | none => match s.tx.find? (fun x => x.unacked.any (fun u => decide (u.last + 10000 ≤ s.tick))) with
      | some x => some (s.after (execStreamResend x.core x.dev s))
      | none => match s.pends.find? s.pendOver with
        | some p => some (s.after (execRemoteLoadTimeout p.tag s))
        | none => match s.rankCmds.findSome? (fun c => if s.isMldr c && decide (c.sent + 100000 ≤ s.tick) then
              (c.ranks.findIdx? (· == .waiting)).map (fun r => (c.tag, r)) else none) with
          | some (tag, r) => some (s.after (execMldrRankTimeout tag r s))
          | none => match s.sends.find? (fun d => d.closed && d.answer.isNone && decide (d.sent + silenceTicks ≤ s.tick)) with
            | some d => some (s.after (execGsendTimeout d.tag s))
            | none => none

/-- The timers of the intakes. -/
def State.dueIntake (s : State) : Option State :=
  (s.intakes.zip (List.range 64)).findSome? (fun p => match p.1 with
    | none => none
    | some k => match k.open' with
      | none => none
      | some r => match r.paused with
        | some t => if t + pauseTicks ≤ s.tick then some (s.after (execIntakePauseExpiry p.2 s)) else none
        | none => if r.last + silenceTicks ≤ s.tick then some (s.after (execGsendTimeout r.tag s)) else none)

/-- The timers of the links and routers. -/
def State.dueLink (s : State) : Option State :=
  match s.links.find? (fun l => s.linkRuns l && l.nakAt.any (fun c => decide (c + 1500 ≤ s.cycle))) with
  | some l => some (s.after (execNakRepeat l.num s))
  | none => match s.bufs.find? (fun b => !b.suspect && decide (b.lane < 2) && b.stuck.any (fun c => decide (c + s.tmoCycles ≤ s.cycle))) with
    | some b => some (s.after (execDeadlockSuspect b.port b.lane s))
    | none => if s.hasFabric && s.devnum != 0xFFFF && s.tokenLate then some (s.after (execTokenReissue s)) else none

/-! ## Engines -/

/-- A core's copy engine can serve a unit, or one of its commands has waited long enough. -/
def State.dueCopy (s : State) (core : Nat) : Option State :=
  if s.threads.any (fun t => s.coreOf t == some core && s.cpycExpired t && (s.engineTry t.id).isSome) then some (s.after (execCpycOwnershipTimeout core s))
  else if (s.nextUnit core).isSome then some (s.after (execEngineUnit core s))
  else none

/-- A core's matrix engine can start a command or go on with one. -/
def State.dueMatrix (s : State) (core : Nat) : Option State :=
  if (s.mxStart core).isSome then some (s.after (execMatrixCommandStart core s))
  else if (s.mxCompute core 0).isSome then some (s.after (execMma core s))
  else if (s.mxCompute core 1).isSome then some (s.after (execMmaz core s))
  else if (s.mxCompute core 2).isSome then some (s.after (execMmas core s))
  else if (s.mxLoad core).isSome then some (s.after (execBload core s))
  else if (s.mxStore core).isSome then some (s.after (execCstore core s))
  else if (s.mxZero core).isSome then some (s.after (execMatrixCzero core s))
  else none

/-- The cores on which a thread has an engine command. -/
def State.engineCores (s : State) : List Nat :=
  (s.threads.filterMap (fun t => if t.ceEntries.isEmpty && t.mxEntries.isEmpty then none else s.coreOf t)).eraseDups

/-- Cores of threads whose gang is being parked or parked run their engines too: a command that awaits ranks (R363). -/
def State.dueEngine (s : State) : Option State :=
  s.engineCores.findSome? (fun c => match s.dueMatrix c with
    | some i => some i
    | none => s.dueCopy c)

/-! ## Threads, ports and the scheduler -/

/-- A held write can land now. -/
def State.lands (s : State) (d : Deferred) : Bool := match s.landOne d with
  | .ok _ => true
  | _ => false

/-- A thread that has stopped has lines in the register cache whose page can be reached now (R51, R308). -/
def State.savesLeft (s : State) (t : Thread) : Bool :=
  t.resident != 0 && !t.waitsHere && t.run != .retired && (List.range 4).any (fun c =>
    t.resident &&& linesOfPage c != 0 && s.linesMapped t (linesOfPage c))

/-- The steps of threads and gangs. -/
def State.dueThread (s : State) : Option State :=
  match s.gangs.find? (fun g => s.uniComplete g && (s.uniValues g).isSome) with
  | some g => some (s.after (execUniPosting g.task g.index s))
  | none => match s.deferred.find? s.lands with
    | some d => some (s.after (execDeferredContextWrite d.cbase s))
    | none => match s.threads.find? s.savesLeft with
     | some t => some (s.saveLeft t.id)
     | none => match s.threads.find? (fun t => (s.retirement t.id).isSome) with
      | some t => some (s.after (execRetirementEffect t.id s))
      | none => match s.notices.find? (fun q => (s.deliverNotice q.asid).isSome) with
        | some q => some (s.after (execTrapNotice q.asid s))
        | none => (s.threads.find? (fun t => s.waitExpired t && t.run == .active && s.mayIssue t)).map (fun t => s.after (execWaitTimeout t.id s))

/-- The steps of the ports (R66). -/
def State.duePort (s : State) : Option State :=
  match (List.range 64).find? (fun p => (s.port p).state == .waiting && !s.cardWaits p && (match s.ownership p with
    | none => true
    | some (_, w) => w.getLsbD 0)) with
  | some p => some (s.after (execCardOwnershipWatch p s))
  | none => s.nextPort.map (fun p => s.after (execPortCardConsume p s))

/-- The steps of the scheduler. -/
def State.dueSchedule (s : State) : Option State :=
  let s := s.looked
  match s.gangs.find? (fun g => (s.endPark g).isSome) with
  | some g => some (s.after (execGangParkComplete g.task g.index s))
  | none =>
    if s.placeNext.isSome then some (s.after (execGangPlace s))
    else match s.gangs.find? (fun g => (s.ageGang g.task g.index).isSome) with
      | some g => some (s.after (execPriorityAging g.task g.index s))
      | none =>
        if s.parkIdle.isSome then some (s.after (execIdleGangPark s))
        else if s.preempt.isSome then some (s.after (execPreemption s))
        else if s.reserve.isSome then some (s.after (execClusterReservation s))
        else ((s.threads.filterMap s.coreOf).eraseDups.find? (fun c => (s.slice c).isSome)).map (fun c => s.after (execTimeSlice c s))

/-! ## Translation and the management complex -/

/-- Walks and migrations that can end. -/
def State.dueTranslation (s : State) : Option State :=
  match s.walks.findIdx? (fun w => !s.walkWaits w) with
  | some n => some (s.after (execWalkFill n s))
  | none => ((s.migs.zip (List.range s.migs.length)).find? (fun p => (s.migrate p.2 p.1).isSome)).map (fun p => s.after (execMigrationComplete p.2 s))

/-- The next change of BOOTSTAT (R349), and errors that the SRAMs have corrected and that are counted now (R357). -/
def State.dueStart (s : State) : Option State :=
  match s.stageTwo, s.softSram with
  | some s, _ => some s
  | none, u :: us => some (State.countSoft { s with softSram := us } u)
  | none, [] => none

/-- Drains, recalibrations, firmware updates and snapshots that can end. -/
def State.dueService (s : State) : Option State :=
  match s.fences.find? (fun f => f.2 == .recalibrating || (f.2 == .draining && s.unitEmpty f.1)) with
  | some (unit, .recalibrating) => some (s.after (execRecalibrationComplete unit s))
  | some (unit, _) => some (s.after (execDrainComplete unit s))
  | none =>
    if s.fw.busy then some (s.after (execFirmwareActivationEnd s))
    else match s.snap.armed with
      | (tick, _) :: _ => if tick + 2 ≤ s.tick then some (s.after (execSnapshotLatch s)) else none
      | [] => none

/-- The first of several steps that is due. -/
def firstDue : List (State → Option State) → State → Option State
  | [], _ => none
  | f :: fs, s => match f s with
    | some s => some s
    | none => firstDue fs s

/-- The hardware step that is due, taken. -/
def State.due (s : State) : Option State :=
  firstDue [State.upkeep, State.dueFrame, State.dueStream, fun s => (List.range 64).findSome? s.intakeStep, State.dueRoute,
    State.dueThread, State.dueTranslation, State.dueEngine, State.duePort, State.dueSchedule, State.dueTimer, State.dueIntake,
    State.dueLink, State.dueStart, State.dueService] s

end Sys2Proof.Machine
end

