-- ==== Sys2Proof/Machine/Dispatch.lean ====
section
/-! DEFINITION. One arm for each constructor of `Instr`: the meaning of that instruction or of that step of the device. -/

namespace Sys2Proof.Machine

/-- The meaning of an instruction for the issuing thread, or of a step of the device. -/
def exec (i : Instr) (s : State) : Host.Outcome State Fault Refusal :=
  match i with
  | .add w d a b => Sys2Proof.Machine.execAdd w d a b s
  | .sub w d a b => Sys2Proof.Machine.execSub w d a b s
  | .mul w d a b => Sys2Proof.Machine.execMul w d a b s
  | .mulh w d a b => Sys2Proof.Machine.execMulh w d a b s
  | .mulhn w d a b => Sys2Proof.Machine.execMulhn w d a b s
  | .div w d a b => Sys2Proof.Machine.execDiv w d a b s
  | .divn w d a b => Sys2Proof.Machine.execDivn w d a b s
  | .rem w d a b => Sys2Proof.Machine.execRem w d a b s
  | .remn w d a b => Sys2Proof.Machine.execRemn w d a b s
  | .and w d a b => Sys2Proof.Machine.execAnd w d a b s
  | .or w d a b => Sys2Proof.Machine.execOr w d a b s
  | .xor w d a b => Sys2Proof.Machine.execXor w d a b s
  | .andn w d a b => Sys2Proof.Machine.execAndn w d a b s
  | .shl w d a b => Sys2Proof.Machine.execShl w d a b s
  | .shr w d a b => Sys2Proof.Machine.execShr w d a b s
  | .sar w d a b => Sys2Proof.Machine.execSar w d a b s
  | .rol w d a b => Sys2Proof.Machine.execRol w d a b s
  | .min w d a b => Sys2Proof.Machine.execMin w d a b s
  | .max w d a b => Sys2Proof.Machine.execMax w d a b s
  | .minn w d a b => Sys2Proof.Machine.execMinn w d a b s
  | .maxn w d a b => Sys2Proof.Machine.execMaxn w d a b s
  | .clz w d a => Sys2Proof.Machine.execClz w d a s
  | .ctz w d a => Sys2Proof.Machine.execCtz w d a s
  | .pop w d a => Sys2Proof.Machine.execPop w d a s
  | .sel w d a b c => Sys2Proof.Machine.execSel w d a b c s
  | .cmp w cond d a b => Sys2Proof.Machine.execCmp w cond d a b s
  | .li kind d imm => Sys2Proof.Machine.execLi kind d imm s
  | .lih d a imm => Sys2Proof.Machine.execLih d a imm s
  | .addi w d a imm => Sys2Proof.Machine.execAddi w d a imm s
  | .andi w d a imm => Sys2Proof.Machine.execAndi w d a imm s
  | .ori w d a imm => Sys2Proof.Machine.execOri w d a imm s
  | .xori w d a imm => Sys2Proof.Machine.execXori w d a imm s
  | .shli w d a imm => Sys2Proof.Machine.execShli w d a imm s
  | .shri w d a imm => Sys2Proof.Machine.execShri w d a imm s
  | .sari w d a imm => Sys2Proof.Machine.execSari w d a imm s
  | .cmpi w cond d a imm => Sys2Proof.Machine.execCmpi w cond d a imm s
  | .adr d imm => Sys2Proof.Machine.execAdr d imm s
  | .vadd ty z k d a b => Sys2Proof.Machine.execVadd ty z k d a b s
  | .vsub ty z k d a b => Sys2Proof.Machine.execVsub ty z k d a b s
  | .vmul ty z k d a b => Sys2Proof.Machine.execVmul ty z k d a b s
  | .vmulh ty z k d a b => Sys2Proof.Machine.execVmulh ty z k d a b s
  | .vand ty z k d a b => Sys2Proof.Machine.execVand ty z k d a b s
  | .vor ty z k d a b => Sys2Proof.Machine.execVor ty z k d a b s
  | .vxor ty z k d a b => Sys2Proof.Machine.execVxor ty z k d a b s
  | .vandn ty z k d a b => Sys2Proof.Machine.execVandn ty z k d a b s
  | .vshl ty z k d a b => Sys2Proof.Machine.execVshl ty z k d a b s
  | .vshr ty z k d a b => Sys2Proof.Machine.execVshr ty z k d a b s
  | .vsar ty z k d a b => Sys2Proof.Machine.execVsar ty z k d a b s
  | .vmin ty z k d a b => Sys2Proof.Machine.execVmin ty z k d a b s
  | .vmax ty z k d a b => Sys2Proof.Machine.execVmax ty z k d a b s
  | .vabs ty z k d a => Sys2Proof.Machine.execVabs ty z k d a s
  | .vneg ty z k d a => Sys2Proof.Machine.execVneg ty z k d a s
  | .vadds ty z k d a b => Sys2Proof.Machine.execVadds ty z k d a b s
  | .vsubs ty z k d a b => Sys2Proof.Machine.execVsubs ty z k d a b s
  | .vfadd ty r k d a b => Sys2Proof.Machine.execVfadd ty r k d a b s
  | .vfsub ty r k d a b => Sys2Proof.Machine.execVfsub ty r k d a b s
  | .vfmul ty r k d a b => Sys2Proof.Machine.execVfmul ty r k d a b s
  | .vfma ty r k d a b c => Sys2Proof.Machine.execVfma ty r k d a b c s
  | .vfms ty r k d a b c => Sys2Proof.Machine.execVfms ty r k d a b c s
  | .vfnma ty r k d a b c => Sys2Proof.Machine.execVfnma ty r k d a b c s
  | .vfmin ty r k d a b => Sys2Proof.Machine.execVfmin ty r k d a b s
  | .vfmax ty r k d a b => Sys2Proof.Machine.execVfmax ty r k d a b s
  | .vfabs ty k d a => Sys2Proof.Machine.execVfabs ty k d a s
  | .vfneg ty k d a => Sys2Proof.Machine.execVfneg ty k d a s
  | .vfdiv ty r k d a b => Sys2Proof.Machine.execVfdiv ty r k d a b s
  | .vfsqrt ty r k d a => Sys2Proof.Machine.execVfsqrt ty r k d a s
  | .vfrcp ty r k d a => Sys2Proof.Machine.execVfrcp ty r k d a s
  | .vfrsq ty r k d a => Sys2Proof.Machine.execVfrsq ty r k d a s
  | .vfexp2 ty r k d a => Sys2Proof.Machine.execVfexp2 ty r k d a s
  | .vflog2 ty r k d a => Sys2Proof.Machine.execVflog2 ty r k d a s
  | .vfscale ty r k d a b => Sys2Proof.Machine.execVfscale ty r k d a b s
  | .vmov z k d a => Sys2Proof.Machine.execVmov z k d a s
  | .vbcast ty z k d a => Sys2Proof.Machine.execVbcast ty z k d a s
  | .vins ty z k d a b => Sys2Proof.Machine.execVins ty z k d a b s
  | .vext ty d a b => Sys2Proof.Machine.execVext ty d a b s
  | .vperm ty z k d a b => Sys2Proof.Machine.execVperm ty z k d a b s
  | .vslide ty z k d a b => Sys2Proof.Machine.execVslide ty z k d a b s
  | .vzip ty z hi k d a b => Sys2Proof.Machine.execVzip ty z hi k d a b s
  | .vunzip ty z odd k d a b => Sys2Proof.Machine.execVunzip ty z odd k d a b s
  | .vsel ty z k d a b c => Sys2Proof.Machine.execVsel ty z k d a b c s
  | .vcomp ty z k d a => Sys2Proof.Machine.execVcomp ty z k d a s
  | .vexpd ty z k d a => Sys2Proof.Machine.execVexpd ty z k d a s
  | .vredsum ty r k d a => Sys2Proof.Machine.execVredsum ty r k d a s
  | .vredmax ty k d a => Sys2Proof.Machine.execVredmax ty k d a s
  | .vredmin ty k d a => Sys2Proof.Machine.execVredmin ty k d a s
  | .vscan ty r z k d a => Sys2Proof.Machine.execVscan ty r z k d a s
  | .vcmp ty cond z k d a b => Sys2Proof.Machine.execVcmp ty cond z k d a b s
  | .vfcmp ty cond z k d a b => Sys2Proof.Machine.execVfcmp ty cond z k d a b s
  | .vfclass ty z k d a b => Sys2Proof.Machine.execVfclass ty z k d a b s
  | .kand d a b => Sys2Proof.Machine.execKand d a b s
  | .kor d a b => Sys2Proof.Machine.execKor d a b s
  | .kxor d a b => Sys2Proof.Machine.execKxor d a b s
  | .knot d a => Sys2Proof.Machine.execKnot d a s
  | .kmov d a => Sys2Proof.Machine.execKmov d a s
  | .kpop ty d a => Sys2Proof.Machine.execKpop ty d a s
  | .kfirst ty d a => Sys2Proof.Machine.execKfirst ty d a s
  | .kset ty d a => Sys2Proof.Machine.execKset ty d a s
  | .kget d a b => Sys2Proof.Machine.execKget d a b s
  | .vcvt td ts r nsat part k d a => Sys2Proof.Machine.execVcvt td ts r nsat part k d a s
  | .vcvtq td src r nsat part k d a b => Sys2Proof.Machine.execVcvtq td src r nsat part k d a b s
  | .vcvtd td src r part k d a b => Sys2Proof.Machine.execVcvtd td src r part k d a b s
  | .vpack td k d a b => Sys2Proof.Machine.execVpack td k d a b s
  | .vunpack td part k d a => Sys2Proof.Machine.execVunpack td part k d a s
  | .ld ty m d => Sys2Proof.Machine.execLd ty m d s
  | .st ty m d => Sys2Proof.Machine.execSt ty m d s
  | .vld ty m k d => Sys2Proof.Machine.execVld ty m k d s
  | .vst ty m k d => Sys2Proof.Machine.execVst ty m k d s
  | .vlds ty m k d => Sys2Proof.Machine.execVlds ty m k d s
  | .vsts ty m k d => Sys2Proof.Machine.execVsts ty m k d s
  | .vgat ty m k d => Sys2Proof.Machine.execVgat ty m k d s
  | .vsca ty m k d => Sys2Proof.Machine.execVsca ty m k d s
  | .vldb ty m k d => Sys2Proof.Machine.execVldb ty m k d s
  | .pf m => Sys2Proof.Machine.execPf m s
  | .cwb m d => Sys2Proof.Machine.execCwb m d s
  | .cinv m d => Sys2Proof.Machine.execCinv m d s
  | .czero m d => Sys2Proof.Machine.execCzero m d s
  | .qstat d => Sys2Proof.Machine.execQstat d s
  | .aadd o => Sys2Proof.Machine.execAadd o s
  | .aand o => Sys2Proof.Machine.execAand o s
  | .aor o => Sys2Proof.Machine.execAor o s
  | .axor o => Sys2Proof.Machine.execAxor o s
  | .amin o => Sys2Proof.Machine.execAmin o s
  | .amax o => Sys2Proof.Machine.execAmax o s
  | .aminn o => Sys2Proof.Machine.execAminn o s
  | .amaxn o => Sys2Proof.Machine.execAmaxn o s
  | .aswp o => Sys2Proof.Machine.execAswp o s
  | .acas o c => Sys2Proof.Machine.execAcas o c s
  | .ainc o => Sys2Proof.Machine.execAinc o s
  | .adec o => Sys2Proof.Machine.execAdec o s
  | .afadd o => Sys2Proof.Machine.execAfadd o s
  | .afmin o => Sys2Proof.Machine.execAfmin o s
  | .afmax o => Sys2Proof.Machine.execAfmax o s
  | .fence ord scope => Sys2Proof.Machine.execFence ord scope s
  | .binit m d => Sys2Proof.Machine.execBinit m d s
  | .bar m d => Sys2Proof.Machine.execBar m d s
  | .bara m d => Sys2Proof.Machine.execBara m d s
  | .barw m d => Sys2Proof.Machine.execBarw m d s
  | .bstat m d => Sys2Proof.Machine.execBstat m d s
  | .bra off => Sys2Proof.Machine.execBra off s
  | .br cond a off => Sys2Proof.Machine.execBr cond a off s
  | .brany a off => Sys2Proof.Machine.execBrany a off s
  | .brall a off => Sys2Proof.Machine.execBrall a off s
  | .jr a => Sys2Proof.Machine.execJr a s
  | .call d off => Sys2Proof.Machine.execCall d off s
  | .callr d a => Sys2Proof.Machine.execCallr d a s
  | .ret a => Sys2Proof.Machine.execRet a s
  | .brk imm => Sys2Proof.Machine.execBrk imm s
  | .trap imm => Sys2Proof.Machine.execTrap imm s
  | .spawn d a port => Sys2Proof.Machine.execSpawn d a port s
  | .yield => Sys2Proof.Machine.execYield s
  | .retire => Sys2Proof.Machine.execRetire s
  | .wait all count d a b => Sys2Proof.Machine.execWait all count d a b s
  | .gbar => Sys2Proof.Machine.execGbar s
  | .dbar level => Sys2Proof.Machine.execDbar level s
  | .elect d => Sys2Proof.Machine.execElect d s
  | .gget d a b => Sys2Proof.Machine.execGget d a b s
  | .gput d a b => Sys2Proof.Machine.execGput d a b s
  | .tnow d => Sys2Proof.Machine.execTnow d s
  | .mfsr d idx => Sys2Proof.Machine.execMfsr d idx s
  | .mtsr a idx => Sys2Proof.Machine.execMtsr a idx s
  | .tlbi kind a b => Sys2Proof.Machine.execTlbi kind a b s
  | .tlbsync => Sys2Proof.Machine.execTlbsync s
  | .pgmig d a b => Sys2Proof.Machine.execPgmig d a b s
  | .spsplit a => Sys2Proof.Machine.execSpsplit a s
  | .thalt d a => Sys2Proof.Machine.execThalt d a s
  | .tresume d a => Sys2Proof.Machine.execTresume d a s
  | .trapret => Sys2Proof.Machine.execTrapret s
  | .snap d => Sys2Proof.Machine.execSnap d s
  | .bset m d => Sys2Proof.Machine.execBset m d s
  | .agset d a b => Sys2Proof.Machine.execAgset d a b s
  | .nop bits => Sys2Proof.Machine.execNop bits s
  | .uni body => Sys2Proof.Machine.execUni body s
  | .rep count sd sa sb sc body => Sys2Proof.Machine.execRep count sd sa sb sc body s
  | .imx hi body => Sys2Proof.Machine.execImx hi body s
  | .uniPosting task gang => Sys2Proof.Machine.execUniPosting task gang s
  | .mxcmd d a => Sys2Proof.Machine.execMxcmd d a s
  | .mxgeom a b c => Sys2Proof.Machine.execMxgeom a b c s
  | .mxsub d => Sys2Proof.Machine.execMxsub d s
  | .mxstat d => Sys2Proof.Machine.execMxstat d s
  | .mxflag d => Sys2Proof.Machine.execMxflag d s
  | .mma core => Sys2Proof.Machine.execMma core s
  | .mmaz core => Sys2Proof.Machine.execMmaz core s
  | .mmas core => Sys2Proof.Machine.execMmas core s
  | .bload core => Sys2Proof.Machine.execBload core s
  | .cstore core => Sys2Proof.Machine.execCstore core s
  | .matrixCzero core => Sys2Proof.Machine.execMatrixCzero core s
  | .cpy d a b c dsp ssp evict f => Sys2Proof.Machine.execCpy d a b c dsp ssp evict f s
  | .cpy2d d a b c dsp ssp evict f => Sys2Proof.Machine.execCpy2d d a b c dsp ssp evict f s
  | .cpyc d a limit => Sys2Proof.Machine.execCpyc d a limit s
  | .cmcast d a b mask evict => Sys2Proof.Machine.execCmcast d a b mask evict s
  | .cfill d a b c dsp width evict f => Sys2Proof.Machine.execCfill d a b c dsp width evict f s
  | .stash d a b c count => Sys2Proof.Machine.execStash d a b c count s
  | .resto d a b c count f32 => Sys2Proof.Machine.execResto d a b c count f32 s
  | .xpand d a resume => Sys2Proof.Machine.execXpand d a resume s
  | .gcopy d a b c nreg o => Sys2Proof.Machine.execGcopy d a b c nreg o s
  | .gsend d a b c o => Sys2Proof.Machine.execGsend d a b c o s
  | .gcmp d a b c o => Sys2Proof.Machine.execGcmp d a b c o s
  | .ghash d a b c o => Sys2Proof.Machine.execGhash d a b c o s
  | .gfree d a b c nreg o => Sys2Proof.Machine.execGfree d a b c nreg o s
  | .gcount d a b nreg o => Sys2Proof.Machine.execGcount d a b nreg o s
  | .gintake d a index mbox => Sys2Proof.Machine.execGintake d a index mbox s
  | .gtype d a b => Sys2Proof.Machine.execGtype d a b s
  | .rfence d => Sys2Proof.Machine.execRfence d s
  | .rstat d a => Sys2Proof.Machine.execRstat d a s
  | .mldr d a b c group => Sys2Proof.Machine.execMldr d a b c group s
  | .mst d a b c group sectors f => Sys2Proof.Machine.execMst d a b c group sectors f s
  | .agrd d a b => Sys2Proof.Machine.execAgrd d a b s
  | .engineUnit core => Sys2Proof.Machine.execEngineUnit core s
  | .matrixCommandStart core => Sys2Proof.Machine.execMatrixCommandStart core s
  | .deferredContextWrite cbase => Sys2Proof.Machine.execDeferredContextWrite cbase s
  | .cardOwnershipWatch port => Sys2Proof.Machine.execCardOwnershipWatch port s
  | .portCardConsume port => Sys2Proof.Machine.execPortCardConsume port s
  | .gangPlace => Sys2Proof.Machine.execGangPlace s
  | .timeSlice core => Sys2Proof.Machine.execTimeSlice core s
  | .priorityAging task gang => Sys2Proof.Machine.execPriorityAging task gang s
  | .clusterReservation => Sys2Proof.Machine.execClusterReservation s
  | .preemption => Sys2Proof.Machine.execPreemption s
  | .idleGangPark => Sys2Proof.Machine.execIdleGangPark s
  | .gangParkComplete task gang => Sys2Proof.Machine.execGangParkComplete task gang s
  | .retirementEffect t => Sys2Proof.Machine.execRetirementEffect t s
  | .waitTimeout t => Sys2Proof.Machine.execWaitTimeout t s
  | .trapNotice asid => Sys2Proof.Machine.execTrapNotice asid s
  | .walkFill n => Sys2Proof.Machine.execWalkFill n s
  | .migrationComplete n => Sys2Proof.Machine.execMigrationComplete n s
  | .loadRequest f => Sys2Proof.Machine.execLoadRequest f s
  | .loadAnswer f => Sys2Proof.Machine.execLoadAnswer f s
  | .storeFrame f => Sys2Proof.Machine.execStoreFrame f s
  | .atomicFrame f => Sys2Proof.Machine.execAtomicFrame f s
  | .atomicAnswer f => Sys2Proof.Machine.execAtomicAnswer f s
  | .streamAcknowledgement f => Sys2Proof.Machine.execStreamAcknowledgement f s
  | .resendRequest f => Sys2Proof.Machine.execResendRequest f s
  | .mldrRead f => Sys2Proof.Machine.execMldrRead f s
  | .mldrAnswer f => Sys2Proof.Machine.execMldrAnswer f s
  | .graphTransfer f => Sys2Proof.Machine.execGraphTransfer f s
  | .migrationHandOver f => Sys2Proof.Machine.execMigrationHandOver f s
  | .domainBarrierReport f => Sys2Proof.Machine.execDomainBarrierReport f s
  | .ackTimer src core => Sys2Proof.Machine.execAckTimer src core s
  | .streamResend core dev => Sys2Proof.Machine.execStreamResend core dev s
  | .streamLost core dev => Sys2Proof.Machine.execStreamLost core dev s
  | .remoteLoadTimeout tag => Sys2Proof.Machine.execRemoteLoadTimeout tag s
  | .mldrRankTimeout tag rank => Sys2Proof.Machine.execMldrRankTimeout tag rank s
  | .cpycOwnershipTimeout core => Sys2Proof.Machine.execCpycOwnershipTimeout core s
  | .gsendTimeout tag => Sys2Proof.Machine.execGsendTimeout tag s
  | .intakePauseExpiry index => Sys2Proof.Machine.execIntakePauseExpiry index s
  | .frameRoute port lane arrival => Sys2Proof.Machine.execFrameRoute port lane arrival s
  | .nak link seq => Sys2Proof.Machine.execNak link seq s
  | .nakRepeat link => Sys2Proof.Machine.execNakRepeat link s
  | .linkRetrainRetry link trained => Sys2Proof.Machine.execLinkRetrainRetry link trained s
  | .joinRecord link rec => Sys2Proof.Machine.execJoinRecord link rec s
  | .laserFeedLost braid feed => Sys2Proof.Machine.execLaserFeedLost braid feed s
  | .restripeMarker braid live => Sys2Proof.Machine.execRestripeMarker braid live s
  | .deadlockSuspect port lane => Sys2Proof.Machine.execDeadlockSuspect port lane s
  | .recoveryToken gen tmo => Sys2Proof.Machine.execRecoveryToken gen tmo s
  | .tokenReissue => Sys2Proof.Machine.execTokenReissue s
  | .sphead port head => Sys2Proof.Machine.execSphead port head s
  | .spctlPark port => Sys2Proof.Machine.execSpctlPark port s
  | .spctlHold port hold => Sys2Proof.Machine.execSpctlHold port hold s
  | .fencectlFence unit => Sys2Proof.Machine.execFencectlFence unit s
  | .fencectlDrain unit => Sys2Proof.Machine.execFencectlDrain unit s
  | .fencectlReturn unit => Sys2Proof.Machine.execFencectlReturn unit s
  | .drainComplete unit => Sys2Proof.Machine.execDrainComplete unit s
  | .featlock => Sys2Proof.Machine.execFeatlock s
  | .fwctlOpen => Sys2Proof.Machine.execFwctlOpen s
  | .fwctlAct len commit => Sys2Proof.Machine.execFwctlAct len commit s
  | .firmwareActivationEnd => Sys2Proof.Machine.execFirmwareActivationEnd s
  | .snaptrig => Sys2Proof.Machine.execSnaptrig s
  | .snapshotLatch => Sys2Proof.Machine.execSnapshotLatch s
  | .powerGood => Sys2Proof.Machine.execPowerGood s
  | .patrolScrub line => Sys2Proof.Machine.execPatrolScrub line s
  | .hostWrite pa data => Sys2Proof.Machine.execHostWrite pa data s
  | .hostRead pa bytes => Sys2Proof.Machine.execHostRead pa bytes s
  | .registerWrite off value => Sys2Proof.Machine.execRegisterWrite off value s
  | .recalibrationComplete unit => Sys2Proof.Machine.execRecalibrationComplete unit s
  | .pcieCompletion tag answer => Sys2Proof.Machine.execPcieCompletion tag answer s
  | .idleFlit link ctl => Sys2Proof.Machine.execIdleFlit link ctl s

end Sys2Proof.Machine
end

