-- ==== Sys2Proof/Machine/Step.lean ====
section
/-! DEFINITION. One step of the device. The next move of the agenda is played; with none left, a step of the hardware
that is due, else the group of the thread that R81 picks, else a tick of the clock. -/

namespace Sys2Proof.Machine

/-- A deposit has come to a thread in this cycle. A group of that cycle would act before it (R57), so that one which acts after it
belongs to the next. -/
def State.afterDeposits (s : State) (id : ThreadId) : State :=
  if s.cycleMarks.any (fun m => match m with
    | .deposit t _ => t == id
    | _ => false) then { s with cycle := s.cycle + 1 } else s

/-- The group of a thread: prepared, run by `exec`, and counted. -/
def stepThread (s : State) (t : Thread) : Host.Outcome State Fault Refusal :=
  let s := s.afterDeposits t.id
  if !s.mayIssue t then .next s
  else match s.prepare t with
    | .stop s => .next (s.noteStall t)
    | .run s i =>
      match exec i { s with cur := t.id } with
      | .next s => .next (s.noteIssue t i)
      | r => r

/-- What an agent's action has woken becomes ready in the cycle of the action (R83). -/
def thenWakes (r : Host.Outcome State Fault Refusal) : Host.Outcome State Fault Refusal :=
  match r with
  | .next s => .next s.refreshReady
  | r => r

/-- A move of the agenda. -/
def stepMove (s : State) (m : Move) : Host.Outcome State Fault Refusal :=
  let s := s.passCycles m.cycles
  thenWakes <| match m.agent with
  | .event i => exec i s
  | .own => .next (s.due.getD s)
  | .thread id =>
    match s.thread? id with
    | some t => stepThread s t
    | none => .next s

/-- One step. -/
def step (s : State) : Host.Outcome State Fault Refusal :=
  match s.agenda with
  | m :: rest => stepMove { s with agenda := rest } m
  | [] =>
    match s.due with
    | some s => .next s
    | none =>
      match s.pick with
      | some (p, t) => stepThread (s.turnTo p) t
      | none => .next (s.passCycles Config.cyclesPerTick)

/-! ## A program from outside -/

/-- The thread that a loaded program gives the device: rank 0 of a gang of one. -/
def fetchId : ThreadId := ⟨0, 0, 0⟩

/-- Where the loaded program stands and where its context block lies. -/
def fetchVA : Word := 0x10000#64
def fetchArena : Word := 0x20000#64

/-- The words that map the program: the directory entry of ASID 1, one node of each level, one page for the program and
four for the context block, each readable, writable and executable by a thread without privilege. -/
def fetchTables : List (Nat × Word) :=
  [(256, (16#64 <<< 32) ||| 1#64), (256 + 0x80, 0#64),
   (16 * 4096, (17#64 <<< 32) ||| 0x31#64), (17 * 4096, (18#64 <<< 32) ||| 0x31#64),
   (18 * 4096, (19#64 <<< 32) ||| 0x31#64), (19 * 4096, (20#64 <<< 32) ||| 0x31#64),
   (20 * 4096 + 8 * 16, (32#64 <<< 32) ||| 0x80000F#64)]
  ++ tabulate 4 (fun c => (20 * 4096 + 8 * (32 + c), (BitVec.ofNat 64 (48 + c) <<< 32) ||| 0x80000F#64))

/-- The task of the loaded program. -/
def fetchTask : Task :=
  { num := 0, asid := 1, card := 0, entry := fetchVA, param := 0, gx := 1, gy := 1, gz := 1, size := 1, opaq := true,
    cores := false, spad := 0x10000, bstore := 0x4000, arena := fetchArena, prio := 0, scope := 0, done := 0, value := 0, feet := [],
    edges := [], ready := true, readyAt := 0, formed := 1, retired := 0, closing := false, prioEff := 0, ageFrom := 0 }

/-- The loaded program's gang, on cluster 0. -/
def fetchGang : Gang := { Gang.formed fetchTask 0 0 0 with cluster := some 0, ready := false }

/-- Its thread: as spawned, active in slot 0 of core 0, its context block in the register cache. -/
def fetchThread : Thread := { Thread.spawned fetchTask 0 0 0 with slot := some 0, resident := allLines }

/-- A program of one instruction, whose bits are `w`, loaded from outside and about to be fetched (log 21): its words at
the PC of the one thread, the words above `nbits` zero, its page mapped, and the thread next to issue. -/
def State.withFetchWord (s : State) (nbits w : Nat) : State :=
  let v := w % 2 ^ nbits
  let s := { s with
    agenda := [⟨0, .thread fetchId⟩]
    tasks := [fetchTask], gangs := [fetchGang], threads := [fetchThread]
    dirBase := 0, dirEn := true, pageCheck := [], memTlb := [], egress := [], walks := [], migs := []
    badLines := [], lostFrames := [], retired := [], fences := [] }
  let s := fetchTables.foldl (fun s c => s.writePA c.1 (bytesOfWord c.2)) s
  (tabulate 3 (fun k => k)).foldl (fun s k => s.writePA (32 * 4096 + 8 * k) (bytesOfWord (wordAt v k))) s

end Sys2Proof.Machine
end

