-- ==== Sys2Proof/Safety.lean ====
section
/-! DEFINITION. What counts as a safe run, and the vocabulary that claims about single instructions use: when the issuing
thread may run an instruction, what it means that the instruction completes, and what it leaves alone. -/

namespace Sys2Proof

/-- A machine that has run without a stop for `n` steps. -/
def Safe (s : Machine.State) (n : Nat) : Prop := ∃ s', core.run n s = .next s'

namespace Machine

/-! ## Before an instruction -/

/-- `t` is the issuing thread and nothing stands in the way of `i`: it is a word that some encoding gives; its mode may run it
and the special register it names may be written (R103 step 9, R144); its parts of the context block are in the register
cache (R51); none of its registers is pending (R50); those it reads are valid (R49); the queues hold what it pops and have room
for what it pushes (R175, R176); none of what it reads there holds an uncorrectable error (R340); its views are views that R46 allows; and it does not single-step (R338). -/
structure MayRun (s : State) (t : Thread) (i : Instr) : Prop where
  here   : s.thread? s.cur = some t
  legal  : i.wordWf = true
  mode   : (i.needsPriv && !s.asidPriv (s.asidOf t)) = false
  access : i.noWriteAccess = false
  held   : t.touches i &&& ~~~t.resident = 0
  free   : (i.reads ++ i.writes).any t.isPending = false
  valid  : i.reads.all t.isValid = true
  queues : t.queueFault i = none
  sound  : t.badRead i = none ∧ t.badEntry i = none
  views  : viewsOk t.vwS.toNat t.vwK.toNat t.vwV.toNat = true
  noStep : t.ss = false

/-- The thread as it stands while its instruction runs: past the group, not blocked, with no saved wait. -/
def Thread.begun (t : Thread) : Thread :=
  { t.atGroup with pc := t.pc + 8, block := .none, saved := List.replicate 4 0, zeroed := 0 }

/-- The device as it stands then: reading the status of a command that wrote another device has been an acquire (R205). -/
def State.begun (s : State) (t : Thread) (i : Instr) : State := s.readStatus t.atGroup i

/-! ## After it -/

/-- The group answers a next state, in which the issuing thread is as `post` says. -/
def Completes (i : Instr) (s : State) (t : Thread) (post : State → Thread → Prop) : Prop :=
  ∃ s' t', exec i s = .next s' ∧ s'.thread? t.id = some t' ∧ post s' t'

/-- Of the issuing thread nothing changed but the PC, the register space with its valid granules, FLAGS, SEED, the vector
queues, and what every completed instruction settles: it is not blocked, no `rep` iteration, saved wait or release is left, the
exemptions of a resumption have ended, and with them BPSKIP and WSKIP (R337), the mailboxes among the registers `ws` are noted
as written (R331), a status among them is a plain value again (R205), and they hold no uncorrectable error (R357). -/
def Thread.onlyRegisters (t t' : Thread) (ws : List RegRef) : Prop :=
  t' = { t with
    pc := t'.pc, regs := t'.regs, valid := t'.valid, flags := t'.flags, seed := t'.seed
    lq := t'.lq, lqFly := t'.lqFly, lqHead := t'.lqHead, sq := t'.sq, sqHead := t'.sqHead
    block := .none, saved := List.replicate 4 0, zeroed := 0, passed := false, repLeft := 0, repIter := 0
    trapRec := t.executed.trapRec, resumed := false
    mboxSeen := (t.noteMailboxes (t.granulesOf ws)).mboxSeen
    badRegs := t.badRegs &&& ~~~t.granulesOf ws
    wideStat := t.wideStat &&& ~~~scalarSet ws }

/-- The register space changed only in the granules of the registers listed, which are all valid afterwards (R48). -/
def Thread.wroteOnly (t t' : Thread) (ws : List RegRef) : Prop :=
  (∀ b, (∀ r ∈ ws, (t.granules r).getLsbD (b / 64) = false) → t'.regs.getLsbD b = t.regs.getLsbD b)
    ∧ t'.valid = ws.foldl (fun v r => v ||| t.granules r) t.valid

/-- Nothing of the device changed but the issuing thread (and the remote epoch, which the read of a status that wrote
another device advances: R205, R317): every byte of memory, every other thread, gang, port, engine, stream and register. -/
def State.onlyThread (s s' : State) (t : Thread) : Prop :=
  s' = { s with threads := s'.threads, remEpoch := s'.remEpoch } ∧ ∀ id, id ≠ t.id → s'.thread? id = s.thread? id

/-- A register-only instruction has run: registers `ws` may have changed, the PC is at `pc`, nothing else. -/
structure RegistersOnly (s s' : State) (t t' : Thread) (ws : List RegRef) (pc : Word) : Prop where
  device : s.onlyThread s' t
  thread : t.onlyRegisters t' ws
  wrote  : t.wroteOnly t' ws
  next   : t'.pc = pc

/-- What an instruction leaves beside its destination: FLAGS with what it ORs in (R216), SEED, `lq` without the entries that
its sources popped (R157, R175; of the loads in flight no more than are left, R177), `sq` with what it pushed (R176). -/
structure Leaves (t t' : Thread) (srcs : List VReg) (fl : Flags) (seed : BitVec 32) (push : List VecBits) : Prop where
  flags  : t'.flags = t.flags ||| fl
  seed   : t'.seed = seed
  lq     : t'.lq = t.lq.drop (srcs.count 32)
  lqFly  : t'.lqFly = if srcs.count 32 = 0 then t.lqFly else min t.lqFly (t.lq.length - srcs.count 32)
  lqHead : t'.lqHead = t.lqHead + BitVec.ofNat 2 (srcs.count 32)
  sq     : t'.sq = t.sq ++ push
  sqHead : t'.sqHead = t.sqHead

/-- The instruction completes, writes `x` to scalar register `d` (discarded for s0, R45), and changes nothing else but what
`Leaves` says. -/
def WritesScalar (i : Instr) (s : State) (t : Thread) (d : SReg) (x : Word) (srcs : List VReg := []) (fl : Flags := 0)
    (seed : BitVec 32 := t.seed) (pc : Word := t.pc + 8) : Prop :=
  Completes i s t (fun s' t' => RegistersOnly s s' t t' [.s d] pc ∧ Leaves t t' srcs fl seed []
    ∧ t'.s d = (if d = 0 then 0 else x))

/-- The same for mask register `d` (discarded for k0, R45). -/
def WritesMask (i : Instr) (s : State) (t : Thread) (d : KReg) (x : MaskBits) (srcs : List VReg := []) (fl : Flags := 0) : Prop :=
  Completes i s t (fun s' t' => RegistersOnly s s' t t' [.k d] (t.pc + 8) ∧ Leaves t t' srcs fl t.seed []
    ∧ t'.k d = (if d = 0 then BitVec.allOnes 256 else x))

/-- The same for a vector destination: a register, or a new entry of `sq` (R157). -/
def WritesVector (i : Instr) (s : State) (t : Thread) (d : VReg) (x : VecBits) (srcs : List VReg := []) (fl : Flags := 0)
    (seed : BitVec 32 := t.seed) : Prop :=
  Completes i s t (fun s' t' => RegistersOnly s s' t t' [.v d] (t.pc + 8)
    ∧ Leaves t t' srcs fl seed (if d = 33 then [x] else []) ∧ (d ≠ 33 → t'.v d = x))

/-- The instruction completes with its PC at `pc`, registers `ws` at most written, and nothing else changed. -/
def GoesTo (i : Instr) (s : State) (t : Thread) (pc : Word) (ws : List RegRef := []) : Prop :=
  Completes i s t (fun s' t' => RegistersOnly s s' t t' ws pc ∧ Leaves t t' [] 0 t.seed [])

/-- The instruction takes the trap `info` at its own group, from the state `s₁` that its accesses left: R329 and R330, or
R308 and R331. -/
def TakesTrap (i : Instr) (s s₁ : State) (t : Thread) (info : TrapInfo) : Prop :=
  exec i s = .next (s₁.takeTrap t.atGroup t.pc (info.resume t.pc (t.pc + 8)) i.word info)

/-! ## Sources of vectors, read in the order A, B, C (R157) -/

def Thread.first (t : Thread) (a : VReg) : VecBits := (t.takeV a).1
def Thread.second (t : Thread) (a b : VReg) : VecBits := ((t.takeV a).2.takeV b).1
def Thread.third (t : Thread) (a b c : VReg) : VecBits := (((t.takeV a).2.takeV b).2.takeV c).1

/-! ## Operations at a width -/

/-- An operation on two registers' low W bits, its result sign-extended (R120). -/
def onWidth (w : SWidth) (f : (n : Nat) → BitVec n → BitVec n → BitVec n) (x y : Word) : Word :=
  match w with
  | .w32 => (f 32 (x.setWidth 32) (y.setWidth 32)).signExtend 64
  | .w64 => f 64 x y

/-- The 64-bit form of an immediate, with the upper half of an `imx` before it (R117, R124). -/
def immWord (hi : Option (BitVec 32)) (imm : BitVec 32) : Word :=
  match hi with
  | some h => h ++ imm
  | none => imm.signExtend 64

/-- An instruction word, alone or behind an `imx` (R106, R117). -/
def withImx (hi : Option (BitVec 32)) (i : Instr) : Instr :=
  match hi with
  | some h => .imx h i
  | none => i

/-- Bytes of a group of a word, or of an `imx` and a word, and the PC after it. -/
def imxBytes (hi : Option (BitVec 32)) : Word := if hi.isSome then 16 else 8
def pastImx (hi : Option (BitVec 32)) (pc : Word) : Word := pc + imxBytes hi

/-! ## Operations on lanes (R154, R159) -/

/-- A lane's bits. -/
def laneBits (ty : ElemType) (x : VecBits) (i : Nat) : BitVec ty.width := BitVec.ofNat ty.width (lane x ty.width i)

/-- A vector computed lane by lane from two: enabled lanes take the result, the others are kept or zero (R154). -/
def lanes2 (ty : ElemType) (k : MaskBits) (z : Bool) (old x y : VecBits) (f : (n : Nat) → BitVec n → BitVec n → BitVec n) : VecBits :=
  (laneMap ty k z old (fun i => ((f ty.width (laneBits ty x i) (laneBits ty y i)).toNat, 0))).1

/-- A vector whose enabled lane `i` takes the low bits of `f i` (R154, R164). -/
def lanesBy (ty : ElemType) (k : MaskBits) (z : Bool) (old : VecBits) (f : Nat → Nat) : VecBits :=
  (laneMap ty k z old (fun i => (f i, 0))).1

/-- A draw and the SEED behind it, for an instruction that rounds by `r` (R156, R215). -/
def Thread.drawFor (t : Thread) (r : Rounding) (i : Nat) : Nat := if r = .rs then seedDraw (seedStep t.seed) i else 0
def Thread.seedFor (t : Thread) (r : Rounding) : BitVec 32 := if r = .rs then seedStep t.seed else t.seed

/-- The thread while an instruction runs that an `imx` may precede. -/
def Thread.begunImx (t : Thread) (hi : Option (BitVec 32)) : Thread := { t.begun with pc := pastImx hi t.pc }

/-! ## Accesses to memory (R170 to R172) -/

/-- The elements of an access have been checked and nothing holds them back: `es` is where they lie, and `s₁` the device after
their translation (R172); no watchpoint matches (R336); the parts of the context block that they touch are cached (R51); no
engine command's footprint overlaps them (R204). `value` is what a lane would store, for watchpoints that match values. -/
structure Reaches (s : State) (t : Thread) (i : Instr) (hi : Option (BitVec 32)) (a : Acc) (space : Space) (n : Nat)
    (lanes : List (Nat × Nat)) (value : Nat → Option (Nat × Nat)) (s₁ : State) (es : List Elem) : Prop where
  checked   : State.checkElems (t.begunImx hi) a space n (s.begun t i) lanes = .ok s₁ es
  unwatched : (t.begunImx hi).watchHit a space n (lanes.map (fun l => (l.1, l.2, value l.1))) = none
  cached    : (t.begunImx hi).ctxMissing n es = 0
  unheld    : es.any ((t.begunImx hi).elemHeld a space n) = false

/-- The bytes of a load may be read: every answer from outside has come (R369), no line is damaged (R340), and an SC load at
scope 4 or 5 has its acknowledgements (R183). -/
structure MayLoad (s₁ : State) (t : Thread) (n : Nat) (ord : MemOrd) (sc : Scope) (es : List Elem) : Prop where
  answered : s₁.outside (.thread t.id) t (s₁.asidOf t) (ordAcquires ord && wideScope sc) 1 es = .ready
  whole    : s₁.firstBad (t.begun) n es = none
  released : ord = .sc → s₁.mayRelease t true sc = true

/-- What memory, or an answer from outside, holds for each lane of a load. -/
def loadedLanes (s₁ : State) (t : Thread) (n : Nat) (es : List Elem) : List (Nat × Nat) :=
  es.map (fun e => (e.lane, natOfBytes (s₁.elemBytes (.thread t.id) { t.begun with pc := t.pc } (s₁.asidOf t) e n)))

/-- A request, whether or not its answer may still fill local copies. -/
def Pending.asked' (p : Pending) : Pending := { p with stale := false }

/-- A load has left the device as it stood after the translation and the correction of errors (R357), but for the issuing thread, the
requests that it had sent, the local copies that their answers fill, what other requests may fill there afterwards, and the remote epoch
that an acquire advances (R317). -/
def State.afterLoad (s₁ s' : State) (t : Thread) : Prop :=
  s' = { s₁ with threads := s'.threads, remEpoch := s'.remEpoch, remLines := s'.remLines, pends := s'.pends }
    ∧ s'.pends.map Pending.asked' = (s₁.pends.filter (fun p => !decide (p.owner = .thread t.id))).map Pending.asked'
    ∧ ∀ id, id ≠ t.id → s'.thread? id = s₁.thread? id

/-- The elements of a store lie in this device (its memory, a scratchpad or the thread's register space), each frame of memory
is resident (R315), a release has its acknowledgements (R183), and no thread that single-steps waits at a barrier word (R338:
it would halt when the store releases it, and its context would follow into memory). -/
structure MayStore (s₁ : State) (t : Thread) (ord : MemOrd) (sc : Scope) (es : List Elem) : Prop where
  here     : ∀ e ∈ es, match e.place with
    | .hbm pa _ => s₁.resident pa = true
    | .peer .. => False
    | _ => True
  released : s₁.mayRelease t (ordReleases ord) sc = true
  calm     : ∀ u ∈ s₁.threads, u.block = .bar → u.ss = false

/-- Device memory, a gang with its scratchpad, and the registers of a thread after elements are stored in order. -/
def storedMem (m : Memory) (xs : List (Elem × List Byte)) : Memory :=
  xs.foldl (fun m x => match x.1.place with
    | .hbm pa _ => m.write pa x.2
    | _ => m) m
def storedPad (g : Gang) (xs : List (Elem × List Byte)) : Gang :=
  xs.foldl (fun g x => match x.1.place with
    | .pad key => g.padded key x.2
    | _ => g) g
def storedRegs (t : Thread) (xs : List (Elem × List Byte)) : Thread :=
  xs.foldl (fun t x => match x.1.place with
    | .ctx off => t.ctxWrite off x.2
    | _ => t) t

/-- Of the issuing thread a store changed only what `onlyRegisters` allows, RPC in a handler (R330), the note of the mailboxes
that it stored to, and the errors of the granules that it wrote whole (R357). -/
def Thread.onlyStored (t t' : Thread) : Prop :=
  t.onlyRegisters { t' with trapRec := { t'.trapRec with rpc := t.trapRec.rpc }, mboxSeen := (t.noteMailboxes 0).mboxSeen, badRegs := t.badRegs } []
    ∧ t'.badRegs &&& ~~~t.badRegs = 0

/-- Another thread is as it was, or the store has released it from a barrier word (R187). -/
def keptOrReleased (s₁ s' : State) (id : ThreadId) : Prop :=
  ∀ u, s₁.thread? id = some u → ∃ u', s'.thread? id = some u' ∧
    (u' = u ∨ (u.block = .bar ∧ u' = u.released u'.readyAt))

/-- A store has changed the bytes it stores and nothing else: memory and the gang's scratchpad are as `storedMem` and
`storedPad` give; every byte of memory outside the elements reads as before; beside them only the memory copies of dirty lines (R178), the watch filter
(R277), the threads that the store released, the remote epoch and the order of the cycle's accesses (R371) may differ. After it no
thread stays blocked on a barrier word that has completed its phase (R187). -/
structure Stored (s₁ s' : State) (t : Thread) (xs : List (Elem × List Byte)) : Prop where
  device : s' = { s₁ with mem := storedMem s₁.mem xs, copies := s'.copies, gangs := s'.gangs, threads := s'.threads, watched := s'.watched
                          remEpoch := s'.remEpoch, cycle := s'.cycle, marks := s'.marks, marksAt := s'.marksAt }
  later  : s₁.cycle ≤ s'.cycle
  frame  : ∀ a, (∀ x ∈ xs, match x.1.place with
      | .hbm pa _ => a < pa ∨ pa + x.2.length ≤ a
      | _ => True) → s'.readPA a 1 = s₁.readPA a 1
  pad    : ∀ g, s₁.gang? t.id.task t.id.gang = some g →
    s'.gang? t.id.task t.id.gang = some (storedPad g xs)
  gangs  : ∀ task index, (task, index) ≠ (t.id.task, t.id.gang) → s'.gang? task index = s₁.gang? task index
  others : ∀ id, id ≠ t.id → keptOrReleased s₁ s' id
  woken  : (∃ x ∈ xs, ∀ off, x.1.place ≠ .ctx off) →
    ∀ id u, id ≠ t.id → s'.thread? id = some u → u.block = .bar → u.waitsHere = true → s'.barPassed u = false

/-! ## What an instruction leaves, written out -/

/-- The thread after an instruction that has written registers `ws` at most, those writes aside: past its group, not blocked, no
`rep` iteration, saved wait or release left, the exemptions of a resumption ended (R337), the mailboxes among `ws` noted (R331), a
status among them a plain value again (R205), and no error in them (R357). -/
def Thread.done (t : Thread) (ws : List RegRef := []) : Thread :=
  { t.begun with
    trapRec := t.executed.trapRec, resumed := false
    mboxSeen := (t.noteMailboxes (t.granulesOf ws)).mboxSeen
    badRegs := t.badRegs &&& ~~~t.granulesOf ws
    wideStat := t.wideStat &&& ~~~scalarSet ws }

/-- The instruction answers a next state: the device as `s₁` has it, every other thread of it included, and the issuing thread as
`u`. -/
def Answers (i : Instr) (s s₁ : State) (u : Thread) : Prop :=
  ∃ s', exec i s = .next s' ∧ s' = { s₁ with threads := s'.threads } ∧ s'.thread? u.id = some u
    ∧ ∀ id, id ≠ u.id → s'.thread? id = s₁.thread? id

/-- The words at a VA of a thread's address space, each on a page that it may execute, resident, undamaged and stored by no running
task of the ASID (R103 steps 1 and 2, R129); `s'` is the device after their translation and the correction of their errors (R357). -/
def State.wordsAt (core : Option Nat) (asid : Nat) : State → Word → List Word → State → Prop
  | s, _, [], s' => s' = s
  | s, va, w :: ws, s' => va.toNat % 8 = 0 ∧ ∃ s₁ page size leaf,
      s.translate core asid va.toNat ⟨false, false, true, !s.asidPriv asid⟩ = .ok s₁ page size leaf ∧ pteMode leaf = 0
      ∧ s₁.badAt (leafPA page leaf va.toNat) 8 = false ∧ s₁.resident (leafPA page leaf va.toNat) = true
      ∧ s₁.copies.code.all (fun o => !(o.asid == asid && o.word == leafPA page leaf va.toNat / 8)) = true
      ∧ s₁.readWordPA (leafPA page leaf va.toNat) = w
      ∧ State.wordsAt core asid (s₁.corrected (leafPA page leaf va.toNat) 8) (va + 8) ws s'

end Machine

end Sys2Proof
end

