-- ==== Sys2Proof/Certificates/Slice0/Obligations.lean ====
section
/-! DEFINITION. The statements about the model, for the provers. OBLIGATIONS.json names the rule or section that each one
formalises. Every premise is on the state and the operands alone; Tests/Slice0.lean shows a state that meets each. -/

open Sys2Proof Sys2Proof.Machine

/-! ## The scalar register family, major 0x10 -/

/-- R120: each member writes its result into S(D), sign-extended from bit 31 under TYPE 2, and changes nothing else. -/
def Obligations.ScalarArithmetic : Prop :=
  ∀ (s : State) (t : Thread) (w : SWidth) (d a b : SReg),
  ∀ p ∈ ([(.add w d a b, fun _ x y => x + y),
      (.sub w d a b, fun _ x y => x - y),
      (.mul w d a b, fun _ x y => x * y),
      (.mulh w d a b, fun n x y => (x.signExtend (2 * n) * y.signExtend (2 * n)).extractLsb' n n),
      (.mulhn w d a b, fun n x y => (x.zeroExtend (2 * n) * y.zeroExtend (2 * n)).extractLsb' n n),
      (.and w d a b, fun _ x y => x &&& y),
      (.or w d a b, fun _ x y => x ||| y),
      (.xor w d a b, fun _ x y => x ^^^ y),
      (.andn w d a b, fun _ x y => x &&& ~~~y),
      (.shl w d a b, fun n x y => x <<< (y.toNat % n)),
      (.shr w d a b, fun n x y => x >>> (y.toNat % n)),
      (.sar w d a b, fun n x y => x.sshiftRight (y.toNat % n)),
      (.rol w d a b, fun n x y => x.rotateLeft (y.toNat % n)),
      (.min w d a b, fun _ x y => if x.slt y then x else y),
      (.max w d a b, fun _ x y => if x.slt y then y else x),
      (.minn w d a b, fun _ x y => if x.ult y then x else y),
      (.maxn w d a b, fun _ x y => if x.ult y then y else x)] :
      List (Instr × ((n : Nat) → BitVec n → BitVec n → BitVec n))),
    MayRun s t p.1 → WritesScalar p.1 s t d (onWidth w p.2 (t.s a) (t.s b))

/-- R120, R122: a division by another number than 0 writes the quotient or the remainder, and changes nothing else; a division by 0
raises ARITH with no effect of its own. -/
def Obligations.ScalarDivision : Prop :=
  ∀ (s : State) (t : Thread) (w : SWidth) (d a b : SReg),
  ∀ p ∈ ([(.div w d a b, fun _ x y => x.sdiv y),
      (.divn w d a b, fun _ x y => x / y),
      (.rem w d a b, fun _ x y => x.srem y),
      (.remn w d a b, fun _ x y => x % y)] : List (Instr × ((n : Nat) → BitVec n → BitVec n → BitVec n))),
    MayRun s t p.1 →
      ((t.s b).toNat % 2 ^ w.bits ≠ 0 → WritesScalar p.1 s t d (onWidth w p.2 (t.s a) (t.s b)))
      ∧ ((t.s b).toNat % 2 ^ w.bits = 0 → TakesTrap p.1 s (s.begun t p.1) t { cause := .arith, detail := 1 })

/-- R120: `clz` counts the zeros above the highest one, `ctz` those below the lowest, W for 0; `pop` counts the ones; `sel`
takes A when C is not 0. -/
def Obligations.ScalarBits : Prop :=
  ∀ (s : State) (t : Thread) (w : SWidth) (d a b c : SReg),
    let n := w.bits
    (∀ k ≤ n, MayRun s t (.clz w d a) → (∀ j < k, (t.s a).getLsbD (n - 1 - j) = false)
        → (k < n → (t.s a).getLsbD (n - 1 - k) = true) → WritesScalar (.clz w d a) s t d (BitVec.ofNat 64 k))
    ∧ (∀ k ≤ n, MayRun s t (.ctz w d a) → (∀ j < k, (t.s a).getLsbD j = false) → (k < n → (t.s a).getLsbD k = true)
        → WritesScalar (.ctz w d a) s t d (BitVec.ofNat 64 k))
    ∧ (MayRun s t (.pop w d a) → WritesScalar (.pop w d a) s t d
        (BitVec.ofNat 64 ((List.range n).countP (fun j => (t.s a).getLsbD j))))
    ∧ (MayRun s t (.sel w d a b c) → WritesScalar (.sel w d a b c) s t d
        (onWidth w (fun _ x y => if (t.s c).toNat % 2 ^ n = 0 then y else x) (t.s a) (t.s b)))

/-- R121, R124: `cmp` writes 1 when its condition holds of the low W bits of the two sources, else 0; `cmpi`, alone or behind an
`imx`, compares S(A) with the immediate. -/
def Obligations.ScalarCompare : Prop :=
  ∀ (s : State) (t : Thread) (hi : Option (BitVec 32)) (w : SWidth) (d a b : SReg) (imm : BitVec 32),
  ∀ p ∈ ([(.eq, fun _ x y => x == y), (.ne, fun _ x y => x != y), (.lt, fun _ x y => x.slt y), (.ge, fun _ x y => !x.slt y),
      (.ltn, fun _ x y => x.ult y), (.gen, fun _ x y => !x.ult y)] : List (Cond × ((n : Nat) → BitVec n → BitVec n → Bool))),
    let holds (x y : Word) : Bool := match w with
      | .w32 => p.2 32 (x.setWidth 32) (y.setWidth 32)
      | .w64 => p.2 64 x y
    (MayRun s t (.cmp w p.1 d a b) →
      WritesScalar (.cmp w p.1 d a b) s t d (if holds (t.s a) (t.s b) then 1 else 0))
    ∧ (MayRun s t (.cmpi w p.1 d a imm) →
      WritesScalar (withImx hi (.cmpi w p.1 d a imm)) s t d (if holds (t.s a) (immWord hi imm) then 1 else 0)
        (pc := pastImx hi t.pc))

/-! ## The scalar immediate family, major 0x11, and `imx` -/

/-- R117, R124: each member that takes a full immediate, alone or behind an `imx` that supplies its upper half. -/
def Obligations.ScalarImmediate : Prop :=
  ∀ (s : State) (t : Thread) (hi : Option (BitVec 32)) (w : SWidth) (d a : SReg) (imm : BitVec 32),
  ∀ p ∈ ([(.li .i64 d imm, immWord hi imm),
      (.lih d a imm, imm ++ (t.s a).extractLsb' 0 32),
      (.addi w d a imm, onWidth w (fun _ x y => x + y) (t.s a) (immWord hi imm)),
      (.andi w d a imm, onWidth w (fun _ x y => x &&& y) (t.s a) (immWord hi imm)),
      (.ori w d a imm, onWidth w (fun _ x y => x ||| y) (t.s a) (immWord hi imm)),
      (.xori w d a imm, onWidth w (fun _ x y => x ^^^ y) (t.s a) (immWord hi imm)),
      (.adr d imm, t.pc + immWord hi imm)] : List (Instr × Word)),
    MayRun s t p.1 → (hi.isSome = true → p.1.imxOk = true) →
      WritesScalar (withImx hi p.1) s t d p.2 (pc := pastImx hi t.pc)

/-- R124: the members that no `imx` may stand before: constants of the float formats, zero-extended, and shifts by an immediate
below W. -/
def Obligations.ShortImmediate : Prop :=
  ∀ (s : State) (t : Thread) (w : SWidth) (d a : SReg) (imm : BitVec 32),
  ∀ p ∈ ([(.li .f32 d imm, imm.zeroExtend 64),
      (.li .f16 d imm, imm.zeroExtend 64),
      (.li .bf16 d imm, imm.zeroExtend 64),
      (.shli w d a imm, onWidth w (fun _ x _ => x <<< imm.toNat) (t.s a) 0),
      (.shri w d a imm, onWidth w (fun _ x _ => x >>> imm.toNat) (t.s a) 0),
      (.sari w d a imm, onWidth w (fun _ x _ => x.sshiftRight imm.toNat) (t.s a) 0)] : List (Instr × Word)),
    MayRun s t p.1 → WritesScalar p.1 s t d p.2

/-! ## Control, major 0x60, and the hint -/

/-- R90, R126, R127: a branch goes to its own address plus eight times its offset when it is taken, else to the next group; it
changes nothing else. A taken one needs a target below 2^57. -/
def Obligations.Branches : Prop :=
  ∀ (s : State) (t : Thread) (a : SReg) (k : KReg) (off : BitVec 33),
  ∀ p ∈ ([(.bra off, true),
      (.br .eqz a off, t.s a == 0), (.br .nez a off, t.s a != 0), (.br .ltz a off, (t.s a).slt 0),
      (.br .gez a off, !(t.s a).slt 0), (.br .gtz a off, (0#64).slt (t.s a)), (.br .lez a off, !(0#64).slt (t.s a)),
      (.brany k off, t.k k != 0), (.brall k off, t.k k == BitVec.allOnes 256)] : List (Instr × Bool)),
    MayRun s t p.1 → let target := t.pc + off.signExtend 64 * 8
      (p.2 = false → GoesTo p.1 s t (t.pc + 8))
      ∧ (p.2 = true → target.toNat < 2 ^ 57 → GoesTo p.1 s t target)
      ∧ (p.2 = true → 2 ^ 57 ≤ target.toNat → TakesTrap p.1 s (s.begun t p.1) t { cause := .addr, detail := 9, addr := target })

/-- R127: a jump to a register's value, which must be a multiple of 8 and lie below 2^57; `call` and `callr` leave the address of
the next word in S(D), and `callr` reads S(A) first. A target that is no multiple of 8 raises ALIGN, one of 2^57 or more ADDR. -/
def Obligations.Jumps : Prop :=
  ∀ (s : State) (t : Thread) (d a : SReg) (off : BitVec 33),
    (∀ i ∈ [Instr.jr a, .ret a], MayRun s t i → (t.s a).toNat % 8 = 0 → (t.s a).toNat < 2 ^ 57 → GoesTo i s t (t.s a))
    ∧ (∀ p ∈ ([(.call d off, t.pc + off.signExtend 64 * 8), (.callr d a, t.s a)] : List (Instr × Word)),
        MayRun s t p.1 → (p.1 = .callr d a → p.2.toNat % 8 = 0) → p.2.toNat < 2 ^ 57 →
          WritesScalar p.1 s t d (t.pc + 8) (pc := p.2))
    ∧ (∀ i ∈ [Instr.jr a, .ret a, .callr d a], MayRun s t i → (t.s a).toNat % 8 ≠ 0 →
        TakesTrap i s (s.begun t i) t { cause := .align, detail := 2, addr := t.s a })
    ∧ (∀ p ∈ ([(.jr a, t.s a), (.ret a, t.s a), (.callr d a, t.s a)] : List (Instr × Word)),
        MayRun s t p.1 → p.2.toNat % 8 = 0 → 2 ^ 57 ≤ p.2.toNat →
          TakesTrap p.1 s (s.begun t p.1) t { cause := .addr, detail := 9, addr := p.2 })
    ∧ (MayRun s t (.call d off) → 2 ^ 57 ≤ (t.pc + off.signExtend 64 * 8).toNat →
        TakesTrap (.call d off) s (s.begun t (.call d off)) t { cause := .addr, detail := 9, addr := t.pc + off.signExtend 64 * 8 })

/-- R104: the hint word, alone or behind a prefix, only moves the PC past its group. R128: `brk` and `trap` take BRK and TRAPI with
IMM32 in ADDR, and resume past the group. -/
def Obligations.HintsAndSoftwareTraps : Prop :=
  ∀ (s : State) (t : Thread) (hi : Option (BitVec 32)) (bits : BitVec 60) (imm : BitVec 32),
  (MayRun s t (.nop bits) → GoesTo (withImx hi (.nop bits)) s t (pastImx hi t.pc)
    ∧ GoesTo (.uni (.nop bits)) s t (t.pc + 16) ∧ ∀ n d a b c, GoesTo (.rep n d a b c (.nop bits)) s t (t.pc + 16)) ∧
  ∀ p ∈ ([(.brk imm, .brk), (.trap imm, .trapi)] : List (Instr × Cause)),
    MayRun s t p.1 → exec p.1 s = .next ((s.begun t p.1).takeTrap t.atGroup t.pc (t.pc + 8) p.1.word
      { cause := p.2, detail := 0, addr := imm.zeroExtend 64 })

/-! ## Vector families, majors 0x20 to 0x24 -/

/-- R154: of a vector computed under a mask, an enabled lane holds the low bits of its result, and another one zero with `.z`,
else what it held. -/
def Obligations.LaneRule : Prop :=
  ∀ (ty : ElemType) (k : MaskBits) (z : Bool) (old : VecBits) (f : Nat → Nat × Flags) (i : Nat), i < ty.lanes →
    lane (laneMap ty k z old f).1 ty.width i
      = if laneOn k ty i then (f i).1 % 2 ^ ty.width else if z then 0 else lane old ty.width i

/-- R159: the vector integer operations whose lanes wrap; absolute value and negation wrap at the most negative value. -/
def Obligations.VectorInteger : Prop :=
  ∀ (s : State) (t : Thread) (ty : ElemType) (z : Bool) (k : KReg) (d a b : VReg),
  (∀ p ∈ ([(.vadd ty z k d a b, fun _ x y => x + y),
      (.vsub ty z k d a b, fun _ x y => x - y),
      (.vmul ty z k d a b, fun _ x y => x * y),
      (.vmulh ty z k d a b, fun n x y =>
        if ty.signed then (x.signExtend (2 * n) * y.signExtend (2 * n)).extractLsb' n n
        else (x.zeroExtend (2 * n) * y.zeroExtend (2 * n)).extractLsb' n n),
      (.vand ty z k d a b, fun _ x y => x &&& y),
      (.vor ty z k d a b, fun _ x y => x ||| y),
      (.vxor ty z k d a b, fun _ x y => x ^^^ y),
      (.vandn ty z k d a b, fun _ x y => x &&& ~~~y),
      (.vshl ty z k d a b, fun n x y => x <<< (y.toNat % n)),
      (.vshr ty z k d a b, fun n x y => x >>> (y.toNat % n)),
      (.vsar ty z k d a b, fun n x y => x.sshiftRight (y.toNat % n)),
      (.vmin ty z k d a b, fun _ x y => if (if ty.signed then x.slt y else x.ult y) then x else y),
      (.vmax ty z k d a b, fun _ x y => if (if ty.signed then x.slt y else x.ult y) then y else x)] :
      List (Instr × ((n : Nat) → BitVec n → BitVec n → BitVec n))),
    MayRun s t p.1 →
      WritesVector p.1 s t d (lanes2 ty (t.k k) z (t.oldV d) (t.first a) (t.second a b) p.2) [a, b])
  ∧ ∀ p ∈ ([(.vabs ty z k d a, fun _ x _ => if x.msb then -x else x), (.vneg ty z k d a, fun _ x _ => -x)] :
      List (Instr × ((n : Nat) → BitVec n → BitVec n → BitVec n))),
    MayRun s t p.1 → WritesVector p.1 s t d (lanes2 ty (t.k k) z (t.oldV d) (t.first a) 0 p.2) [a]

/-- R159, R216: the saturating operations clamp the exact result to the type's range, and an enabled lane that was clamped
raises the saturation flag. -/
def Obligations.VectorSaturating : Prop :=
  ∀ (s : State) (t : Thread) (ty : ElemType) (z : Bool) (k : KReg) (d a b : VReg),
  ∀ p ∈ ([(.vadds ty z k d a b, fun x y => x + y), (.vsubs ty z k d a b, fun x y => x - y)] : List (Instr × (Int → Int → Int))),
    MayRun s t p.1 →
      let exact (i : Nat) : Int := p.2 (laneInt ty (lane (t.first a) ty.width i)) (laneInt ty (lane (t.second a b) ty.width i))
      let clamped (i : Nat) : Int := max ty.least (min (exact i) ty.greatest)
      WritesVector p.1 s t d (lanesBy ty (t.k k) z (t.oldV d) (fun i => (BitVec.ofInt ty.width (clamped i)).toNat)) [a, b]
        (if (List.range ty.lanes).any (fun i => laneOn (t.k k) ty i && clamped i != exact i) then Flags.sat else 0)

/-- R156, R162, R215: the vector float operations round each enabled lane by RND, OR the lanes' flags into FLAGS, and advance
SEED once under RS whatever the mask; `vfabs` and `vfneg` only change the sign, raise no flag and draw nothing. -/
def Obligations.VectorFloat : Prop :=
  ∀ (s : State) (t : Thread) (ty : ElemType) (r : Rounding) (k : KReg) (d a b : VReg),
  (∀ p ∈ ([(.vfadd ty r k d a b, fpAdd ty.fmt r),
      (.vfsub ty r k d a b, fpSub ty.fmt r),
      (.vfmul ty r k d a b, fpMul ty.fmt r),
      (.vfdiv ty r k d a b, fpDiv ty.fmt r),
      (.vfmin ty r k d a b, fun _ x y => fpMin ty.fmt x y),
      (.vfmax ty r k d a b, fun _ x y => fpMax ty.fmt x y),
      (.vfscale ty r k d a b, fun n x y => fpScale ty.fmt r n x (signedNat y ty.fmt.width))] :
      List (Instr × (Nat → Nat → Nat → Nat × Flags))),
    MayRun s t p.1 →
      let v := laneMap ty (t.k k) false (t.oldV d)
        (fun i => p.2 (t.drawFor r i) (lane (t.first a) ty.width i) (lane (t.second a b) ty.width i))
      WritesVector p.1 s t d v.1 [a, b] v.2 (t.seedFor r))
    ∧ (∀ p ∈ ([(.vfsqrt ty r k d a, fpSqrt ty.fmt r),
        (.vfrcp ty r k d a, fpRcp ty.fmt r),
        (.vfrsq ty r k d a, fpRsq ty.fmt r),
        (.vfexp2 ty r k d a, fun n x => nanOr ty.fmt [x] (fpExp2 ty.fmt r n x)),
        (.vflog2 ty r k d a, fun n x => nanOr ty.fmt [x] (fpLog2 ty.fmt r n x))] : List (Instr × (Nat → Nat → Nat × Flags))),
      MayRun s t p.1 →
        let v := laneMap ty (t.k k) false (t.oldV d) (fun i => p.2 (t.drawFor r i) (lane (t.first a) ty.width i))
        WritesVector p.1 s t d v.1 [a] v.2 (t.seedFor r))
    ∧ ∀ p ∈ ([(.vfabs ty k d a, fun _ x _ => x &&& ~~~BitVec.twoPow _ (ty.width - 1)),
        (.vfneg ty k d a, fun _ x _ => x ^^^ BitVec.twoPow _ (ty.width - 1))] :
        List (Instr × ((n : Nat) → BitVec n → BitVec n → BitVec n))),
      MayRun s t p.1 → WritesVector p.1 s t d (lanes2 ty (t.k k) false (t.oldV d) (t.first a) 0 p.2) [a]

/-- R162: the fused operations round a × b + c, a × b − c and −(a × b) + c once. -/
def Obligations.FusedMultiplyAdd : Prop :=
  ∀ (s : State) (t : Thread) (ty : ElemType) (r : Rounding) (k : KReg) (d a b c : VReg),
  ∀ p ∈ ([(.vfma ty r k d a b c, fpFma ty.fmt r false false),
      (.vfms ty r k d a b c, fpFma ty.fmt r false true),
      (.vfnma ty r k d a b c, fpFma ty.fmt r true false)] : List (Instr × (Nat → Nat → Nat → Nat → Nat × Flags))),
    MayRun s t p.1 →
      let v := laneMap ty (t.k k) false (t.oldV d) (fun i => p.2 (t.drawFor r i) (lane (t.first a) ty.width i)
        (lane (t.second a b) ty.width i) (lane (t.third a b c) ty.width i))
      WritesVector p.1 s t d v.1 [a, b, c] v.2 (t.seedFor r)

/-- R164: movement by lane. Each enabled lane takes the lane of a source that its entry names, or 0. -/
def Obligations.VectorMovement : Prop :=
  ∀ (s : State) (t : Thread) (ty : ElemType) (z o : Bool) (k c : KReg) (d a b : VReg) (sa sb : SReg),
    let x := t.first a
    let y := t.second a b
    let n := ty.lanes
    let at' (v : VecBits) (i : Nat) := lane v ty.width i
    let j (i : Nat) : Int := i + (t.s sb).toInt
  ∀ p ∈ ([(.vbcast ty z k d sa, [], fun _ => (t.s sa).toNat),
      (.vperm ty z k d a b, [a, b], fun i => at' x (at' y i % n)),
      (.vslide ty z k d a sb, [a], fun i => if 0 ≤ j i ∧ j i < n then at' x (j i).toNat else 0),
      (.vzip ty z o k d a b, [a, b], fun i => at' (if i % 2 = 0 then x else y) ((if o then n / 2 else 0) + i / 2)),
      (.vunzip ty z o k d a b, [a, b], fun i => at' (if i < n / 2 then x else y) (2 * (i % (n / 2)) + o.toNat)),
      (.vsel ty z k d a b c, [a, b], fun i => at' (if laneOn (t.k c) ty i then x else y) i),
      (.vexpd ty z k d a, [a], fun i => at' x ((List.range i).countP (laneOn (t.k k) ty)))] :
      List (Instr × List VReg × (Nat → Nat))),
    MayRun s t p.1 → WritesVector p.1 s t d (lanesBy ty (t.k k) z (t.oldV d) p.2.2) p.2.1

/-- R164: `vmov` moves byte lanes; `vins` replaces one lane of D; `vext` reads one lane of A; `vcomp` packs the enabled lanes into
the low ones. -/
def Obligations.VectorSingle : Prop :=
  ∀ (s : State) (t : Thread) (ty : ElemType) (z : Bool) (k : KReg) (d a : VReg) (sd sa sb : SReg),
    let m := (t.s sb).toNat % ty.lanes
    (MayRun s t (.vmov z k d a) →
      WritesVector (.vmov z k d a) s t d (lanesBy .n8 (t.k k) z (t.oldV d) (fun i => lane (t.first a) 8 i)) [a])
    ∧ (MayRun s t (.vins ty z k d sa sb) → WritesVector (.vins ty z k d sa sb) s t d
        (lanesBy ty (t.k k) z (t.oldV d) (fun i => if i = m then (t.s sa).toNat else lane (t.oldV d) ty.width i)))
    ∧ (MayRun s t (.vext ty sd a sb) →
        WritesScalar (.vext ty sd a sb) s t sd (BitVec.ofNat 64 (lane (t.first a) ty.width m)) [a])
    ∧ (MayRun s t (.vcomp ty z k d a) →
        let es := ((List.range ty.lanes).filter (laneOn (t.k k) ty)).map (lane (t.first a) ty.width)
        WritesVector (.vcomp ty z k d a) s t d
          (lanesBy ty (BitVec.allOnes 256) false 0 (fun i => es.getD i (if z then 0 else lane (t.oldV d) ty.width i))) [a])

/-- R165: a reduction combines the enabled lanes of A along its tree into S(D); without an enabled lane the result is +0, or the
least or greatest value of the type. With one enabled lane the tree gives that lane, with no flag. -/
def Obligations.Reductions : Prop :=
  (∀ (op : Nat → Nat → Nat → Nat × Flags) (depth base i x : Nat), i < 2 ^ depth →
    reduceTree op depth base ((List.replicate (2 ^ depth) none).set i (some x)) = (some x, 0)
    ∧ reduceTree op depth base (List.replicate (2 ^ depth) none) = (none, 0)) ∧
  ∀ (s : State) (t : Thread) (ty : ElemType) (r : Rounding) (k : KReg) (d : SReg) (a : VReg),
  ∀ p ∈ ([(.vredsum ty r k d a, 0, t.seedFor r, fun i x y => laneAdd ty r (t.drawFor r i) x y),
      (.vredmax ty k d a, laneLeast ty, t.seed, fun _ x y => laneMax ty x y),
      (.vredmin ty k d a, laneGreatest ty, t.seed, fun _ x y => laneMin ty x y)] :
      List (Instr × Nat × BitVec 32 × (Nat → Nat → Nat → Nat × Flags))),
    MayRun s t p.1 →
      let q := reduceTree p.2.2.2 (Nat.log2 ty.lanes) 0
        (tabulate ty.lanes (fun i => if laneOn (t.k k) ty i then some (lane (t.first a) ty.width i) else none))
      let v := q.1.getD p.2.1
      WritesScalar p.1 s t d (if ty.signed then (BitVec.ofNat ty.width v).signExtend 64 else BitVec.ofNat 64 v) [a] q.2 p.2.2.1

/-- R166: `vscan` writes inclusive prefix sums over the enabled lanes. -/
def Obligations.Scan : Prop :=
  ∀ (s : State) (t : Thread) (ty : ElemType) (r : Rounding) (z : Bool) (k : KReg) (d a : VReg),
    MayRun s t (.vscan ty r z k d a) →
      let q := scanLanes (fun i p q => laneAdd ty r (t.drawFor r i) p q) 0 none
        (tabulate ty.lanes (fun i => if laneOn (t.k k) ty i then some (lane (t.first a) ty.width i) else none))
      WritesVector (.vscan ty r z k d a) s t d (lanesBy ty (t.k k) z (t.oldV d) (fun i => q.1.getD i 0)) [a] q.2 (t.seedFor r)

/-- R167, R168: comparisons write every mask bit of an enabled lane with the lane's truth; the float ones OR their flags. -/
def Obligations.VectorCompare : Prop :=
  ∀ (s : State) (t : Thread) (ty : ElemType) (cond : VCond) (z : Bool) (k d : KReg) (a b : VReg) (sb : SReg),
    let on := laneOn (t.k k) ty
    let x := lane (t.first a) ty.width
    let y := lane (t.second a b) ty.width
    let put (f : Nat → Bool) := maskMap ty (t.k k) z (t.k d) f
    (MayRun s t (.vcmp ty cond z k d a b) →
      WritesMask (.vcmp ty cond z k d a b) s t d (put (fun i => vcmpHolds cond (laneInt ty (x i)) (laneInt ty (y i)))) [a, b])
    ∧ (MayRun s t (.vfcmp ty cond z k d a b) →
      WritesMask (.vfcmp ty cond z k d a b) s t d (put (fun i => (fpCmp ty.fmt cond (x i) (y i)).1)) [a, b]
        (((List.range ty.lanes).filter on).foldl (fun f i => f ||| (fpCmp ty.fmt cond (x i) (y i)).2) 0))
    ∧ (MayRun s t (.vfclass ty z k d a sb) →
      WritesMask (.vfclass ty z k d a sb) s t d (put (fun i => (t.s sb).getLsbD (fpClass ty.fmt (x i)))) [a])

/-- R169: operations on whole masks. -/
def Obligations.MaskOperations : Prop :=
  ∀ (s : State) (t : Thread) (d a b : KReg),
  ∀ p ∈ ([(.kand d a b, t.k a &&& t.k b), (.kor d a b, t.k a ||| t.k b), (.kxor d a b, t.k a ^^^ t.k b), (.knot d a, ~~~t.k a),
      (.kmov d a, t.k a)] : List (Instr × MaskBits)),
    MayRun s t p.1 → WritesMask p.1 s t d p.2

/-- R19, R169: a mask's enabled lanes counted, the first of them, the lowest lanes set, and a quarter of a mask read. -/
def Obligations.MaskLanes : Prop :=
  ∀ (s : State) (t : Thread) (ty : ElemType) (d a : KReg) (sd sa sb : SReg),
    (∀ p ∈ ([(.kpop ty sd a, BitVec.ofNat 64 ((maskLanes ty (t.k a)).countP id)),
        (.kfirst ty sd a, BitVec.ofNat 64 ((maskLanes ty (t.k a)).findIdx id)),
        (.kget sd a sb, (t.k a).extractLsb' (64 * ((t.s sb).toNat % 4)) 64)] : List (Instr × Word)),
      MayRun s t p.1 → WritesScalar p.1 s t sd p.2)
    ∧ (MayRun s t (.kset ty d sa) → WritesMask (.kset ty d sa) s t d
        (onesAt 256 0 (ty.bytes * min ty.lanes (t.s sa).toInt.toNat)))

/-- R217, R218, R220, R221: conversions of lanes into lanes, by part; the flags of the enabled lanes are ORed. -/
def Obligations.Conversions : Prop :=
  ∀ (s : State) (t : Thread) (td ts : ElemType) (src : SrcSel) (r : Rounding) (nsat : Bool) (part : BitVec 3) (k : KReg) (d a b : VReg)
    (sb : SReg),
    let x := t.first a
    let y := t.second a b
    let wide (n : Nat) : Int := if td.signed then signedNat n (2 * td.width) else n
    let narrow (n : Nat) : Int := if td.signed then signedNat n (td.width / 2) else n
    let cs := sliceOf td ts part
  ∀ p ∈ ([(.vcvt td ts r nsat part k d a, [a], t.seedFor r, fun i =>
        if cs.1 ≤ i ∧ i < cs.1 + cs.2.1 then convertLane td ts r nsat (t.drawFor r i) (lane x ts.width (cs.2.2 + (i - cs.1)))
        else (lane (t.oldV d) td.width i, 0)),
      (.vcvtd td src r part k d a sb, [a], t.seedFor r, fun i =>
        if lane (t.s sb) 8 (i / 32) = 0xFF then (td.fmt.nan, 0)
        else roundTo td.fmt r (t.drawFor r i) false
          (scaleDown (laneReal src.narrow (lane x src.narrow.width (part.toNat * td.lanes + i))) (127 - lane (t.s sb) 8 (i / 32)))),
      (.vpack td k d a b, [a, b], t.seed, fun i =>
        let q := satClamp (wide (lane (if i < td.lanes / 2 then x else y) (2 * td.width) (i % (td.lanes / 2)))) td.least td.greatest
        (intLane td q.1, q.2)),
      (.vunpack td part k d a, [a], t.seed, fun i =>
        (intLane td (narrow (lane x (td.width / 2) (part.toNat * td.lanes + i))), 0))] :
      List (Instr × List VReg × BitVec 32 × (Nat → Nat × Flags))),
    MayRun s t p.1 →
      let v := laneMap td (t.k k) false (t.oldV d) p.2.2.2
      WritesVector p.1 s t d v.1 p.2.1 v.2 p.2.2.1

/-- R219: `vcvtq` quantises blocks of 32 elements: V(D) takes the elements of the part over the block's scale, and S(B) the scale
bytes; a block that holds an infinity or a NaN takes scale 0xFF and raises invalid whatever the mask (log 22). -/
def Obligations.BlockQuantisation : Prop :=
  ∀ (s : State) (t : Thread) (td : ElemType) (src : SrcSel) (r : Rounding) (nsat : Bool) (part : BitVec 3) (k : KReg) (d a : VReg)
    (b : SReg),
    let i := Instr.vcvtq td src r nsat part k d a b
    let xs := tabulate src.wide.lanes (fun j => laneReal src.wide (lane (t.first a) src.wide.width j))
    let blocks := (chunks 32 xs).map (blockScale td)
    let v := convertSlice td (t.k k) (t.oldV d) (part.toNat * src.wide.lanes) src.wide.lanes (fun n j =>
      match (blocks.getD (j / 32) (0, none, 0)).2.1 with
      | some sh => roundTo td.fmt r (t.drawFor r n) nsat (scaleDown (xs.getD j .nan) sh)
      | none => (0, 0))
    MayRun s t i →
      Completes i s t (fun s' t' => RegistersOnly s s' t t' [.v d, .s b] (t.pc + 8)
        ∧ Leaves t t' [a] (blocks.foldl (fun f p => f ||| p.2.2) v.2) (t.seedFor r) (if d = 33 then [v.1] else [])
        ∧ t'.s b = (if b = 0 then 0 else BitVec.ofNat 64 (natOfLanes 8 (blocks.map (·.1))))
        ∧ (d ≠ 33 → t.granules (.v d) &&& t.granules (.s b) = 0 → t'.v d = v.1))

/-! ## Loads and stores, majors 0x40 and 0x41 -/

/-- R312, R305: a translation that succeeds changes no register of the device but the stores of translations, and of memory (with what
caches hold of it) only the ACCESSED and DIRTY bits of the leaf that it walks to. Before that, a walk has read its nodes, which matters
only where errors lie: they are counted, or cost their lines (R357, R358). -/
def Obligations.TranslationFrame : Prop :=
  ∀ (s s₁ : State) (core : Option Nat) (asid va : Nat) (need : Need) (page size : Nat) (leaf : Word),
    s.translate core asid va need = .ok s₁ page size leaf →
      let r := s.readNodes asid va
      (∃ s₀, (s₀ = s ∨ s₀ = r)
        ∧ s₁ = { s₀ with mem := s₁.mem, copies := s₁.copies, memTlb := s₁.memTlb, pageCheck := s₁.pageCheck, egress := s₁.egress }
        ∧ (s₁.mem = s₀.mem ∧ s₁.copies = s₀.copies ∨ ∃ p z e pa, s.walk asid va = .leaf p z e pa
            ∧ (s₁.mem = s₀.mem ∨ s₁.mem = s₀.mem.write pa (bytesOfWord (pteTouch e need.w)))
            ∧ s₁.copies = (s₀.dirtied .memory pa (bytesOfWord (pteTouch e need.w))).copies))
      ∧ (s.softLines = [] → s.badLines = [] → r = s)
      ∧ r = { s with
          mem := r.mem, copies := r.copies, badLines := r.badLines, softLines := r.softLines, softCount := r.softCount
          retired := r.retired, lostFrames := r.lostFrames, events := r.events, snap := r.snap, pcie := r.pcie }

/-- R170: `ld` writes the element at EA() into S(D), sign-extended for TYPE 0 to 3 and zero-extended otherwise. -/
def Obligations.ScalarLoad : Prop :=
  ∀ (s s₁ : State) (t : Thread) (hi : Option (BitVec 32)) (ty : ElemType) (m : MemOp) (d : SReg) (e : Elem),
    let i := Instr.ld ty m d
    let s₂ := s₁.correctElems ty.bytes [e]
    let x := (loadedLanes s₂ t ty.bytes [e]).headD (0, 0)
    MayRun s t i → (hi.isSome = true → i.imxOk = true) →
    Reaches s t i hi .load m.space ty.bytes [(0, (effAddr t m hi).toNat)] (fun _ => none) s₁ [e] →
    MayLoad s₁ (t.begunImx hi) ty.bytes m.ord m.scope [e] →
      Completes (withImx hi i) s t (fun s' t' => s₂.afterLoad s' t ∧ t.onlyRegisters t' [.s d] ∧ t.wroteOnly t' [.s d]
        ∧ t'.pc = pastImx hi t.pc ∧ Leaves t t' [] 0 t.seed []
        ∧ t'.s d = (if d = 0 then 0 else if ty.signed then (BitVec.ofNat ty.width x.2).signExtend 64 else BitVec.ofNat 64 x.2))

/-- R171, R175, R22: a vector load fills its enabled lanes from their addresses; into a register the others are kept, into `lq` they
are 0. `vldb` reads one element for all of them. -/
def Obligations.VectorLoads : Prop :=
  ∀ (s s₁ : State) (t : Thread) (hi : Option (BitVec 32)) (ty : ElemType) (m : MemOp) (k : KReg) (d : VReg) (es : List Elem),
  ∀ p ∈ ([(.vld ty m k d, laneAddrs ty (t.k k) (unitAddr t m hi ty), false),
      (.vlds ty m k d, laneAddrs ty (t.k k) (strideAddr t m hi), false),
      (.vgat ty m k d, laneAddrs ty (t.k k) (indexAddr t m hi), false),
      (.vldb ty m k d, (laneAddrs ty (t.k k) (fun _ => effAddr t m hi)).take 1, true)] : List (Instr × List (Nat × Nat) × Bool)),
    MayRun s t p.1 → (hi.isSome = true → p.1.imxOk = true) →
    Reaches s t p.1 hi .load m.space ty.bytes p.2.1 (fun _ => none) s₁ es →
    MayLoad s₁ (t.begunImx hi) ty.bytes m.ord m.scope es →
      let s₂ := s₁.correctElems ty.bytes es
      let got := loadedLanes s₂ t ty.bytes es
      let x := lanesBy ty (t.k k) false (t.oldV d)
        (fun n => if p.2.2 then (got.map (·.2)).headD 0 else (got.lookup n).getD 0)
      Completes (withImx hi p.1) s t (fun s' t' => s₂.afterLoad s' t ∧ t.onlyRegisters t' [.v d] ∧ t.wroteOnly t' [.v d]
        ∧ t'.pc = pastImx hi t.pc ∧ t'.flags = t.flags ∧ t'.seed = t.seed ∧ t'.sq = t.sq
        ∧ t'.lq = t.lq ++ (if d = 32 then [x] else []) ∧ t'.lqFly = t.lqFly + (if d = 32 then 1 else 0) ∧ (d ≠ 32 → t'.v d = x))

/-- R170: `st` stores the low bytes of S(D) at EA(), and nothing else. -/
def Obligations.ScalarStore : Prop :=
  ∀ (s s₁ : State) (t : Thread) (hi : Option (BitVec 32)) (ty : ElemType) (m : MemOp) (d : SReg) (e : Elem),
    let i := Instr.st ty m d
    let x := (t.s d).toNat % 2 ^ ty.width
    let xs := [(e, bytesOfNat ty.bytes x)]
    MayRun s t i → (hi.isSome = true → i.imxOk = true) →
    Reaches s t i hi .store m.space ty.bytes [(0, (effAddr t m hi).toNat)] (fun _ => some (x, ty.width)) s₁ [e] →
    MayStore s₁ (t.begunImx hi) m.ord m.scope [e] →
      Completes (withImx hi i) s t (fun s' t' => Stored s₁ s' t xs ∧ t.onlyStored t' ∧ t'.pc = pastImx hi t.pc
        ∧ t'.regs = (storedRegs t xs).regs ∧ t'.valid = (storedRegs t xs).valid
        ∧ t'.trapRec = (storedRegs t xs).executed.trapRec ∧ t'.badRegs = (storedRegs t xs).badRegs ∧ Leaves t t' [] 0 t.seed [])

/-- R171, R173, R176: a vector store stores its enabled lanes, the highest of several that name one address, and pops `sq` when it
stores from it. -/
def Obligations.VectorStores : Prop :=
  ∀ (s s₁ : State) (t : Thread) (hi : Option (BitVec 32)) (ty : ElemType) (m : MemOp) (k : KReg) (d : VReg) (es : List Elem),
  ∀ p ∈ ([(.vst ty m k d, unitAddr t m hi ty), (.vsts ty m k d, strideAddr t m hi), (.vsca ty m k d, indexAddr t m hi)] :
      List (Instr × (Nat → Word))),
    let x := if d = 33 then t.sq.headD 0 else t.v d
    let xs := lastWins (es.map (fun e => (e, bytesOfNat ty.bytes (lane x ty.width e.lane))))
    MayRun s t p.1 → (hi.isSome = true → p.1.imxOk = true) →
    Reaches s t p.1 hi .store m.space ty.bytes (laneAddrs ty (t.k k) p.2) (fun n => some (lane x ty.width n, ty.width)) s₁ es →
    MayStore s₁ (t.begunImx hi) m.ord m.scope es →
      Completes (withImx hi p.1) s t (fun s' t' => Stored s₁ s' t xs ∧ t.onlyStored t' ∧ t'.pc = pastImx hi t.pc
        ∧ t'.regs = (storedRegs t xs).regs ∧ t'.valid = (storedRegs t xs).valid
        ∧ t'.trapRec = (storedRegs t xs).executed.trapRec ∧ t'.badRegs = (storedRegs t xs).badRegs ∧ t'.flags = t.flags ∧ t'.seed = t.seed ∧ t'.lq = t.lq ∧ t'.sq = (if d = 33 then t.sq.drop 1 else t.sq))

/-- R172: an address that is no multiple of the element raises ALIGN with DETAIL 1, before any other check of the access, and
nothing is read or stored. R60: an offset outside the gang's scratchpad raises ADDR with DETAIL 7, and a store through `cx:` to the
control area raises PROT. R335 to R337: an access that passes its checks and that an enabled watchpoint of the thread matches by kind,
space, bytes and value raises WATCH, which names the first such entry, unless the access is exempt. -/
def Obligations.AccessChecks : Prop :=
  ∀ (s s₁ : State) (t : Thread) (ty : ElemType) (m : MemOp) (d : SReg) (o : AtomOp) (es : List Elem),
    let a := effAddr t m none
    let hits (bit : Nat) (space : Space) (addr n : Nat) (value : Option (Nat × Nat)) (w : DebugEntry) : Prop :=
      w.ctl.getLsbD 0 = true ∧ w.ctl.getLsbD bit = true ∧ getBits w.ctl 8 4 = 0 ∧ w.ctl.getLsbD 6 = false
      ∧ (getBits w.ctl 4 2).toNat = spaceCode space ∧ space ≠ .cx
      ∧ 0 < (getBits w.ctl 12 20).toNat ∧ w.addr.toNat < addr + n ∧ addr < w.addr.toNat + (getBits w.ctl 12 20).toNat
      ∧ (bit = 1 ∨ w.ctl.getLsbD 7 = false ∨ ∃ v width, value = some (v, width)
          ∧ (getBits w.ctl 32 32).toNat % 2 ^ min width 32 = v % 2 ^ min width 32)
    (∀ p ∈ ([(.ld ty m d, .load, 1, m.space, a, ty.bytes, none),
        (.st ty m d, .store, 2, m.space, a, ty.bytes, some ((t.s d).toNat % 2 ^ ty.width, ty.width)),
        (.aadd o, .atomic, 3, o.space, t.s o.addr, o.ty.bytes, some ((t.s o.src).toNat, 32))] :
        List (Instr × Acc × Nat × Space × Word × Nat × Option (Nat × Nat))),
      let (i, acc, bit, space, addr, n, value) := p
      MayRun s t i → State.checkElems t.begun acc space n (s.begun t i) [(0, addr.toNat)] = .ok s₁ es → t.begun.skipsWatches = false →
      ∀ k w, t.watches[k]? = some w → hits bit space addr.toNat n value w →
        (∀ j < k, ∀ v, t.watches[j]? = some v → ¬hits bit space addr.toNat n value v) →
          TakesTrap i s s₁ t { cause := .watch, detail := bit, addr := addr, lane := 0, which := some (4 + k) }) ∧
    (∀ i ∈ [Instr.ld ty m d, .st ty m d], MayRun s t i → a.toNat % ty.bytes ≠ 0 →
      TakesTrap i s (s.begun t i) t { cause := .align, detail := 1, addr := a })
    ∧ (∀ i ∈ [Instr.ld ty m d, .st ty m d], MayRun s t i → a.toNat % ty.bytes = 0 → m.space = .sp →
      s.padBytes t < a.toNat + ty.bytes →
        TakesTrap i s (s.begun t i) t { cause := .addr, detail := 7, addr := a })
    ∧ (MayRun s t (.st ty m d) → a.toNat % ty.bytes = 0 → m.space = .cx → 0x3000 ≤ a.toNat → a.toNat + ty.bytes ≤ 0x4000 →
      t.trapRec.handler = false →
        TakesTrap (.st ty m d) s (s.begun t (.st ty m d)) t { cause := .prot, detail := 2, addr := a })

/-! ## Atomics, major 0x50 -/

/-- R181, R182: an atomic on this device's memory or on a scratchpad replaces the word at S(A) by the new value its entry gives, in
one operation at its place in the cycle's order (R371), and without NR puts the old one into S(D), sign-extended for TYPE 2 and 3. -/
def Obligations.Atomics : Prop :=
  ∀ (s s₁ : State) (t : Thread) (o : AtomOp) (c : SReg) (e : Elem),
    let n := o.ty.bytes
    let w := o.ty.width
    let b := (t.s o.src).toNat % 2 ^ w
    let old := match e.place with
      | .hbm pa leaf => natOfBytes ((s₁.atHome pa (localAtomicRank ((s₁.coreOf t).getD 0))).readVia (viaOf (s₁.asidOf t) e.addr leaf o.evict) pa n)
      | .pad key => natOfBytes (s₁.padRead t key n)
      | _ => 0
  ∀ p ∈ ([(.aadd o, (old + b) % 2 ^ w), (.aand o, old &&& b), (.aor o, old ||| b), (.axor o, old ^^^ b),
      (.amin o, if signedNat b w < signedNat old w then b else old), (.amax o, if signedNat old w < signedNat b w then b else old),
      (.aminn o, min old b), (.amaxn o, max old b), (.aswp o, b),
      (.acas o c, if old = (t.s c).toNat % 2 ^ w then b else old),
      (.ainc o, if b ≤ old then 0 else old + 1), (.adec o, if old = 0 ∨ b < old then b else old - 1),
      (.afadd o, (fpAdd o.ty.fmt .rne 0 old b).1), (.afmin o, (fpMin o.ty.fmt old b).1), (.afmax o, (fpMax o.ty.fmt old b).1)] :
      List (Instr × Nat)),
    MayRun s t p.1 →
    Reaches s t p.1 none .atomic o.space n [(0, (t.s o.addr).toNat)] (fun _ => some ((t.s o.src).toNat, 32)) s₁ [e] →
    MayStore s₁ t.begun o.ord o.scope [e] → s₁.firstBad t.begun n [e] = none → (∀ off, e.place ≠ .ctx off) →
      Completes p.1 s t (fun s' t' => Stored (s₁.correctElems n [e]) s' t [(e, bytesOfNat n p.2)]
        ∧ t.onlyRegisters t' (if o.nr then [] else [.s o.dst]) ∧ t.wroteOnly t' (if o.nr then [] else [.s o.dst])
        ∧ t'.pc = t.pc + 8 ∧ Leaves t t' [] 0 t.seed []
        ∧ (o.nr = false → t'.s o.dst = (if o.dst = 0 then 0
            else if o.ty.signed then (BitVec.ofNat w old).signExtend 64 else BitVec.ofNat 64 old)))

/-! ## Fences and barrier words, major 0x51 -/

/-- R183, R317: a fence completes once a release or SC one at scope 4 or 5 has its acknowledgements; an acquire or SC one there
advances the remote epoch; nothing else changes. -/
def Obligations.Fences : Prop :=
  ∀ (s : State) (t : Thread) (ord : MemOrd) (sc : Scope), let i := Instr.fence ord sc
    MayRun s t i → (s.begun t i).mayRelease t.begun (ordReleases ord) sc = true →
      Completes i s t (fun s' t' => RegistersOnly s s' t t' [] (t.pc + 8) ∧ Leaves t t' [] 0 t.seed []
        ∧ s'.remEpoch = (s.begun t i).remEpoch + (if ordAcquires ord && wideScope sc then 1 else 0))

/-- R184, R185: `binit` gives a barrier word EXPECT S(D), PHASE 0 and ARRIVED 0; `bara` counts one arrival in it, which completes
the phase when it is the last one expected, and puts the phase arrived in into S(D). Nothing else is stored. -/
def Obligations.BarrierArrival : Prop :=
  ∀ (s s₁ : State) (t : Thread) (hi : Option (BitVec 32)) (m : MemOp) (d : SReg) (e : Elem),
    let word := match e.place with
      | .hbm pa leaf => wordOfBytes (s₁.readVia (viaOf (s₁.asidOf t) e.addr leaf) pa 8)
      | .pad key => wordOfBytes (s₁.padRead t key 8)
      | _ => 0
    let s₂ := s₁.correctElems 8 [e]
    let reaches (i : Instr) := MayRun s t i ∧ (hi.isSome = true → i.imxOk = true)
      ∧ Reaches s t i hi .atomic m.space 8 [(0, (effAddr t m hi).toNat)] (fun _ => some ((t.s m.index).toNat, 32)) s₁ [e]
      ∧ s₁.firstBad t.begun 8 [e] = none ∧ ∀ off, e.place ≠ .ctx off
    (reaches (.binit m d) → MayStore s₁ (t.begunImx hi) m.ord m.scope [e] → 1 ≤ (t.s d).toNat → (t.s d).toNat < 2 ^ 20 →
      Completes (withImx hi (.binit m d)) s t (fun s' t' =>
        Stored s₂ s' t [(e, bytesOfWord (BitVec.ofNat 64 ((t.s d).toNat * 2 ^ 20)))] ∧ t.onlyRegisters t' [] ∧ t.wroteOnly t' []
        ∧ t'.pc = pastImx hi t.pc ∧ Leaves t t' [] 0 t.seed []))
    ∧ (reaches (.bara m d) → MayStore s₁ (t.begunImx hi) .rel m.scope [e] → barExpect word ≠ 0 →
      let next : Word := if barArrived word + 1 < barExpect word then word + 1
        else (barPhase word + 1) ++ getBits word 20 20 ++ 0#20
      Completes (withImx hi (.bara m d)) s t (fun s' t' =>
        Stored s₂ s' t [(e, bytesOfWord next)] ∧ t.onlyRegisters t' [.s d] ∧ t.wroteOnly t' [.s d]
        ∧ t'.pc = pastImx hi t.pc ∧ Leaves t t' [] 0 t.seed []
        ∧ t'.s d = (if d = 0 then 0 else (barPhase word).zeroExtend 64)))

/-- R185, R186: `bar` arrives as `bara` does; when its arrival completes the phase the thread goes on, else it blocks past the
instruction with the word's address and the phase saved (R141). `barw` blocks in the same way until the phase S(D) is complete,
and stores nothing; `bstat` reads the word, and the live state of a placed gang, PHASE above ARRIVED, for the word of its image. -/
def Obligations.BarrierWait : Prop :=
  ∀ (s s₁ : State) (t : Thread) (m : MemOp) (d : SReg) (e : Elem),
    let word := match e.place with
      | .hbm pa leaf => wordOfBytes (s₁.readVia (viaOf (s₁.asidOf t) e.addr leaf) pa 8)
      | .pad key => wordOfBytes (s₁.padRead t key 8)
      | _ => 0
    let s₂ := s₁.correctElems 8 [e]
    let reaches (i : Instr) (a : Acc) := MayRun s t i
      ∧ Reaches s t i none a m.space 8 [(0, (effAddr t m none).toNat)] (fun _ => some ((t.s m.index).toNat, 32)) s₁ [e]
      ∧ s₁.firstBad t.begun 8 [e] = none ∧ MayStore s₁ t.begun .rel m.scope [e] ∧ ∀ off, e.place ≠ .ctx off
    let phase : BitVec 24 := getBits (t.s d) 0 24
    (reaches (.bar m d) .atomic → barExpect word ≠ 0 → Completes (.bar m d) s t (fun s' t' =>
      t'.s d = (if d = 0 then 0 else (barPhase word).zeroExtend 64) ∧ t'.pc = t.pc + 8
      ∧ (barExpect word ≤ barArrived word + 1 → t'.block = .none
          ∧ Stored s₂ s' t [(e, bytesOfWord ((barPhase word + 1) ++ getBits word 20 20 ++ 0#20))])
      ∧ (barArrived word + 1 < barExpect word → t'.block = .bar ∧ t'.saved = savedBarWait m.space e.addr (barPhase word)
          ∧ Stored s₂ s' t [(e, bytesOfWord (word + 1))])))
    ∧ (reaches (.barw m d) .barRead → Completes (.barw m d) s t (fun s' t' => s' = { s₂ with threads := s'.threads, remEpoch := s'.remEpoch }
      ∧ t.wroteOnly t' [] ∧ t'.pc = t.pc + 8
      ∧ (barCompleted word phase = true → t'.block = .none)
      ∧ (barCompleted word phase = false → t'.block = .bar ∧ t'.saved = savedBarWait m.space e.addr phase)))
    ∧ (reaches (.bstat m d) .barRead →
      Completes (.bstat m d) s t (fun s' t' => s' = { s₂ with threads := s'.threads, remEpoch := s'.remEpoch }
        ∧ t.onlyRegisters t' [.s d] ∧ t.wroteOnly t' [.s d] ∧ t'.pc = t.pc + 8
        ∧ ((m.space = .glob → ∀ g, s₁.gbarGang (s₁.asidOf t) e.addr = some g → g.cluster = none) → t'.s d = (if d = 0 then 0 else word))
        ∧ (∀ g, m.space = .glob → s₁.gbarGang (s₁.asidOf t) e.addr = some g → g.cluster.isSome = true →
            t'.s d = (if d = 0 then 0 else g.phase ++ g.arrived))))

/-! ## Cache operations, major 0x42 -/

/-- R178: a cache operation whose range is empty, aligned where it must be, does nothing. Over a range it makes every access check;
then neither after `cwb` nor after `cinv` does the mapping hold a copy of a sector of the range beside memory, and `czero` stores zeros
in it. Where the mapping alone holds a sector, memory has its bytes after `cwb`, and after `cinv` the sector reads as memory had it; all
other memory reads as before. How copies are kept by sector and mapping is the model's own (log 115). -/
def Obligations.CacheOperations : Prop :=
  ∀ (s s₁ : State) (t : Thread) (hi : Option (BitVec 32)) (m : MemOp) (d : SReg) (ps : List PagePart),
    let va := (effAddr t m hi).toNat
    let n := (t.s d).toNat
    (∀ i ∈ [Instr.cwb m d, .cinv m d, .czero m d], MayRun s t i → (hi.isSome = true → i.imxOk = true) → n = 0 →
      (i ≠ .cwb m d → va % 256 = 0) → GoesTo (withImx hi i) s t (pastImx hi t.pc))
    ∧ (∀ p ∈ ([(.cwb m d, .writeBack, 1, none), (.cinv m d, .invalidate, 256, none), (.czero m d, .zero, 256, some (0, 32))] :
        List (Instr × Acc × Nat × Option (Nat × Nat))),
      MayRun s t p.1 → (hi.isSome = true → p.1.imxOk = true) → n ≠ 0 → va % p.2.2.1 = 0 → n % p.2.2.1 = 0 →
      (s.begun t p.1).checkRange (t.begunImx hi) p.2.1 m.space va n = .ok s₁ ps →
      (t.begunImx hi).watchHit p.2.1 m.space n [(0, va, p.2.2.2)] = none →
      ps.any (fun q => (t.begunImx hi).elemHeld p.2.1 m.space q.n ⟨0, q.va, q.place⟩) = false →
      MayStore s₁ (t.begunImx hi) .rlx m.scope (ps.map (fun q => ⟨0, q.va, q.place⟩)) → t.zeroed = 0 →
        Completes (withImx hi p.1) s t (fun s' t' => t.onlyRegisters t' [] ∧ t.wroteOnly t' [] ∧ t'.pc = pastImx hi t.pc
          ∧ Leaves t t' [] 0 t.seed []
          ∧ (p.1 ≠ .czero m d → s' = { s₁ with mem := s'.mem, copies := s'.copies, threads := s'.threads }
              ∧ s'.copies.drawn = s₁.copies.drawn ∧ s'.copies.code = s₁.copies.code
              ∧ ∀ q ∈ cachedParts (s₁.asidOf t) ps, ∀ k ∈ sectorsOn q.2.2.1 q.2.2.2, ∀ e ∈ s'.copies.lines, e.sector = k →
                  ∀ c, e.copy? q.1 (tagAt q.2.1 q.2.2.1 k) = some c → c.data = none)
          ∧ (p.1 = .cwb m d → s'.mem = s₁.mem
              ∧ ∀ q ∈ cachedParts (s₁.asidOf t) ps, ∀ k ∈ sectorsOn q.2.2.1 q.2.2.2, ∀ e bs, s₁.copies.held? k = some e →
                  e.only q.1 (tagAt q.2.1 q.2.2.1 k) = some bs → ∃ e', s'.copies.held? k = some e' ∧ e'.inMemory s'.cycle = bs)
          ∧ (p.1 = .cinv m d →
              (∀ x, s₁.copies.held? (x / 32) = none ∨ (∀ q ∈ cachedParts (s₁.asidOf t) ps, x / 32 ∉ sectorsOn q.2.2.1 q.2.2.2) →
                s'.readPA x 1 = s₁.readPA x 1)
              ∧ ∀ q ∈ cachedParts (s₁.asidOf t) ps, ∀ k ∈ sectorsOn q.2.2.1 q.2.2.2, ∀ e, s₁.copies.lines.filter (·.sector == k) = [e] →
                  e.latest.length = 32 → e.only q.1 (tagAt q.2.1 q.2.2.1 k) = some (s₁.readPA (32 * k) 32) →
                    s'.readPA (32 * k) 32 = e.inMemory s₁.cycle)
          ∧ (p.1 = .czero m d →
              Stored s₁ s' t (ps.map (fun q => (⟨0, q.va, q.place⟩, List.replicate q.n (0 : Byte)))))))

/-- R178, R323: `pf` never traps, and changes no register and no byte of memory: ACCESSED is set when its walk ends. (Where its walk
meets an uncorrectable error, the line's spare is what memory holds of it: R358.) -/
def Obligations.Prefetch : Prop :=
  ∀ (s : State) (t : Thread) (hi : Option (BitVec 32)) (m : MemOp), MayRun s t (.pf m) →
    (hi.isSome = true → (Instr.pf m).imxOk = true) →
      Completes (withImx hi (.pf m)) s t (fun s' t' => t.onlyRegisters t' [] ∧ t.wroteOnly t' [] ∧ t'.pc = pastImx hi t.pc
        ∧ Leaves t t' [] 0 t.seed [] ∧ s'.gangs = s.gangs ∧ (∀ id, id ≠ t.id → s'.thread? id = s.thread? id)
        ∧ (s'.mem = s.mem ∨ s'.mem = ((s.begun t (.pf m)).readNodes (s.asidOf t) (effAddr t m hi).toNat).mem)
        ∧ (s.softLines = [] → s.badLines = [] → s'.mem = s.mem))

/-! ## The whole machine -/

/-- What reset leaves where the spec says it (R65, R311, R347, R349, R353, R354, R145, R41), with memory canonical, and a thread
as spawning makes it (R40, R43). The unit that FENCESTAT (0x2008) names, and RUNVER and SLOT of FWSTAT (0x5008), are the model's choice at
reset (logs 3 and 4). -/
def Obligations.ResetAndSpawn : Prop :=
  let s := State.reset
  (s.register 0 = 0x10 ∧ (∀ p < 64, ∀ off ∈ [0x00, 0x08, 0x10, 0x18, 0x20], s.register (0x100000 + 64 * p + off) = 0)
    ∧ (∀ off ∈ [0x1008, 0x2008, 0x4000, 0x5000, 0x5008], s.register off = 0) ∧ s.snapCtl = 0 ∧ Memory.wf s.mem = true
    ∧ s.tasks = [] ∧ s.gangs = [] ∧ s.threads = [])
  ∧ ∀ (k : Task) (gang rank cycle : Nat), let t := Thread.spawned k gang rank cycle
    t.pc = k.entry ∧ t.s 1 = k.param ∧ t.s 2 = BitVec.ofNat 64 gang ∧ t.s 3 = BitVec.ofNat 64 rank
    ∧ t.valid = 0xE ∧ t.pending = 0 ∧ t.views = 0x0000040002000000 ∧ t.tstat = 0 ∧ t.flags = 0
    ∧ t.seed.toNat = max 1 ((32 * gang + rank + 1) * 0x9E3779B9 % 2 ^ 32)
    ∧ t.lq = [] ∧ t.sq = [] ∧ t.mxEntries = [] ∧ t.ceEntries = [] ∧ t.tvec = 0 ∧ t.repWord = 0 ∧ t.uniCount = 0

/-- Words that the spec prints decode to the instructions that it prints beside them (R85 to R92, R104, R113, R117). -/
def Obligations.PrintedWords : Prop :=
  ∀ p ∈ ([([0x1001451600300000], .add .w64 10 10 11),
      ([0x1102401800080000], .li .i64 18 0x80000),
      ([0xE000000000000000], .nop 0),
      ([0x4000E08030070020], .ld .n64 ⟨1, 0, 32, .rlx, .dev, 0, .glob⟩ 7),
      ([0xF200000000000001, 0x4000808030070000], .imx 1 (.ld .n64 ⟨1, 0, 0, .rlx, .dev, 0, .glob⟩ 4)),
      ([0x4104060030880100], .vld .f32 ⟨12, 0, 0x100, .rlx, .dev, 0, .glob⟩ 2 32),
      ([0xF100042000000000, 0x2003000200200000], .rep 4 8 0 0 0 (.vadd .i32 false 0 24 0 1)),
      ([0x7028007800000005], .dbar 5),
      ([0xB000A07800000001], .mfsr 5 1),
      ([0xB022820A00000000], .pgmig 20 4 5),
      ([0x6040007800000007], .brk 7),
      ([0xB040000000F00000], .trapret),
      ([0x883AE48000000000], .xpand 23 9 false)] : List (List Word × Instr)),
    decodeGroup p.1 = .ok p.2

/-- Decode and encode agree: the words of every well-formed instruction decode to it, whatever its operands. -/
def Obligations.DecodeEncode : Prop := ∀ (i : Instr), i.wf = true → decodeGroup (encode i) = .ok i

/-- R102, R103, R106: words that decode are the words of the instruction read, every bit of them, and that instruction is well
formed: a reserved bit or code is never passed over. -/
def Obligations.DecodedGroups : Prop :=
  ∀ (ws : List Word) (i : Instr), decodeGroup ws = .ok i → i.wf = true ∧ ∃ rest, ws = encode i ++ rest

/-- R80, R103, R106: a thread that may issue runs the instruction to which the words at its PC decode, where its control area is
cached and no breakpoint matches there: a step of its is `exec` of that instruction, its core's counts noted (R356). An event of
the agenda is `exec` of it; what a move of the agenda wakes is ready in its cycle (R83). With nothing on the agenda and no step of the
hardware due, the thread of R81 runs. Where a breakpoint matches at the PC the step takes BRK with the entry's number instead (R335 to
R337). A word is fetched as memory has it, its errors corrected and counted (R357), or, where a running
task of the ASID has stored it, as it stood before (R129; log 116 says how that is kept). -/
def Obligations.StepRunsDecoded : Prop :=
  (∀ (s s₂ : State) (t : Thread) (ws : List Word) (i : Instr),
    let a := s.afterDeposits t.id
    let b := a.acquired t.fencing .sys
    let u := b.repCleared { t with fencing := false }
    a.mayIssue t = true → s.deferred = [] → a.fenceWaits t = false → t.hasControl = true → u.breakHit = none →
    State.wordsAt (b.coreOf u) (b.asidOf u) b u.pc ws s₂ → decodeGroup ws = .ok i → (∀ k < ws.length, decodeGroup (ws.take k) = .more) →
      let ran := match exec i { s₂.setThread u with cur := t.id } with
        | .next s' => .next (s'.noteIssue t i)
        | r => r
      ∀ s₀ : State,
        ((∃ rest, s₀.agenda = ⟨0, .thread t.id⟩ :: rest ∧ s₀.thread? t.id = some t ∧ { s₀ with agenda := rest } = s) →
          step s₀ = thenWakes ran)
        ∧ ((s₀.agenda = [] ∧ s₀.due = none ∧ ∃ p, s₀.pick = some (p, t) ∧ s₀.turnTo p = s) → step s₀ = ran))
  ∧ (∀ (s : State) (t : Thread) (n : Nat) (e : DebugEntry),
    let a := s.afterDeposits t.id
    let b := a.acquired t.fencing .sys
    let u := b.repCleared { t with fencing := false }
    a.mayIssue t = true → s.deferred = [] → a.fenceWaits t = false → t.hasControl = true →
    u.skipsBreaks = false → (u.repLeft = 0 ∨ u.resumed = true) →
    u.breaks[n]? = some e → e.ctl = 1 → e.addr = u.pc → u.pc.toNat % 8 = 0 →
    (∀ j < n, ∀ f, u.breaks[j]? = some f → f.ctl = 1 → f.addr ≠ u.pc) →
      let ran := (b.takeTrap u u.pc u.pc (b.wordAtPC u) { cause := .brk, detail := 1, which := some n }).noteStall t
      ∀ s₀ : State,
        ((∃ rest, s₀.agenda = ⟨0, .thread t.id⟩ :: rest ∧ s₀.thread? t.id = some t ∧ { s₀ with agenda := rest } = s) →
          step s₀ = thenWakes (.next ran))
        ∧ ((s₀.agenda = [] ∧ s₀.due = none ∧ ∃ p, s₀.pick = some (p, t) ∧ s₀.turnTo p = s) → step s₀ = .next ran))
  ∧ (∀ (s : State) (c : Nat) (i : Instr) (rest : List Move),
    step { s with agenda := ⟨c, .event i⟩ :: rest } = thenWakes (exec i ({ s with agenda := rest }.passCycles c)))
  ∧ ∀ (s s' : State) (core : Option Nat) (asid : Nat) (va w : Word), s.fetchWord core asid va = .ok s' w →
    va.toNat % 8 = 0 ∧ ∃ s₁ page size leaf,
      s.translate core asid va.toNat ⟨false, false, true, !s.asidPriv asid⟩ = .ok s₁ page size leaf
      ∧ s' = { s₁.corrected (leafPA page leaf va.toNat) 8 with copies := s'.copies }
      ∧ (w = s₁.readWordPA (leafPA page leaf va.toNat)
        ∨ ∃ o ∈ s₁.copies.code, o.asid = asid ∧ o.word = leafPA page leaf va.toNat / 8 ∧ w = o.old)

/-- No step of the machine refuses, and no well-formed instruction of an existing thread stops it: it always answers a next state. -/
def Obligations.NeverStops : Prop :=
  (∀ (i : Instr) (s : State) (r : Refusal), exec i s ≠ .refused r)
  ∧ (∀ (s : State) (r : Refusal), step s ≠ .refused r)
  ∧ ∀ (i : Instr) (s : State), i.wf = true → (s.thread? s.cur).isSome = true → ∃ s', exec i s = .next s'

/-- Every step keeps memory in its one canonical form: addresses strictly rising, no byte listed that equals what an unlisted one
reads as. -/
def Obligations.MemoryCanonical : Prop :=
  ∀ (s s' : State), Memory.wf s.mem = true → step s = .next s' → Memory.wf s'.mem = true

/-! ## Issue checks, traps and returns -/

/-- R103 step 9, R144, R49, R50, R326: a privileged instruction in a user thread, and a write of a register without write access,
raise PRIV; then an instruction with a pending register is tried again, an invalid source raises RDINV with the first one's class
and number, a queue that lacks entries or room raises QUEUE, and a register line with an uncorrectable error raises DATAERR with its
context offset, no granule of it valid afterwards (R340). Which of several invalid registers is the first, in the order A, B, C, K, D, is the
model's choice (log 19), and so is the record of a damaged line (log 125). -/
def Obligations.IssueChecks : Prop :=
  ∀ (s : State) (t : Thread) (i : Instr), s.thread? s.cur = some t → i.wordWf = true →
    let user := i.needsPriv && !s.asidPriv (s.asidOf t)
    let trap (info : TrapInfo) := exec i s = .next (s.takeTrap t t.pc t.pc i.word info)
    (user = true ∨ i.noWriteAccess = true → trap { cause := .priv, detail := 0 })
    ∧ (user = false → i.noWriteAccess = false → t.touches i &&& ~~~t.resident = 0 →
      ((i.reads ++ i.writes).any t.isPending = true → exec i s = .next (s.setThread { t with
        block := .none, saved := List.replicate 4 0, since := if t.block = .none then t.since else s.cycle }))
      ∧ ((i.reads ++ i.writes).any t.isPending = false →
        (∀ r, i.reads.find? (fun r => !t.isValid r) = some r → trap { cause := .rdInv, detail := r.detail })
        ∧ (i.reads.all t.isValid = true → (∀ d, t.queueFault i = some d → trap { cause := .queue, detail := d })
          ∧ ∀ l, t.queueFault i = none → t.badRead i = some l → exec i s = .next ((s.sramLost ((s.coreOf t).getD 0)).takeTrap (t.dropLine l)
              t.pc t.pc i.word { cause := .dataErr, detail := 2, addr := BitVec.ofNat 64 (256 * l) }))))

/-- R325, R327, R329, R330, R308, R331: taking a trap. With its bit of TRAPEN set, a handler address, HANDLER 0 and a cause that
may enter, the thread goes on at TVEC with its PC, REP state and SS in the record; otherwise it halts with the cause in HCAUSE, its slot
free (log 79), and its ASID is told. R338: with SS set a group that completes, shown for `add`, the hint word and `bra`, then takes STEP
at the next group, and a `rep` iteration takes it with DETAIL 1 on the `rep`. -/
def Obligations.TrapEntry : Prop :=
  (∀ (s : State) (t : Thread) (w : SWidth) (d a b : SReg) (bits : BitVec 60) (off : BitVec 33) (count : BitVec 16),
    let calm := { t with ss := false }
    let add := Instr.add w d a b
    let added := (t.done [.s d]).setS d (onWidth w (fun _ x y => x + y) (t.s a) (t.s b))
    let target := t.pc + off.signExtend 64 * 8
    s.thread? s.cur = some t → t.ss = true → (t.run = .active ∨ t.run = .resident) →
    (∀ p ∈ ([(add, added), (.nop bits, t.done), (.bra off, { t.done with pc := target })] : List (Instr × Thread)),
      MayRun (s.setThread calm) calm p.1 → (p.1 = .bra off → target.toNat < 2 ^ 57) →
        exec p.1 s = .next ((s.begun t p.1).takeTrap p.2 p.2.pc p.2.pc p.1.word { cause := .step, detail := 0 }))
    ∧ ((Instr.rep count 0 0 0 0 add).wf = true → MayRun (s.setThread calm) calm add → t.repLeft = 0 → 2 ≤ count.toNat →
      t.block ≠ .bar → t.barPassed = false →
        let u := { added with pc := t.pc, repIter := 1, repLeft := count - 1 }
        exec (.rep count 0 0 0 0 add) s = .next ((s.begun t add).takeTrap u u.pc u.pc add.word { cause := .step, detail := 1 }))) ∧
  ∀ (s : State) (t : Thread) (fpc resume iword : Word) (info : TrapInfo), (s.thread? t.id).isSome = true →
    let s' := s.takeTrap t fpc resume iword info
    let code := Cause.num info.cause
    let enters := t.trapen.getLsbD code && t.tvec != 0 && !t.trapRec.info.getLsbD 8 && !info.table
      && (match info.cause with
        | .ctxPage | .engine => false
        | .dataErr => info.detail != 2 && info.detail != 5
        | _ => true)
    (enters = true → s' = (s.dropLoads (.thread t.id)).setThread { t with
      block := .none, saved := List.replicate 4 0, deadline := none, resumed := false
      repLeft := 0, repIter := 0, ss := false, pc := t.tvec
      trapRec := { fpc := fpc, info := trapInfoWord info false true, addr := info.addr, rep := t.repWord, rpc := resume
                   ss := if t.ss then 0x10000 else 0, iword := iword, count := (t.trapRec.count + 1) &&& 0xFFFFFFFF } })
    ∧ (enters = false → ∃ t', s'.thread? t.id = some t' ∧ t'.run = .halted ∧ t'.hcause = BitVec.ofNat 8 code ∧ t'.pc = resume
      ∧ t'.slot = none ∧ t'.block = .none ∧ t'.regs = t.regs ∧ (t.badRegs = 0 → t.badQueue = 0 → t'.valid = t.valid) ∧ t'.flags = t.flags ∧ t'.trapRec.fpc = fpc
      ∧ t'.trapRec.addr = info.addr ∧ t'.trapRec.iword = iword ∧ t'.trapRec.info.getLsbD 8 = t.trapRec.info.getLsbD 8
      ∧ (t.resident = 0 → s.trapServed (s.asidOf t) = true → (info.cause ≠ .dataErr ∨ info.detail ≠ 5) →
          (s'.noticeQueue (s.asidOf t)).held = (s.noticeQueue (s.asidOf t)).held ++ [(t.cbase + BitVec.ofNat 64 code, some t.id)]))
    ∧ (∀ npend handler, let w := trapInfoWord info npend handler
      w.extractLsb' 0 8 = BitVec.ofNat 8 code ∧ w.getLsbD 8 = handler ∧ w.getLsbD 9 = info.table ∧ w.getLsbD 12 = npend
      ∧ w.extractLsb' 16 16 = BitVec.ofNat 16 info.detail ∧ w.extractLsb' 32 16 = BitVec.ofNat 16 info.lane)

/-- R330, R337: `trapret` takes the PC, the REP state and SS from the record and clears HANDLER; the group that it returns
to is the first after a resumption, which BPSKIP and WSKIP may exempt; outside a handler it raises ILLEGAL with DETAIL 12. -/
def Obligations.TrapReturn : Prop :=
  ∀ (s : State) (t : Thread), MayRun s t .trapret →
    let r := t.atGroup.trapRec
    (r.info.getLsbD 8 = true → Answers .trapret s (s.begun t .trapret) { t.done with
      pc := r.rpc, repLeft := getBits r.rep 0 16, repIter := getBits r.rep 16 16, ss := r.ss.getLsbD 16
      trapRec := { r with info := r.info &&& ~~~0x100#64 }, resumed := true })
    ∧ (r.info.getLsbD 8 = false → TakesTrap .trapret s (s.begun t .trapret) t { cause := .illegal, detail := 12 })

/-! ## Prefix groups, majors 0xF0 and 0xF1 -/

/-- R110, R112: `uni` before an `add`. The first thread to arrive opens the `uni`, executes the instruction and stays on the group; a
later one arrives and stalls there; a thread on another group, or at another count, raises UNIDIV. R110: when all have arrived, the
posting puts the executor's register into the others, and moves every one past the group. -/
def Obligations.Uniform : Prop :=
  (∀ (s : State) (t : Thread) (g : Gang) (w : SWidth) (d a b : SReg), let i := Instr.add w d a b
    let n := t.uniCount + 1
    let bit := 1#32 <<< t.id.rank
    let s₁ : State := if g.uniOpen = true ∧ g.uniArrived.getLsbD t.id.rank = true then s else s.inOrder (.uni t.id.task t.id.gang t.id.rank)
    let stalled : Thread := { t.clearRep with block := .uni, blockPC := t.pc, blockWord := i.word, saved := List.replicate 4 0
                                              since := if t.block = .uni then t.since else s₁.cycle }
    s.gangOf t = some g → MayRun s t i → t.block ≠ .bar → t.barPassed = false → t.id.rank < 32 →
      (g.uniOpen = false → n = g.uniClosed + 1 → ∃ s' t', exec (.uni i) s = .next s' ∧ s'.thread? t.id = some t'
        ∧ t'.pc = t.pc ∧ t'.block = .uni ∧ t.wroteOnly t' [.s d] ∧ t'.flags = t.flags ∧ t'.seed = t.seed ∧ t'.uniCount = t.uniCount
        ∧ t'.s d = (if d = 0 then 0 else onWidth w (fun _ x y => x + y) (t.s a) (t.s b))
        ∧ s'.gangOf t = some { g with uniOpen := true, uniN := n, uniPC := t.pc, uniArrived := bit, uniExec := BitVec.ofNat 5 t.id.rank
                                      uniDone := true, uniPost := i.writes.map RegRef.asPair, uniWords := 2 }
        ∧ s'.mem = s.mem ∧ ∀ id, id ≠ t.id → s'.thread? id = s.thread? id)
      ∧ (g.uniOpen = true → n = g.uniN → t.pc = g.uniPC → g.uniExec.toNat ≠ t.id.rank →
        Answers (.uni i) s (s₁.setGang { g with uniArrived := g.uniArrived ||| bit }) stalled)
      ∧ (∀ detail, (g.uniOpen = true ∧ n ≠ g.uniN ∧ detail = 1 ∨ g.uniOpen = true ∧ n = g.uniN ∧ t.pc ≠ g.uniPC ∧ detail = 2
          ∨ g.uniOpen = false ∧ n ≠ g.uniClosed + 1 ∧ detail = 1) →
        exec (.uni i) s = .next (s.takeTrap t.clearRep t.pc t.pc i.word { cause := .uniDiv, detail := detail })))
  ∧ ∀ (s : State) (g : Gang) (e : Thread) (d : SReg),
    s.gang? g.task g.index = some g → g.uniOpen = true → g.uniDone = true → g.cluster.isSome = true → g.uniPost = [(0, d.toNat)] → d ≠ 0 →
    s.thread? ⟨g.task, g.index, g.uniExec.toNat⟩ = some e →
    (∀ t ∈ s.mates g.task g.index, (t.run = .retired ∨ g.uniArrived.getLsbD t.id.rank = true) ∧ t.resident = allLines ∧ t.ss = false
      ∧ viewsOk t.vwS.toNat t.vwK.toNat t.vwV.toNat = true) →
      ∃ s', exec (.uniPosting g.task g.index) s = .next s' ∧ s'.mem = s.mem
        ∧ s'.gang? g.task g.index = some { g with uniOpen := false, uniClosed := g.uniN, uniArrived := 0, uniDone := false
                                                  uniPost := [], uniWords := 0 }
        ∧ ∀ id t, s.thread? id = some t → id.task = g.task → id.gang = g.index → t.run ≠ .retired → ∃ t', s'.thread? id = some t'
          ∧ t'.pc = g.uniPC + BitVec.ofNat 64 (8 * g.uniWords) ∧ t'.uniCount = g.uniN ∧ t'.block = .none
          ∧ (id.rank ≠ g.uniExec.toNat → t'.s d = e.s d) ∧ (id.rank = g.uniExec.toNat → t'.regs = t.regs)

/-- R113 to R116: `rep` before an `add`. Each step runs one iteration with the register numbers stepped by their strides; the PC stays
on the prefix with the REP state of the next iteration until the last one; COUNT 0 runs none; a register number that leaves its class
raises REGRANGE with the field. That a step runs one iteration is the model's choice (log 37). -/
def Obligations.Repeats : Prop :=
  ∀ (s : State) (t : Thread) (count : BitVec 16) (sd sa sb : BitVec 6) (w : SWidth) (d a b d' a' b' : SReg),
    let i := Instr.add w d a b
    let j := Instr.add w d' a' b'
    let rep := Instr.rep count sd sa sb 0 i
    let it : Nat := if t.repLeft = 0 then 0 else t.repIter.toNat
    let left := if t.repLeft = 0 then count else t.repLeft
    let at' (n stride : BitVec 6) : Int := n.toNat + it * stride.toInt
    rep.wf = true → MayRun s t j → t.block ≠ .bar → t.barPassed = false →
      (left = 0 → GoesTo rep s t (t.pc + 16))
      ∧ (left ≠ 0 → at' d sd = d'.toNat → at' a sa = a'.toNat → at' b sb = b'.toNat →
        Completes rep s t (fun s' t' => s.onlyThread s' t ∧ t.wroteOnly t' [.s d'] ∧ t'.flags = t.flags ∧ t'.seed = t.seed
          ∧ t'.s d' = (if d' = 0 then 0 else onWidth w (fun _ x y => x + y) (t.s a') (t.s b'))
          ∧ (left = 1 → t'.pc = t.pc + 16 ∧ t'.repLeft = 0 ∧ t'.repIter = 0)
          ∧ (left ≠ 1 → t'.pc = t.pc ∧ t'.repLeft = left - 1 ∧ t'.repIter = BitVec.ofNat 16 it + 1)))
      ∧ (left ≠ 0 → ¬(0 ≤ at' d sd ∧ at' d sd < 64) →
        exec rep s = .next (s.takeTrap { t with repIter := BitVec.ofNat 16 it, repLeft := left } t.pc t.pc i.word
          { cause := .regRange, detail := 1 }))

/-! ## Threads and domains, major 0x70; reports of every family -/

/-- R142, R143, R177, R239, R242, R370, R373, R380: the instructions that only read the device's state into S(D), and the traps of
those that can be asked for what is not there. Of the loads into `lq` whose data may not have arrived, `qstat` reports some number as in
flight (log 122). -/
def Obligations.Reports : Prop :=
  ∀ (s : State) (t : Thread) (d a b : SReg) (box : BitVec 6), let core := (s.coreOf t).getD 0
    (∀ p ∈ ([(.tnow d, BitVec.ofNat 64 (s.cycle / 15)),
        (.mxstat d, BitVec.ofNat 64 ((if t.mxEntries.any (·.started) then 4 else 0) + t.mxEntries.length))] : List (Instr × Word)),
      MayRun s t p.1 → WritesScalar p.1 s t d p.2)
    ∧ (MayRun s t (.qstat d) → ∃ fly, fly ≤ t.lqFly ∧ Answers (.qstat d) s { s.begun t (.qstat d) with fresh := s.fresh + 1 }
        ({ t.done [.s d] with lqFly := fly }.setS d (BitVec.ofNat 64 (t.sq.length * 256 + fly * 16 + (t.lq.length - fly)))))
    ∧ (MayRun s t (.rstat d a) →
      ((t.s a).toNat < 65535 → WritesScalar (.rstat d a) s t d (match s.tx? core (BitVec.ofNat 16 (t.s a).toNat) with
        | some x => x.sent ++ x.acked ++ BitVec.ofNat 16 x.fails ++ BitVec.ofNat 8 x.edetail ++ BitVec.ofNat 8 x.ecode
        | none => 0))
      ∧ (t.s a = 65535 → WritesScalar (.rstat d a) s t d (s.core core).hostWord)
      ∧ (65535 < (t.s a).toNat → TakesTrap (.rstat d a) s (s.begun t (.rstat d a)) t { cause := .arith, detail := 3 }))
    ∧ (MayRun s t (.agrd d a b) → let ms := s.group (t.s a).toNat
      ((t.s a).toNat < 256 → WritesScalar (.agrd d a b) s t d (BitVec.ofNat 32 ms.length ++ 0#16 ++ ms.getD (t.s b).toNat 0xFFFF))
      ∧ (256 ≤ (t.s a).toNat → TakesTrap (.agrd d a b) s (s.begun t (.agrd d a b)) t { cause := .arith, detail := 3 }))
    ∧ (MayRun s t (.gget d a box) →
      (48 ≤ box → box ≤ 55 → (t.s a).toNat < s.gangSize t →
        ∀ u, s.thread? ⟨t.id.task, t.id.gang, (t.s a).toNat⟩ = some u → u.resident = allLines → WritesScalar (.gget d a box) s t d (u.s box))
      ∧ (box < 48 ∨ 55 < box → TakesTrap (.gget d a box) s (s.begun t (.gget d a box)) t { cause := .deposit, detail := 1 })
      ∧ (48 ≤ box → box ≤ 55 → s.gangSize t ≤ (t.s a).toNat →
        TakesTrap (.gget d a box) s (s.begun t (.gget d a box)) t { cause := .deposit, detail := 2 }))

/-- R130 to R132, R142, R143, R55: `spawn` starts a port of its ASID, whose chain's end gives S(D) its status; `yield` and `retire` give
up the slot; `elect` answers 1 in the first thread of the gang at its k-th `elect`; `gput` deposits into a mailbox. -/
def Obligations.ThreadControl : Prop :=
  ∀ (s : State) (t : Thread) (d a b : SReg) (n box : BitVec 6),
    (MayRun s t (.spawn d a n) → let i := Instr.spawn d a n
      let x := s.port n.toNat
      (x.asid ≠ s.asidOf t → WritesScalar i s t d (statusWord 12 1 0))
      ∧ (x.asid = s.asidOf t → x.takesHead = false → WritesScalar i s t d (statusWord 12 2 0))
      ∧ (x.asid = s.asidOf t → x.takesHead = true → (s.begun t i).mayRelease t.begun true .sys = true →
          (t.s a).toNat % 256 = 0 → (t.s a).toNat < 2 ^ 57 →
          Answers i s { s.begun t i with ports := s.ports.set n.toNat { x with
            head := t.s a, next := t.s a, spawner := some (t.id, d), count := 0, state := .busy } } ((t.done [.s d]).setPending (.s d))))
    ∧ (MayRun s t .yield → let s₀ := s.begun t .yield
      let ready := s.threads.any (fun u => s₀.readyResident u && u.id != t.id && s.coreOf u == s.coreOf t)
      (ready = false → GoesTo .yield s t (t.pc + 8))
      ∧ (ready = true → Answers .yield s (s.begun t .yield) { t.done with run := .resident, slot := none, readyAt := s.cycle }))
    ∧ (MayRun s t .retire → let u := { t.begun with run := .retired, slot := none }
      Answers .retire s (((s.begun t .retire).setThread u).departed t.id) { t.done with run := .retired, slot := none })
    ∧ (MayRun s t (.elect d) → ∀ g, s.gangOf t = some g →
      let k := g.elects.getD t.id.rank 0 + 1
      let wins := phasePassed k g.elected
      Answers (.elect d) s (((s.begun t (.elect d)).setGang { g with elects := g.elects.set t.id.rank k, elected := if wins then k else g.elected }).inOrder
          (.elect t.id.task t.id.gang k.toNat t.id.rank))
        ((t.done [.s d]).setS d (if wins then 1 else 0)))
    ∧ (MayRun s t (.gput box a b) → 48 ≤ box → box ≤ 55 → (t.s a).toNat < s.gangSize t →
      let id : ThreadId := ⟨t.id.task, t.id.gang, (t.s a).toNat⟩
      let m := box.toNat - 48
      let s₀ := ((s.begun t (.gput box a b)).setThread t.begun).inOrder (.deposit id t.id.rank)
      let put (u : Thread) : Thread := { if s₀.depositBetween u m then u else u.setS box (t.s b) with
        deposits := u.deposits.set m (u.deposits.getD m 0 + 1) }
      (∀ u, s.thread? id = some u → u.run = .active ∨ u.run = .resident → u.resident = allLines → u.isPending (.s box) = false →
        (id ≠ t.id → Answers (.gput box a b) s ({ s₀ with fresh := s₀.fresh + 1 }.setThread (put u)) t.done)
        ∧ (id = t.id → Answers (.gput box a b) s { s₀ with fresh := s₀.fresh + 1 } (put t.done)))
      ∧ (∀ s₂ u, s₀.deposit id m (t.s b) = .done s₂ → s₂.thread? t.id = some u → ∃ s', exec (.gput box a b) s = .next s'
        ∧ s' = { s₂ with threads := s'.threads } ∧ ∀ id, id ≠ t.id → s'.thread? id = s₂.thread? id)
      ∧ (∀ u, s.thread? id = some u → u.run = .retired →
        TakesTrap (.gput box a b) s s₀ t { cause := .deposit, detail := 3 }))

/-- R134 to R141: `wait` goes on when one or all of its conditions hold, or at its deadline, and reports which; otherwise it blocks on
its group with the conditions saved. `gbar` and `dbar 1` complete a phase with the last member's arrival, or block past the group; `dbar`
above the thread's level raises ILLEGAL, and `dbar 0` does nothing. -/
def Obligations.WaitsAndBarriers : Prop :=
  ∀ (s s₁ : State) (t : Thread) (all : Bool) (count : BitVec 3) (d b : SReg) (a : VReg) (es : List Elem) (level : BitVec 32),
    let i := Instr.wait all count d a b
    let n := count.toNat
    let cs := tabulate n (fun k => getBits (t.v a) (64 * k) 64)
    let word (k : Nat) : Word := ((es.find? (fun e => e.lane == k)).map (fun e => match e.place with
      | .hbm pa leaf => wordOfBytes (s₁.readVia (viaOf (s₁.asidOf t) e.addr leaf) pa 8)
      | _ => 0)).getD 0
    let holds (k : Nat) : Bool := let c := cs.getD k 0
      let x := t.s (condReg c)
      match condKind c with
      | 0 => condReg c == 0 || (t.isValid (.s (condReg c)) && !t.isPending (.s (condReg c)))
      | 1 => (match condOp c with
          | 0 => word k == x
          | 1 => word k != x
          | _ => decide (x ≤ word k))
      | 2 => barCompleted (word k) (getBits x 0 24)
      | _ => t.deposits.getD ((condReg c).toNat - 48) 0 != getBits c 0 8
    let sat := (List.range n).filter holds
    let dl := if t.s b = 0 then none else some (t.deadline.getD (s.tick + (t.s b).toNat))
    let out := dl.any (· ≤ s.tick)
    (MayRun s t i → cs.all (fun c => !condBad c && (!condReads c || (t.isValid (.s (condReg c)) && !t.isPending (.s (condReg c))))) = true →
      State.checkWords t.begun (s.begun t i) ((List.range n).zip cs) = .ok s₁ es →
      t.begun.watchHit .waitWord .glob 8 (es.map (fun e => (e.lane, e.addr, none))) = none →
      (∀ e ∈ es, ∃ pa leaf, e.place = .hbm pa leaf ∧ s₁.dataBad pa 8 = false) →
      (∀ k < n, condReads (cs.getD k 0) = true → ∃ e ∈ es, e.lane = k) →
      let goes := (if all then sat.length == n && n != 0 else !sat.isEmpty) || out || (n == 0 && t.s b == 0)
      (goes = true → Answers i s (s₁.acquired (sat.any (fun k => condKind (cs.getD k 0) != 0 || t.wideStat.getLsbD (condReg (cs.getD k 0)).toNat)) .sys)
          { (t.done [.s d]).setS d (BitVec.ofNat 64 ((sat.map (2 ^ ·)).sum + if out then 128 else 0)) with deadline := none })
      ∧ (goes = false → Answers i s s₁ { t.begun with
          pc := t.pc, block := .wait, saved := tabulate 4 (fun k => cs.getD k 0), deadline := dl, blockPC := t.pc, blockWord := i.word
          since := if t.block = .wait then t.since else s.cycle }))
    ∧ (∀ g, s.gangOf t = some g → ∀ p ∈ ([(.gbar, .gbar, 0), (.dbar 1, .dbar, 1)] : List (Instr × Block × Nat)), MayRun s t p.1 →
      let g₁ := { g with arrived := g.arrived ||| onesAt 32 t.id.rank 1 }
      let full := (s.mates g.task g.index).all (fun u => u.run == .retired || g₁.arrived.getLsbD u.id.rank)
      (full = true → Answers p.1 s (((s.begun t p.1).setGang { g with phase := g.phase + 1, arrived := 0 }).releaseThreads
          (fun u => u.id != t.id && u.atGbar g && phasePassed (g.phase + 1) u.savedPhase32)) t.done)
      ∧ (full = false → Answers p.1 s ((s.begun t p.1).setGang g₁) { t.done with
          block := p.2.1, saved := savedPhaseWait p.2.2 g.phase, blockPC := t.pc, blockWord := p.1.word, since := s.cycle }))
    ∧ (MayRun s t (.dbar level) →
      ((s.dmem t).toNat % 8 < level.toNat → TakesTrap (.dbar level) s (s.begun t (.dbar level)) t { cause := .illegal, detail := 12 })
      ∧ (level = 0 → GoesTo (.dbar level) s t (t.pc + 8))
      ∧ (2 ≤ level.toNat → level.toNat ≤ (s.dmem t).toNat % 8 → Completes (.dbar level) s t (fun _ t' => t'.pc = t.pc + 8 ∧ t'.regs = t.regs
          ∧ t'.valid = t.valid ∧ t'.flags = t.flags ∧ (t'.block = .none ∨ (t'.block = .dbar ∧ t'.savedLevel = level.toNat)))))

/-! ## The system family, major 0xB0 -/

/-- R144, R145, R27, R28, R41, R42, R46: `mfsr` reads every special register, and `mtsr` writes those that may be written. That a write
of FLAGS, SEED, ASIDX, TRAPGANG or SNAPCTL with ones in reserved bits completes without them is the model's choice (log 28). -/
def Obligations.SpecialRegisters : Prop :=
  ∀ (s : State) (t : Thread) (k : Task) (d a : SReg), s.taskOf t = some k →
    let x := t.s a
    let s₀ (n : BitVec 32) := s.begun t (.mtsr a n)
    let gang := t.id.gang
    (∀ p ∈ ([(0x00, BitVec.ofNat 64 t.id.rank), (0x01, BitVec.ofNat 64 gang), (0x02, BitVec.ofNat 64 k.size),
        (0x03, BitVec.ofNat 32 (gang / k.gx % k.gy + k.gy * (gang / k.gx / k.gy)) ++ BitVec.ofNat 32 (gang % k.gx)),
        (0x04, k.card), (0x05, t.cbase), (0x06, 0#16 ++ t.vwV ++ t.vwK ++ t.vwS), (0x07, s.dmem t), (0x08, t.tvec),
        (0x09, t.trapen ++ 0#16 ++ t.hcause ++ 0#4 ++ BitVec.ofNat 4 t.run.code), (0x0A, t.flags.zeroExtend 64),
        (0x0B, t.seed.zeroExtend 64), (0x0C, s.typeBase k.asid), (0x0D, BitVec.ofNat 64 ((s.coreOf t).getD 0)), (0x0E, s.featAcc0),
        (0x0F, s.featAcc1), (0x10, BitVec.ofNat 64 (0x100 + Config.isaMinor)), (0x20, t.asidx.zeroExtend 64),
        (0x21, s.trapGang t.asidx.toNat &&& 0x01FFFFFFFFFFC00F#64), (0x22, s.agbase), (0x23, s.snapCtl)] : List (BitVec 32 × Word)),
      MayRun s t (.mfsr d p.1) → WritesScalar (.mfsr d p.1) s t d p.2)
    ∧ (∀ p ∈ ([(0x08, x.toNat % 8 = 0, { t.done with tvec := x }),
        (0x09, x &&& 0xFFC0000100000000#64 = 0, { t.done with trapen := getBits x 32 32, ss := x.getLsbD 16 }),
        (0x0A, True, { t.done with flags := getBits x 0 6 }),
        (0x0B, True, { t.done with seed := if getBits x 0 32 = 0 then 1 else getBits x 0 32 }),
        (0x20, True, { t.done with asidx := getBits x 0 16 }),
        (0x06, viewsFault x = none, { t.done with vwS := getBits x 0 16, vwK := getBits x 16 16, vwV := getBits x 32 16 })] :
        List (BitVec 32 × Prop × Thread)),
      MayRun s t (.mtsr a p.1) → p.2.1 → Answers (.mtsr a p.1) s (s₀ p.1) p.2.2)
    ∧ (∀ p ∈ ([(0x0C, (s₀ 0x0C).setDirWord t.asidx.toNat 0x10 x),
        (0x21, { (s₀ 0x21).setDirWord t.asidx.toNat 0x20 (x &&& 0x01FFFFFFFFFFC00F#64) with
          trapBy := s.trapBy.filter (fun p => p.1 != t.asidx.toNat) ++ [(t.asidx.toNat, k.asid)] }),
        (0x22, State.domainsCheck { s₀ 0x22 with agbase := x, agAsid := k.asid }),
        (0x23, { s₀ 0x23 with snap := { s.snap with
          event := getBits x 8 8, keep := x.getLsbD 1, even := x.getLsbD 0 && s.feature 6 } })] : List (BitVec 32 × State)),
      MayRun s t (.mtsr a p.1) → Answers (.mtsr a p.1) s p.2 t.done)
    ∧ (∀ p ∈ ([(0x08, x.toNat % 8 ≠ 0, .align, 4), (0x09, x &&& 0xFFC0000100000000#64 ≠ 0, .illegal, 12),
        (0x06, getBits x 48 16 ≠ 0, .illegal, 12),
        (0x06, getBits x 48 16 = 0 ∧ ((getBits x 0 16).toNat % 8 ≠ 0 ∨ (getBits x 16 16).toNat % 32 ≠ 0 ∨ (getBits x 32 16).toNat % 256 ≠ 0),
          .align, 4),
        (0x06, getBits x 48 16 = 0 ∧ (getBits x 0 16).toNat % 8 = 0 ∧ (getBits x 16 16).toNat % 32 = 0 ∧ (getBits x 32 16).toNat % 256 = 0
          ∧ (0x3000 < (getBits x 0 16).toNat + 512 ∨ 0x3000 < (getBits x 16 16).toNat + 256 ∨ 0x3000 < (getBits x 32 16).toNat + 8192),
          .regRange, 5)] : List (BitVec 32 × Prop × Cause × Nat)),
      MayRun s t (.mtsr a p.1) → p.2.1 → TakesTrap (.mtsr a p.1) s (s₀ p.1) t { cause := p.2.2.1, detail := p.2.2.2 })

/-- R148 to R153, R307: the management instructions. The model's choices behind clauses: the codes of a `pgmig` whose frame number is
2^32 or more, or whose page another device holds that cannot be asked (log 93); the number that `snap` returns (log 60); the slot free
after a `thalt` (log 79); and how the copies that `tlbi` writes back are kept (log 115). -/
def Obligations.Management : Prop :=
  ∀ (s s₁ s₂ s₃ : State) (t : Thread) (d a b : SReg) (kind : TlbiKind) (m : MemOp) (pa h : Nat) (leaf : Word) (ms : List (BitVec 16)),
    let x := t.s a
    let asid := t.asidx.toNat
    (MayRun s t (.tlbi kind a b) → let i := Instr.tlbi kind a b
      let shoot := tlbiShoot kind asid x.toNat (t.s b).toNat
      (kind = .range → 2 ^ 57 < x.toNat + (t.s b).toNat → TakesTrap i s (s.begun t i) t { cause := .addr, detail := 8, addr := x })
      ∧ ((kind = .range → x.toNat + (t.s b).toNat ≤ 2 ^ 57) → Completes i s t (fun s' t' => t' = t.done ∧ s'.mem = s.mem
          ∧ s'.epoch = s.epoch + 1 ∧ s'.pageCheck = s.pageCheck.filter (fun e => !shoot.removes e)
          ∧ s'.memTlb = s.memTlb.filter (fun e => !shoot.removes e) ∧ s'.egress = s.egress.filter (fun e => !shoot.removes e)
          ∧ s'.remLines = s.remLines.filter (fun r => !shoot.covers r.asid r.va)
          ∧ s'.copies.lines = s.copies.lines.map (fun e => e.shot s.cycle shoot))))
    ∧ (MayRun s t .tlbsync → (s.begun t .tlbsync).inFlight t.id = false → GoesTo .tlbsync s t (t.pc + 8))
    ∧ (MayRun s t (.pgmig d a b) → let i := Instr.pgmig d a b
      let frame := (t.s b).toNat
      let read := (s.begun t i).readNodes asid x.toNat
      let ends (w : Word) := Answers i s read ((t.done [.s d]).setS d w)
      s.underMigration asid x.toNat = false → s.walk asid x.toNat ≠ .wait →
        ((∀ page size leaf pa, s.walk asid x.toNat ≠ .leaf page size leaf pa) → ends (statusWord 5 1 0))
        ∧ ∀ page size leaf pa, s.walk asid x.toNat = .leaf page size leaf pa →
          (2 ^ 32 ≤ frame ∨ frame * 4096 % size ≠ 0 → ends (statusWord 13 0 0))
          ∧ (frame < 2 ^ 32 → frame * 4096 % size = 0 → pteMode leaf = 0 →
            Answers i s { read with migs := s.migs ++ [⟨asid, page, size, frame, pa, leaf, some (t.id, d), none, s.tick⟩] }
              ((t.done [.s d]).setPending (.s d)))
          ∧ (frame < 2 ^ 32 → frame * 4096 % size = 0 → pteMode leaf ≠ 0 →
            (ptePeer leaf = 0xFFFF ∨ s.hasFabric = false → ends (statusWord 12 4 0))
            ∧ (ptePeer leaf ≠ 0xFFFF → s.hasFabric = true →
              Answers i s (read.startMigration asid page size frame pa leaf (some (t.id, d))) ((t.done [.s d]).setPending (.s d)))))
    ∧ (MayRun s t (.spsplit a) → ∀ g c, s.gangOf t = some g → g.cluster = some c →
      (x.toNat % 65536 = 0 → x.toNat ≤ 448 * 1024 → Answers (.spsplit a) s
        { s.begun t (.spsplit a) with ceilings := s.ceilings.filter (fun p => p.1 != c) ++ [(c, x.toNat)] } t.done)
      ∧ (x.toNat % 65536 ≠ 0 ∨ 448 * 1024 < x.toNat → TakesTrap (.spsplit a) s (s.begun t (.spsplit a)) t { cause := .illegal, detail := 12 }))
    ∧ (MayRun s t (.thalt d a) → let i := Instr.thalt d a
      (s.target t x = none → WritesScalar i s t d 3)
      ∧ (∀ u, s.target t x = some u → u.id ≠ t.id →
        (u.run = .retired → WritesScalar i s t d 2) ∧ (u.run = .halted → WritesScalar i s t d 1)
        ∧ (u.run ≠ .retired → u.run ≠ .halted → s.midAtomic u.id = false → (s.begun t i).haltOther u ≠ none → Completes i s t (fun s' t' => t' = (t.done [.s d]).setS d 0
            ∧ ∃ u', s'.thread? u.id = some u' ∧ u'.run = .halted ∧ u'.hcause = 0)))
      ∧ (∀ u, s.target t x = some u → u.id = t.id → (s.begun t i).linesHeldUp t.begun t.resident = false → Completes i s t (fun _ t' => t'.run = .halted ∧ t'.hcause = 0 ∧ t'.slot = none
          ∧ t'.pc = t.pc + 8 ∧ (t.badRegs = 0 → t.badQueue = 0 → t.wroteOnly t' [.s d]) ∧ t'.s d = 0)))
    ∧ (MayRun s t (.tresume d a) → let i := Instr.tresume d a
      (s.target t x = none → WritesScalar i s t d 3)
      ∧ ∀ u, s.target t x = some u → u.id ≠ t.id →
        (u.run = .retired → WritesScalar i s t d 2)
        ∧ (u.run = .active ∨ u.run = .resident ∨ (u.run = .parked ∧ u.block ≠ .ctxFault) → WritesScalar i s t d 1)
        ∧ (u.run = .halted ∨ (u.run = .parked ∧ u.block = .ctxFault) → (s.begun t i).linesHeldUp u allLines = false →
          (s.resumeOk u = false → WritesScalar i s t d 4)
          ∧ (s.resumeOk u = true → Answers i s ((s.begun t i).resume u.id) ((t.done [.s d]).setS d 0))))
    ∧ (MayRun s t (.snap d) → let i := Instr.snap d
      let armed := if s.snap.keep || s.snap.armed.any (fun p => p.1 == s.tick) then s.snap.armed else s.snap.armed ++ [(s.tick, 1)]
      Answers i s { s.begun t i with snap := { s.snap with armed := armed } }
        ((t.done [.s d]).setS d ((s.snap.seq + BitVec.ofNat 32 armed.length).zeroExtend 64)))
    ∧ (MayRun s t (.bset m d) → let i := Instr.bset m d
      let va := (effAddr t m none).toNat
      (s.begun t i).bsetPlace t.begun va = .ok s₁ (.hbm pa leaf) → s₁.dataBad pa 8 = false →
      t.begun.watchHit .atomic .glob 8 [(0, va, some ((t.s m.index).toNat, 32))] = none →
      t.begun.elemHeld .atomic .glob 8 ⟨0, va, .hbm pa leaf⟩ = false →
        let s₂ := s₁.atHome pa (localAtomicRank ((s₁.coreOf t).getD 0))
        (s₁.gbarGang asid va = none → Answers i s (s₂.storeHome (viaOf asid va leaf) pa (bytesOfWord (t.s d)) none) t.done)
        ∧ ∀ g, s₁.gbarGang asid va = some g → Answers i s (s₂.setGbar g pa (t.s d)) t.done)
    ∧ (MayRun s t (.agset d a b) → let i := Instr.agset d a b
      let ends (s' : State) (w : Word) := Answers i s (s'.dropPends (.thread t.id)) ((t.done [.s d]).setS d w)
      (s.agbase = 0 → ends (s.begun t i) (statusWord 12 2 0))
      ∧ (s.agbase ≠ 0 → 256 ≤ x.toNat → ends (s.begun t i) (statusWord 13 2 0))
      ∧ (s.agbase ≠ 0 → x.toNat < 256 → (s.begun t i).readListed t.begun 8 (t.s b).toNat = .got s₁ h →
        (65536 ≤ h → ends s₁ (statusWord 13 2 0))
        ∧ (1024 < h → h < 65536 → ends s₁ (statusWord 13 1 0))
        ∧ (h ≤ 1024 → State.readMembers t.begun h ((t.s b).toNat + 8) [] s₁ = .ok (s₂, none) → ends s₂ (statusWord 12 1 0))
        ∧ (h ≤ 1024 → State.readMembers t.begun h ((t.s b).toNat + 8) [] s₁ = .ok (s₂, some ms) →
          s₂.takeGroup t.begun x.toNat ms = .ok s₃ () → ends s₃ (statusWord 0 0 ms.length))))

/-! ## Engine queues, majors 0x80, 0x88, 0x90 and 0xA0 -/

/-- R228, R239 to R243, R374: the matrix instructions, and `rfence`. `mxflag` stands before the end of a command in its cycle (R243). -/
def Obligations.MatrixInstructions : Prop :=
  ∀ (s : State) (t : Thread) (d a b c : SReg) (v : VReg), let m := (t.s a).toNat; let n := (t.s b).toNat; let k := (t.s c).toNat
    (MayRun s t (.mxcmd d v) → let e := MxEntry.pushed (getBits (t.v v) 0 512) d s.stamp
      let u := (t.done [.s d]).setPending (.s d)
      let s₁ := { s.begun t (.mxcmd d v) with stamp := s.stamp + 1 }
      t.ceEntries.any (fun x => enginesClash (getBits (t.v v) 0 512) x t.home) = false →
        (t.mx0 = none → t.mx1 = none → Answers (.mxcmd d v) s s₁ { u with mx0 := some e, mxHead := false })
        ∧ (t.mx0 = none → t.mx1 ≠ none → Answers (.mxcmd d v) s s₁ { u with mx0 := some e, mxHead := true })
        ∧ (t.mx0 ≠ none → t.mx1 = none → Answers (.mxcmd d v) s s₁ { u with mx1 := some e, mxHead := false })
        ∧ (t.mx0 ≠ none → t.mx1 ≠ none → Answers (.mxcmd d v) s (s.begun t (.mxcmd d v)) (t.atGroup.stalled .queue s.cycle)))
    ∧ (MayRun s t (.mxgeom a b c) → let ok := 0 < m ∧ m < 2 ^ 32 ∧ 0 < n ∧ n < 2 ^ 32 ∧ 0 < k ∧ k < 2 ^ 32 ∧ k % 32 = 0
      (ok → Answers (.mxgeom a b c) s (s.begun t (.mxgeom a b c)) { t.done with
        geomM := BitVec.ofNat 32 m, geomN := BitVec.ofNat 32 n, geomK := BitVec.ofNat 32 k })
      ∧ (¬ok → TakesTrap (.mxgeom a b c) s (s.begun t (.mxgeom a b c)) t { cause := .arith, detail := 3 }))
    ∧ (MayRun s t (.mxsub v) →
      let tn := (t.geomN.toNat + 127) / 128
      let tm := (t.geomM.toNat + 63) / 64
      let p := t.id.gang * s.gangSize t + t.id.rank
      let row := 64 * (p / tn)
      let col := 128 * (p % tn)
      let x := if p < tm * tn then
          setBits (setBits (setBits (setBits (t.v v) 320 (onesAt 64 0 (min 64 (t.geomM.toNat - row))))
            384 (onesAt 128 0 (min 128 (t.geomN.toNat - col)))) 512 (BitVec.ofNat 64 row)) 576 (BitVec.ofNat 64 col)
        else setBits (setBits (setBits (setBits (t.v v) 320 (0 : BitVec 64)) 384 (0 : BitVec 128)) 512 (BitVec.allOnes 64)) 576 (BitVec.allOnes 64)
      (t.geomM = 0 → TakesTrap (.mxsub v) s (s.begun t (.mxsub v)) t { cause := .arith, detail := 3 })
      ∧ (t.geomM ≠ 0 → WritesVector (.mxsub v) s t v x))
    ∧ (MayRun s t (.mxflag d) →
      Answers (.mxflag d) s ((s.begun t (.mxflag d)).inOrder (.mxClear t.id)) { (t.done [.s d]).setS d (t.mxf.zeroExtend 64) with mxf := 0 })
    ∧ (MayRun s t (.rfence d) → let i := Instr.rfence d
      let core := (s.coreOf t).getD 0
      let s₁ := (((s.begun t i).clearFails core).dropPends (.thread t.id)).dropPends (.flushHost t.id)
      s.unackedBy (.thread t.id) = false → t.wroteHost = false →
        Answers i s { s₁ with remEpoch := s₁.remEpoch + 1 } { (t.done [.s d]).setS d (failWord (s.failing core)) with wroteHost := false })

/-- R249, R250, R204: each instruction of the copy engine enters the thread's queue with its word and the operands that it captures, not
started, HEAD on the entry pushed earlier, and its status register and its other destinations pending; with both entries held it waits for
the queue. `stash` and `resto` read their descriptor first (R247); that the entry's progress records a descriptor on an absent device is
the model's choice (log 43). -/
def Obligations.EngineQueues : Prop :=
  ∀ (s : State) (t : Thread) (d a b c n : SReg) (v w : VReg) (x y : Space) (ev : BitVec 3) (f : Bool) (k16 : BitVec 16) (k8 : BitVec 8)
    (k7 : BitVec 7) (ix : BitVec 6) (fw : FillWidth) (o : GraphOpt) (got : Except (Nat × Nat) (List Byte)) (e : Eng),
    let q (i : Nat) : Word := getBits (t.v v) (64 * i) 64
    let prog : Word := if o.prog then t.s o.preg else 0
    let nd : List RegRef := if n = 0 then [.s d] else [.s n, .s d]
    let A := t.s a
    let B := t.s b
    let C := t.s c
    let pushes (s₁ : State) (i : Instr) (ops : List Word) (pend : List RegRef) (progress : BitVec 48) : Prop :=
      let entry (head : Bool) : CeEntry := ⟨i.word, ops ++ List.replicate (6 - ops.length) 0, progress, false, head⟩
      let u := pend.foldl Thread.setPending (t.done i.writes)
      t.mxEntries.any (fun e => enginesClash e.cmd (entry false) t.home) = false →
        (t.ce0 = none → t.ce1 = none → Answers i s s₁ { u with ce0 := some (entry true) })
        ∧ (∀ z, t.ce0 = none → t.ce1 = some z → Answers i s s₁ { u with ce0 := some (entry false), ce1 := some { z with head := true } })
        ∧ (∀ z, t.ce0 = some z → t.ce1 = none → Answers i s s₁ { u with ce0 := some { z with head := true }, ce1 := some (entry false) })
    let waits (i : Instr) : Prop := t.ce0 ≠ none → t.ce1 ≠ none → Answers i s (s.begun t i) (t.atGroup.stalled .queue s.cycle)
    (∀ p ∈ ([(.cpy d a b c x y ev f, [A, B, C], [.s d]),
        (.cpy2d d a b v x y ev f, [A, B, q 0, q 1, q 2, q 3], [.s d]),
        (.cpyc d a k16, [A], [.s d]),
        (.cmcast d a v k8 ev, [A, q 0, q 1, q 2, q 3, q 4], [.s d]),
        (.cfill d a b c x fw ev f, [A, B, C], [.s d]),
        (.xpand d a f, [A], [.s d]),
        (.gcopy d a b c n o, [A, B, C, prog], nd),
        (.gsend d a b c o, [A, B, C, prog], [.s d]),
        (.gcmp d a b c o, [A, B, C, prog], [.s d]),
        (.ghash d a b v o, [A, B, 0, prog], [.s d, .v v]),
        (.gfree d a b c n o, [A, B, C, prog], nd),
        (.gcount d a b n o, [A, B, 0, prog], nd),
        (.gintake d a ix ev, [A], [.s d]),
        (.gtype d a b, [A, B], [.s d]),
        (.mldr d a v w k8, [A], [.s d, .v v, .v w]),
        (.mst d a b v k8 k7 f, [A, B], [.s d, .v v])] : List (Instr × List Word × List RegRef)),
      MayRun s t p.1 → pushes (s.begun t p.1) p.1 p.2.1 p.2.2 0 ∧ waits p.1)
    ∧ ∀ i ∈ [Instr.stash d a b c k16, .resto d a b c k16 f], MayRun s t i →
      (A.toNat % 32 ≠ 0 → pushes (s.begun t i) i [A, B, C, 0, 0, 0] [.s d] 0)
      ∧ (A.toNat % 32 = 0 → t.begun.engineHolds false .va A.toNat 32 = false →
        engTry (engRead (pushCtx (s.begun t i) t.begun) A.toNat 32) { s := s.begun t i } = .ok got e →
          pushes (e.s.dropPends (.thread t.id)) i ([A, B, C] ++ capturedDesc got) [.s d] (capturedAbsent got))
      ∧ waits i

/-! ## Steps of the hardware, of the host and of the fabric -/

/-- R6, R65, R66, R68, R202, R311, R346 to R348, R350, R373: what the host's writes, reads and completions do, and the start. A bad chain
head stops its port with code 7 and a record; PARK parks the placed gangs of the port's ASID. With no valid image the part stays in
stage one, code 1; with one, start step 5 ends stage two, and the features are offered. The model's choices: power good is one step that
starts the cycle count at 0 (log 62), what a host read of damaged or absent frames answers (log 64), the low bits of EVBASE (log 65), BASE
of ASIDDIR written while tasks are incomplete (log 68), STATUS and STEP beside code 2 (log 140). -/
def Obligations.HostRegisters : Prop :=
  ∀ (s : State) (p : Nat) (v : Word) (hold : Bool) (pa n tag : Nat) (data : List Byte),
    let x := s.port p
    let put (x : Port) : State := { s with ports := s.ports.set p x }
    let started : Port := { x with head := v, next := v, spawner := none, count := 0 }
    let at' (off : Nat) := exec (.registerWrite (0x100000 + 64 * p + off) v) s
    (p < 64 →
      (x.state = .busy ∨ x.state = .waiting → exec (.sphead p v) s = .next (put { x with lost := true }))
      ∧ (x.state = .idle ∨ x.state = .stopped →
        (v.toNat % 256 = 0 → v.toNat < 2 ^ 57 → exec (.sphead p v) s = .next (put { started with state := .busy }))
        ∧ (v.toNat % 256 ≠ 0 ∨ 2 ^ 57 ≤ v.toNat → exec (.sphead p v) s
            = .next ((put { started with state := .stopped, code := 7, fail := v }).event 0x01 x.asid v (BitVec.ofNat 64 (p + 0x700)))))
      ∧ exec (.spctlHold p hold) s = .next (put { x with hold := hold })
      ∧ (∃ s', exec (.spctlPark p) s = .next s' ∧ s' = { s with gangs := s'.gangs } ∧ ∀ g k, s.gang? g.task g.index = some g →
          s.task? g.task = some k → s'.gang? g.task g.index = some (if k.asid = x.asid ∧ g.cluster.isSome = true then
            { g with parking := some (g.parking.getD 1) } else g))
      ∧ at' 0 = exec (.sphead p v) s
      ∧ at' 0x08 = .next (if x.state = .idle ∨ x.state = .stopped then put { x with asid := v.toNat % 65536 } else s)
      ∧ at' 0x10 = .next (if v.getLsbD 16 then put { x with lost := false } else s)
      ∧ at' 0x18 = (if v.getLsbD 1 then exec (.spctlPark p) (put { x with hold := v.getLsbD 0 }) else .next (put { x with hold := v.getLsbD 0 }))
      ∧ at' 0x20 = .next s)
    ∧ (∀ q ∈ ([(0x0018, if s.featLock then s else { s with featAcc0 := v &&& 0x7F }),
        (0x0020, if s.featLock then s else { s with featAcc1 := v &&& 0x3FFFFFF }),
        (0x1000, { s with events := { s.events with base := v &&& ~~~0xFFF#64 } }),
        (0x1018, { s with events := { s.events with tail := v.toNat % 2 ^ 20, sent := false } }),
        (0x4000, { s with dirBase := getBits v 24 20, dirEn := if s.tasks = [] then v.getLsbD 0 else s.dirEn })] : List (Nat × State)),
      exec (.registerWrite q.1 v) s = .next q.2)
    ∧ (∀ off ∈ [0x0000, 0x0008, 0x0010, 0x0030, 0x1010, 0x1020, 0x2008, 0x5008, 0x6000], exec (.registerWrite off v) s = .next s)
    ∧ exec (.registerWrite 0x0028 v) s = (if v.getLsbD 0 then exec .featlock s else .next s)
    ∧ exec (.registerWrite 0x3000 v) s = (if v.getLsbD 0 then exec .snaptrig s else .next s)
    ∧ (v.getLsbD 1 = true → exec (.registerWrite 0x5000 v) s = exec (.fwctlAct (getBits v 32 32) (v.getLsbD 2)) s)
    ∧ (v.getLsbD 10 = true → ∀ q ∈ ([(1, .fencectlFence (v.toNat % 256)), (2, .fencectlDrain (v.toNat % 256)),
        (3, .fencectlReturn (v.toNat % 256))] : List (Nat × Instr)),
      (getBits v 8 2).toNat = q.1 → exec (.registerWrite 0x2000 v) s = exec q.2 s)
    ∧ (∃ s', exec .featlock s = .next s' ∧ s'.featLock = true
        ∧ (s.featLock = true → s' = s)
        ∧ (s.featLock = false → s'.featAcc0 = s.featAcc0 &&& s.featOff0 ∧ s'.featAcc1 = s.featAcc1 &&& s.featOff1
          ∧ s' = { s with featAcc0 := s'.featAcc0, featAcc1 := s'.featAcc1, featLock := true, fences := s'.fences, links := s'.links
                          events := s'.events, pcie := s'.pcie, snap := s'.snap }
          ∧ (∀ unit < 24, s'.featAcc1.getLsbD unit = false → s'.unitState unit = .fenced)
          ∧ (s'.featAcc0.getLsbD 1 = false → ∀ l ∈ s'.links, l.state = .dark)))
    ∧ (s.boot = ⟨0, 0, 1, 0⟩ → ∃ s', exec .powerGood s = .next s' ∧ s'.cycle = 0 ∧ s'.mem = s.mem
        ∧ (s.site.coolOk = false → s'.boot = ⟨3, 3, 1, 0⟩)
        ∧ (s.site.coolOk = true → match s.fw.bootSlot with
          | none => s'.boot = ⟨1, 3, 1, 0⟩
          | some b => s'.boot = ⟨0, 0, 2, 1⟩ ∧ s'.fw.slot = b))
    ∧ (s.boot.stage = 2 → s.boot.status = 0 → ∃ s', s.stageTwo = some s' ∧ s'.mem = s.mem ∧ s'.boot.stage = 2 ∧ s'.boot.step = s.boot.step
        ∧ s'.boot.status ≠ 0
        ∧ (s.boot.step = 4 → s'.devnum = s.site.devnum)
        ∧ (s.boot.step = 5 → s'.featOff0 = s.site.offer &&& 0x7F ∧ (s.site.linkOk = false → s'.boot = ⟨2, 2, 2, 5⟩)))
    ∧ (s.boot.stage = 2 → s.boot.status ≠ 0 → s.boot.step.toNat < 5 → ∃ s', s.stageTwo = some s' ∧ s'.mem = s.mem
        ∧ s'.boot = ⟨0, 0, 2, s.boot.step + 1⟩)
    ∧ (5 ≤ s.boot.step.toNat → s.boot.status ≠ 0 → s.stageTwo = none)
    ∧ (data ≠ [] → pa + data.length ≤ Config.hbmBytes → s.resident pa = true → (∀ u ∈ s.threads, u.damaged = 0 ∧ u.block ≠ .bar) →
        ∃ s', exec (.hostWrite pa data) s = .next s' ∧ s' = { s with mem := s.mem.write pa data, copies := s'.copies, watched := s'.watched }
          ∧ s'.readPA pa data.length = data)
    ∧ (pa + n ≤ Config.hbmBytes → s.resident pa = true → s.badAt pa n = false →
        let u := s.corrected pa n
        exec (.hostRead pa n) s = .next { u with pcie := u.pcie ++ [.completion (u.readPA pa n)] })
    ∧ ∀ q, s.pends.find? (fun q => q.tag == tag && q.answer.isNone) = some q →
        let ends (a : Answer) : State := { s with pends := s.pends.map (fun r => if r.tag = tag then { r with answer := some a } else r) }
        s.hostRefuses tag = false →
        ((∀ c id, q.owner ≠ .hostNr c id) → exec (.pcieCompletion tag (.data data)) s = .next (ends (.data data)))
        ∧ (∀ c id, q.owner = .hostNr c id → exec (.pcieCompletion tag (.data data)) s
            = .next { s with pends := s.pends.filter (fun r => r.tag != tag) })

/-- R351 to R358: fences, firmware and snapshots. FENCECTL is served with LIVESVC for units 0 to 119; a die is fenced when no gang is
left on it (log 58), a stack at once, a braid with its link down and its packets rerouted; a returned stack's bytes are unknown. FWCTL
while an update runs only sets RESULT 5; an image that does not verify ends 2, one below the floor 3, and a good one takes the other slot
at the swap, by the LEN that came with ACT. A snapshot latches two ticks after its trigger. A damaged line is retired to a spare, or its
frame is lost. The model's choices: one FIRMWARE_ACTIVATION_END ends the verification and one the swap (log 61), a braid in service returns
with its feeds relit (log 63), what shows while a die's gangs leave (log 58), the moment of a frozen register (log 142). -/
def Obligations.ServiceSteps : Prop :=
  ∀ (s : State) (unit line : Nat) (len : BitVec 32) (commit : Bool),
    let st := s.unitState unit
    let named : State := { s with fenceSel := unit }
    let f := s.fw
    let fw (x : Firmware) : State := { s with fw := x }
    let busy := f.state = .verifying ∨ f.state = .swapping
    let other : Word := if f.slot then 0 else 1
    (s.feature 5 = false ∨ 120 ≤ unit →
      ∀ i ∈ [Instr.fencectlFence unit, .fencectlDrain unit, .fencectlReturn unit], exec i s = .next s)
    ∧ (s.feature 5 = true → unit < 120 →
      exec (.fencectlDrain unit) s = .next (if st = .inService then named.setUnit unit .draining else named)
      ∧ (st = .fenced ∨ st = .recalibrating → exec (.fencectlFence unit) s = .next named)
      ∧ (st = .inService ∨ st = .draining →
        (8 ≤ unit → unit < 24 → exec (.fencectlFence unit) s = .next (named.setUnit unit .fenced))
        ∧ (24 ≤ unit → ∃ s', exec (.fencectlFence unit) s = .next s' ∧ s'.unitState unit = .fenced
            ∧ let l := s'.linkOf (unit + 8); (l.state = .down ∨ l.state = .dark) ∧ l.replay = [] ∧ l.queue = [])
        ∧ (unit < 8 → ∃ s', exec (.fencectlFence unit) s = .next s'
            ∧ ((∀ g ∈ s.gangs, ∀ c, g.cluster = some c → c / 32 ≠ unit) → s'.unitState unit = .fenced ∧ s'.gangs = s.gangs)
            ∧ ∀ g c, s.gang? g.task g.index = some g → g.cluster = some c → c / 32 = unit →
              s'.unitState unit = .draining ∧ s'.gang? g.task g.index = some { g with parking := some (g.parking.getD 1) }))
      ∧ (st = .fenced → exec (.fencectlReturn unit) s = .next (named.setUnit unit .recalibrating))
      ∧ (st = .draining ∨ st = .recalibrating ∨ (st = .inService ∧ unit < 24) → exec (.fencectlReturn unit) s = .next named)
      ∧ (st = .inService → 24 ≤ unit → ∃ s', exec (.fencectlReturn unit) s = .next s' ∧ s'.unitState unit = .recalibrating
          ∧ ((s'.linkOf (unit + 8)).state = .down ∨ (s'.linkOf (unit + 8)).state = .dark)))
    ∧ (st ≠ .draining → exec (.drainComplete unit) s = .next s)
    ∧ (st = .draining → unit < 8 → (∀ g ∈ s.gangs, ∀ c, g.cluster = some c → c / 32 ≠ unit) →
        exec (.drainComplete unit) s = .next ((s.flushDie unit).setUnit unit .fenced))
    ∧ (st ≠ .recalibrating → exec (.recalibrationComplete unit) s = .next s)
    ∧ (st = .recalibrating →
      (unit < 8 → exec (.recalibrationComplete unit) s = .next (s.setUnit unit .inService))
      ∧ (8 ≤ unit → unit < 24 → ∃ s', exec (.recalibrationComplete unit) s = .next s' ∧ s'.unitState unit = .inService
          ∧ ∀ a, s'.readPA a 1 = if stackOf a = unit - 8 then [Config.freeByte s.fresh a] else s.readPA a 1)
      ∧ (24 ≤ unit → unit < 120 → ∃ s', exec (.recalibrationComplete unit) s = .next s' ∧ s'.unitState unit = .inService
          ∧ (s'.linkOf (unit + 8)).feeds = 15))
    ∧ (busy → exec .fwctlOpen s = .next (fw { f with result := 5 }) ∧ exec (.fwctlAct len commit) s = .next (fw { f with result := 5 }))
    ∧ (¬busy → exec .fwctlOpen s = .next (fw { f with state := .windowOpen, window := [] })
      ∧ (len = 0 ∨ 2 ^ 24 < len.toNat → exec (.fwctlAct len commit) s
          = .next ((fw { f with len := len, taken := len, commit := commit, state := .idle, result := 4 }).event 0x0D 0 other 4))
      ∧ (len ≠ 0 → len.toNat ≤ 2 ^ 24 → exec (.fwctlAct len commit) s
          = .next (fw { f with len := len, taken := len, commit := commit, state := .verifying })))
    ∧ (f.state = .verifying → let img := cellsRead (fun _ => 0) f.window 0 f.taken.toNat
      exec .firmwareActivationEnd s = .next (
        if Config.imageVerifies img = false then (fw { f with state := .idle, result := 2 }).event 0x0D 0 other 2
        else if Config.imageVersion img < f.floor then (fw { f with state := .idle, result := 3 }).event 0x0D 0 other 3
        else (fw { f with state := .swapping }).freeze))
    ∧ (f.state = .swapping → s.events.held = [] → let img := cellsRead (fun _ => 0) f.window 0 f.taken.toNat
      let v := Config.imageVersion img
      exec .firmwareActivationEnd s = .next ({ fw { f with
        slotA := if f.slot then img else f.slotA, slotB := if f.slot then f.slotB else img
        state := .idle, result := 1, slot := !f.slot, runver := v
        floor := if f.commit ∧ f.floor < v then v else f.floor } with frozen := none }.event 0x0D 0 other 1))
    ∧ (∀ x, s.frozen = some x → ∀ off < 0x1000000, off ≠ 0 → off ≠ 0x5000 → off ≠ 0x5008 → s.register off = (x.1.lookup off).getD 0)
    ∧ exec .snaptrig s = .next (if s.snap.keep || s.snap.armed.any (fun a => a.1 == s.tick) then s
        else { s with snap := { s.snap with armed := s.snap.armed ++ [(s.tick, 2)] } })
    ∧ (∀ tick which rest, s.snap.armed = (tick, which) :: rest →
      (s.tick < tick + 2 → exec .snapshotLatch s = .next s)
      ∧ (tick + 2 ≤ s.tick → exec .snapshotLatch s = .next ({ s with snap := { s.snap with
          armed := rest, seq := s.snap.seq + 1, tick := tick + 2, trigger := which, discards := s.discards
          cores := s.busyCores.map (fun c => (c, s.coreWords c)) } }.event 0x0C 0 ((s.snap.seq + 1).setWidth 64) (BitVec.ofNat 64 which))))
    ∧ (line ∈ s.badLines → ∃ s', exec (.patrolScrub line) s = .next s' ∧ line ∉ s'.badLines
        ∧ (s.sparesUsed (stackOf (line * 256)) < Config.sparesPerStack →
          s'.retired = s.retired ++ [line] ∧ s'.mem = s.mem.write (line * 256) (List.replicate 256 0))
        ∧ (Config.sparesPerStack ≤ s.sparesUsed (stackOf (line * 256)) →
          s'.mem = s.mem ∧ ∀ a, a / 4096 = line / 16 → s'.resident a = false))
    ∧ (line ∉ s.badLines → line ∈ s.softLines → ∃ s', exec (.patrolScrub line) s = .next s' ∧ line ∉ s'.softLines ∧ s'.mem = s.mem)

/-- R31 to R38, R63 to R76, R82, R83, R135, R331: what the ports and the scheduler do when their conditions hold, in terms of the order of
the ready gangs (R73), the clusters that fit (R31, R74), and the steps of parking, placing and retiring. The model's choices: CARDS counts
a refused card (log 67), a head's waiting counts while it stands at the head (log 71), a card in a damaged line ends 0x0A and its line is
retired (log 132), the completion word's way (log 77), a card read in one step (log 134), a reserved cluster's match (log 137). -/
def Obligations.SchedulerSteps : Prop :=
  ∀ (s s₂ s₃ : State) (p core : Nat) (t u : Thread) (k : Task) (g : Gang) (w : Word) (pa pa₂ page size : Nat) (via via₂ : Via)
    (leaf : Word),
    let x := s.port p
    let s₁ := s.looked
    (p < 64 → x.state = .waiting → s.cardWaits p = false →
      (s.ownership p = none → exec (.cardOwnershipWatch p) s
          = .next ((if s.asidValid x.asid then s.cardRetired x.asid x.next.toNat else s).refuseCard p x.next 0x0A))
      ∧ (s.ownership p = some (s₂, w) → exec (.cardOwnershipWatch p) s
          = .next (if w.getLsbD 0 then s₂.setPort p { x with state := .busy } else s₂)))
    ∧ (p < 64 → s.nextPort ≠ some p → exec (.portCardConsume p) s = .next s)
    ∧ (s.nextPort = some p → s.asidValid x.asid = true → s.cardPA x.asid x.next.toNat false = some (s₂, pa, via) →
      let s₂ := s₂.corrected pa 256
      let card := s₂.readVia via pa 256
      let own := cardField card 0xC0 8
      (own % 2 = 0 → exec (.portCardConsume p) s = .next (s₂.setPort p { x with state := .waiting }))
      ∧ (own % 2 = 1 → s₂.cardPA x.asid x.next.toNat true = some (s₃, pa₂, via₂) →
        let c := (s₃.atHome (pa₂ + 0xC0) localStoreRank).storeHome via₂ (pa₂ + 0xC0) (bytesOfNat 8 (own - 1)) none
        let y := c.port p
        let counted := { y with cards := y.cards + 1 }
        let new := cardTask card x.asid x.next
        let num := c.freeTask 4096 c.nextTask
        let edges := (c.tasks.filter new.edgeFrom).map (·.num)
        let next := BitVec.ofNat 64 (own / 256 * 256)
        (∀ code, cardFault card = some code → exec (.portCardConsume p) s = .next ((c.setPort p counted).refuseCard p x.next code))
        ∧ (cardFault card = none → new.cores = true → c.fitsDevice new = false →
          exec (.portCardConsume p) s = .next ((c.setPort p counted).refuseCard p x.next 0x0B))
        ∧ (cardFault card = none → (new.cores = false ∨ c.fitsDevice new = true) → (next ≠ 0 ∨ y.spawner = none) → y.state = .busy →
          c.ports.length = 64 → exec (.portCardConsume p) s = .next { c with
            tasks := c.tasks ++ [{ new with num := num, edges := edges, ready := edges.isEmpty, readyAt := c.tick, ageFrom := c.tick }]
            nextTask := (num + 1) % 65536, portTurn := (p + 1) % 64
            ports := c.ports.set p { counted with
              next := next, count := y.count + 1, state := if next = 0 then .idle else .busy } })))
    ∧ (s₁.matched = [] →
      (s₁.order = [] → exec .gangPlace s = .next s₁)
      ∧ ∀ h rest c, s₁.order = h :: rest → s₁.task? h.task = some k → k.cores = false → s₁.canPlace k h.index = true →
        s₁.findCluster k h.index = some c → exec .gangPlace s = .next (s₁.place k h.index c))
    ∧ (core < Config.cores → (s.waiting core = none → exec (.timeSlice core) s = .next s)
      ∧ ∀ n, s.waiting core = some t → t.readyAt + 4096 ≤ s.cycle → s.makeSlot core none = none →
        earliest (·.seatedAt) ((s.activeOn core).filter (fun u => !u.isBlocked && !s.isStalled u)) = some u → s.thread? t.id = some t → s.thread? u.id = some u →
        (s.demote u.id).freeSlot core = some n → ∃ s', exec (.timeSlice core) s = .next s' ∧ s' = { s with threads := s'.threads }
          ∧ s'.thread? u.id = some { u with run := .resident, slot := none, readyAt := s.cycle }
          ∧ s'.thread? t.id = some { t with run := .active, slot := some n, seatedAt := s.cycle, lastA := s.cycle, lastE := s.cycle })
    ∧ (s.gang? g.task g.index = some g → s.task? g.task = some k → exec (.priorityAging g.task g.index) s = .next (
        if g.cluster = none ∧ g.ready = true ∧ g.prio < 7 ∧ g.ageFrom + 5000 ≤ s.tick then
          s.setGang { g with prio := g.prio + 1, ageFrom := g.ageFrom + 5000 } else s))
    ∧ (∀ i, s.gang? k.num i = none → s.task? k.num = some k → exec (.priorityAging k.num i) s = .next (
        if k.ready = true ∧ k.formed < k.gangs ∧ k.prioEff < 7 ∧ k.ageFrom + 5000 ≤ s.tick then
          s.setTask { k with prioEff := k.prioEff + 1, ageFrom := k.ageFrom + 5000 } else s))
    ∧ (∀ h rest since c, s₁.order = h :: rest → s₁.headGang = some (h.task, h.index, since) → s₁.tryPlace h = none →
      (s₁.reserved = none → s₁.roomiest = some c → exec .clusterReservation s = .next (
        if since + 20000 ≤ s₁.tick then { s₁ with reserved := some (c, h.task, h.index) } else s₁))
      ∧ (s₁.reserved ≠ none → exec .clusterReservation s = .next s₁)
      ∧ (s₁.tick < since + 2000 → exec .preemption s = .next s₁)
      ∧ ∀ vs, since + 2000 ≤ s₁.tick → s₁.task? h.task = some k → k.cores = false →
        s₁.preemptPlan k [h.index] [] = some [(h.index, c, vs)] → vs ≠ [] →
        ∃ s', exec .preemption s = .next s' ∧ s' = { s₁ with gangs := s'.gangs, matched := s₁.matched
              ++ [(k.num, if (s₁.gang? k.num h.index).isSome then some h.index else none, c)] }
          ∧ ∀ v, s₁.gang? v.task v.index = some v → s'.gang? v.task v.index = some (
              if (v.task, v.index) ∈ vs ∧ v.cluster.isSome = true then { v with parking := some (v.parking.getD 1) } else v))
    ∧ (s₁.idleGangs = [] → exec .idleGangPark s = .next s₁)
    ∧ (∀ rest h hs c, s₁.idleGangs = g :: rest → g.cluster = some c → s₁.order = h :: hs → s₁.task? h.task = some k → k.cores = false →
      s₁.keptCluster c k.num h.index = false → s₁.fits k c ((g.task, g.index) :: s₁.leavingOf c) (s₁.comingTo c) = true →
      exec .idleGangPark s = .next { s₁.beginPark 0 (g.task, g.index) with
        matched := s₁.matched ++ [(h.task, if h.formed then some h.index else none, c)] })
    ∧ (s.gang? g.task g.index = some g →
      (g.parking = none → exec (.gangParkComplete g.task g.index) s = .next s)
      ∧ ∀ why, g.parking = some why → s.task? g.task = some k →
        ((s.parksWith k g).any (s.parkWaits k) = true → exec (.gangParkComplete g.task g.index) s = .next s)
        ∧ (k.cores = false → (s.mates g.task g.index).any (fun t => s.midWork t || s.midTile t || (s.suspendXpand t.id).isNone) = false →
          (∀ ps, s.imagePieces k g.index k.imageBytes = .ok ps →
            let q := (s.mates g.task g.index).foldl (fun s t => s.parkThread t.id) s
            let (q, h) := q.scrubGang g (g.cluster.getD 0)
            let r := q.putPieces ps (h.image k)
            exec (.gangParkComplete g.task g.index) s = .next (r.setGang { h with
                cluster := none, parking := none, imaged := true, imageLost := false, spad := [], bstore := []
                ready := why != 0, prio := k.prio, ageFrom := r.tick, keptReady := why != 0 }))
          ∧ (s.imagePieces k g.index k.imageBytes = .bad → exec (.gangParkComplete g.task g.index) s
            = .next ((s.setGang { g with parking := none, imageLost := true }).imageNotice k g.index)))
        ∧ (k.cores = true → (s.parksWith k g).any (s.parkWaits k) = false → (s.parksWith k g).any (fun h => s.imageAbsent k h.index) = true →
          (s.gangs.map (fun h => (h.task, h.index))).Nodup → ∃ s', exec (.gangParkComplete g.task g.index) s = .next s'
            ∧ ∀ h ∈ s.parksWith k g, ∃ h', s'.gang? h.task h.index = some h' ∧ h'.cluster = h.cluster ∧ h'.parking = none))
    ∧ (s.thread? t.id = some t →
      (s.settled t = false → exec (.retirementEffect t.id) s = .next s)
      ∧ (s.settled t = true → s.taskOf t = some k →
        let k' := { k with retired := k.retired + 1 }
        let r := (s.retireThread t).setTask k'
        (k.retired + 1 ≠ k.gangs * k.size → exec (.retirementEffect t.id) s = .next r.domainsCheck)
        ∧ (k.retired + 1 = k.gangs * k.size → (r.setTask { k' with closing := true }).translate none k.asid k.done.toNat ⟨false, true, false, false⟩ = .ok s₂ page size leaf →
          pteMode leaf = 0 → let pa := leafPA page leaf k.done.toNat
          s₂.dataBad pa 8 = false → exec (.retirementEffect t.id) s
            = .next (((s₂.atHome pa localStoreRank).storeHome (viaOf k.asid k.done.toNat leaf) pa (bytesOfWord k.value) none).removeTask
                k.num).domainsCheck)))
    ∧ (s.thread? t.id = some t →
      (s.waitExpired t = false → exec (.waitTimeout t.id) s = .next s)
      ∧ (s.waitExpired t = true →
        (t.run = .resident → exec (.waitTimeout t.id) s = .next (s.setThread { t with
          block := .none, saved := List.replicate 4 0, readyAt := s.cycle }))
        ∧ (t.run = .parked → exec (.waitTimeout t.id) s = .next s.refreshReady)
        ∧ ∀ all n d a b, t.run = .active → s.mayIssue t = true → s.cur = t.id → decodeWord t.blockWord = .ok (.wait all n d a b) →
          exec (.waitTimeout t.id) s = exec (.wait all n d a b) s))
    ∧ ∀ asid, let q := s.noticeQueue asid
      (q.held = [] → exec (.trapNotice asid) s = .next s)
      ∧ (∀ id rest, q.held = (w, id) :: rest → s.unsaved id = true → exec (.trapNotice asid) s = .next s)
      ∧ ∀ id rest, q.held = (w, id) :: rest → s.unsaved id = false → let s₀ := s.setNoticeQueue { q with held := rest }
        (s.trapServed asid = false → exec (.trapNotice asid) s = .next ((s₀.event 0x02 asid w 0).clearNpend id))
        ∧ (s.trapServed asid = true →
          (s.noticeFree q = false → exec (.trapNotice asid) s = .next s)
          ∧ (s.noticeFree q = true → s.receiver asid = none → exec (.trapNotice asid) s = .next ((s₀.event 0x02 asid w 0).clearNpend id))
          ∧ (s.noticeFree q = true → s.receiver asid = some t → let m := trapMbox (s.trapGang asid)
            s.deposit t.id m w = .done s₂ → exec (.trapNotice asid) s = .next
              (((s₂.onThread t.id (fun t => { t with mboxSeen := t.mboxSeen &&& ~~~onesAt 8 m 1 })).setNoticeQueue
                { q with held := rest, last := some (t.id, m) }).clearNpend id)))

/-- R50, R229, R231 to R238, R249, R261, R307, R320, R323: the engines, held writes, walks and migrations. The copy engine serves the first
thread in rotation whose command can proceed; the matrix engine starts the earliest command, with C as it is then, or ends it with the first
check that it fails, and a compute command ends with C written and its status. A completed migration has moved the page, rewritten the
leaf, and left no translation of the page in any store. The model's choices: C is read at the start, A and B at the end (log 48), the
progress of the commands (log 49), which hand-over fits and late data (log 95), the order in which the steps of different agents come
(log 6). -/
def Obligations.EngineSteps : Prop :=
  ∀ (s s' : State) (core n : Nat) (t : Thread) (one : Bool) (e : MxEntry) (w : Walk) (m : Migration) (d : Deferred), core < Config.cores →
    (s.ceTurns core = [] → exec (.engineUnit core) s = .next s)
    ∧ (∀ id before after, s.ceTurns core = before ++ id :: after → (∀ x ∈ before, s.engineTry x = none) → s.engineTry id = some s' →
      exec (.engineUnit core) s = .next (s'.setCore { s'.core core with ceTurn := some id, units := (s'.core core).units + 1 }))
    ∧ (s.mxNext core = none → exec (.matrixCommandStart core) s = .next s)
    ∧ (s.mxNext core = some (t, one, e) → let check := mxCheck e.cmd (s.padBytes t) (s.bankBytes t)
      (∀ code detail, check = some (code, detail) → exec (.matrixCommandStart core) s = .next (s.endMx t.id 0 code detail 0))
      ∧ (check = none → let readsC := mxKind e.cmd = 0 ∨ mxKind e.cmd = 2 ∨ mxKind e.cmd = 4
        (∀ u, readsC → s.mxLost t (mxCRanges e.cmd) = some u → exec (.matrixCommandStart core) s = .next (u.endMx t.id 0 5 4 0))
        ∧ ((readsC → s.mxLost t (mxCRanges e.cmd) = none) → exec (.matrixCommandStart core) s = .next (s.editMx t one (some { e with
          started := true, row := 0, acking := false, wide := false, found := 0
          base := if readsC then (mxElems e.cmd).map (fun p => s.mxReadC t e.cmd p.1 p.2) else [] })))))
    ∧ (∀ p ∈ ([(.mma core, 0), (.mmaz core, 1), (.mmas core, 2)] : List (Instr × Nat)),
      (s.mxCommand core p.2 = none → exec p.1 s = .next s)
      ∧ (∀ u, s.mxCommand core p.2 = some (t, e) → s.mxLost t (mxInputRanges e.cmd) = some u → exec p.1 s = .next (u.endMx t.id 0 5 4 0))
      ∧ (∀ u, s.mxCommand core p.2 = some (t, e) → s.mxLost t (mxInputRanges e.cmd) = none → s.mxBLost t e.cmd = some u →
        exec p.1 s = .next (u.endMx t.id 0 5 4 0))
      ∧ (s.mxCommand core p.2 = some (t, e) → s.mxLost t (mxInputRanges e.cmd) = none → s.mxBLost t e.cmd = none →
        let r := s.mxProduct t e.cmd e.base
        exec p.1 s = .next (((s.mxWriteC t e.cmd r.1).countKSteps core (mxK e.cmd)).endMx t.id r.2 0 0 (mxK e.cmd))))
    ∧ (∀ (c : BitVec 512) (i j base : Nat) (a b : List Nat), mxAcc c = 2 → a.length = 32 → b.length = 32 →
      let x : Int := signedNat base 32 + (((a.map (mxInt (mxFmtA c))).zip (b.map (mxInt (mxFmtB c)))).map (fun p => p.1 * p.2)).sum
      s.mxElement t c i j a b base = (if x < -(2 ^ 31) then (2 ^ 31, mxASAT) else if 2 ^ 31 ≤ x then (2 ^ 31 - 1, mxASAT)
        else ((BitVec.ofInt 32 x).toNat, 0)))
    ∧ (s.mxCommand core 5 = none → exec (.matrixCzero core) s = .next s)
    ∧ (s.mxCommand core 5 = some (t, e) → exec (.matrixCzero core) s = .next ((s.mxWriteC t e.cmd ((mxElems e.cmd).map (fun p => (p, 0)))).endMx
        t.id 0 0 0 ((mxElems e.cmd).length * mxCBytes e.cmd)))
    ∧ (∀ p ∈ ([(.bload core, 3, mxK e.cmd, 16 * fmtBits (mxFmtB e.cmd), fun x => bloadRow x e.cmd),
        (.cstore core, 4, (mxRows e.cmd).length, (mxCols e.cmd).length * (fmtBits (mxFmtB e.cmd) / 8), fun x => cstoreRow x e.cmd e.base)] :
        List (Instr × Nat × Nat × Nat × (EngCtx → Nat → E (BitVec 3)))),
      let kind := p.2.1; let rows := p.2.2.1; let bytes := p.2.2.2.1; let unit := p.2.2.2.2
      let x : EngCtx := { t := t, owner := .matrix t.id, asid := s.asidOf t, core := core, user := s.isUser t, mine := none }
      (s.mxCommand core kind = none → exec p.1 s = .next s)
      ∧ (s.mxCommand core kind = some (t, e) →
        (s.unackedBy x.owner = true → exec p.1 s = .next s)
        ∧ (s.unackedBy x.owner = false →
          (∀ f, s.engFailure x.owner = some f → exec p.1 s = .next (s.endMx t.id e.found (failStatus f).1 (failStatus f).2 (e.row * bytes)))
          ∧ (s.engFailure x.owner = none → e.acking = false → s.thread? t.id = some t → mxKind e.cmd = kind →
            (rows ≤ e.row → exec p.1 s = .next (s.endMx t.id e.found 0 0 (rows * bytes)))
            ∧ (e.row < rows →
              (∀ c k z, unit x e.row { s := s } = .error (.fail c k) z → exec p.1 s = .next (z.s.endMx t.id e.found c k (e.row * bytes)))
              ∧ (∀ asks z, unit x e.row { s := s } = .error (.wait asks) z → exec p.1 s = .next (s.sendAsks x asks))
              ∧ (∀ f z, unit x e.row { s := s } = .ok f z → let s' := z.commit x
                let waits := s'.unackedBy x.owner
                let u := (s'.dropPends x.owner).onMx t.id (fun e => { e with
                  row := if waits then e.row else e.row + 1, acking := waits, found := e.found ||| f
                  wide := e.wide || z.out.any (fun w => w.1 != 0xFFFF) })
                exec p.1 s = .next (if waits then u else mxRowLoop x rows bytes (unit x) rows u)))))))
    ∧ (s.deferred.find? (fun x => x.cbase == d.cbase) = none → exec (.deferredContextWrite d.cbase) s = .next s)
    ∧ (∀ v reg, s.deferred = [d] → d.writes = [.scalar reg v] → d.posting = none → reg ≠ 0 → s.thread? d.owner = some t → t.resident = allLines → t.waitsHere = true →
      viewsOk t.vwS.toNat t.vwK.toNat t.vwV.toNat = true → ∃ s', exec (.deferredContextWrite d.cbase) s = .next s' ∧ s'.deferred = [] ∧ s'.mem = s.mem
        ∧ ∃ u, s'.thread? d.owner = some u ∧ u.s reg = v ∧ u.isPending (.s reg) = false)
    ∧ exec (.cpycOwnershipTimeout core) s = .next (match s.threads.find? (fun t => s.coreOf t == some core && s.cpycExpired t) with
        | some t => (s.engineTry t.id).getD s
        | none => s)
    ∧ (s.walks[n]? = none → exec (.walkFill n) s = .next s)
    ∧ (s.walks[n]? = some w → let k := tlbNumber w.asid w.va.toNat
      let read := s.readNodes w.asid w.va.toNat
      let gone : State := { read with walks := s.walks.eraseIdx n }
      (s.underMigration w.asid w.va.toNat = true → exec (.walkFill n) s = .next s)
      ∧ (s.underMigration w.asid w.va.toNat = false → w.size ≠ 0 → w.epoch = s.epoch → s.walkWord w.leafPA = w.leaf → let leaf := pteTouch w.leaf false
        let u := if leaf = w.leaf then s else s.putEntry w.leafPA leaf
        exec (.walkFill n) s = .next { u with
          walks := s.walks.eraseIdx n
          memTlb := if (s.tlbHit w.asid w.va.toNat).isSome then s.memTlb else s.memTlb ++ [⟨k, w.asid, w.page, w.size, leaf, regionOf w.va.toNat⟩]
          pageCheck := s.pageCheck.filter (fun e => !(e.holder == w.core && e.hits w.asid w.page)) ++ [⟨w.core, w.asid, w.page, w.size, leaf, 0⟩] })
      ∧ (s.underMigration w.asid w.va.toNat = false → w.size = 0 ∨ w.epoch ≠ s.epoch ∨ s.walkWord w.leafPA ≠ w.leaf →
        (∀ page size leaf pa, s.walk w.asid w.va.toNat = .leaf page size leaf pa →
          ((Need.mk true false false w.user).granted leaf = true → exec (.walkFill n) s = .next { read with
            walks := s.walks.set n { w with epoch := s.epoch, page := page, size := size, leaf := leaf, leafPA := pa } })
          ∧ ((Need.mk true false false w.user).granted leaf = false → exec (.walkFill n) s = .next gone))
        ∧ (s.walk w.asid w.va.toNat = .wait → exec (.walkFill n) s = .next s)
        ∧ (s.walk w.asid w.va.toNat = .page ∨ s.walk w.asid w.va.toNat = .addr ∨ (∃ pa, s.walk w.asid w.va.toNat = .table pa) →
          exec (.walkFill n) s = .next gone)))
    ∧ (s.migs[n]? = none → exec (.migrationComplete n) s = .next s)
    ∧ (s.migs[n]? = some m → s.heldBySegment m = true → exec (.migrationComplete n) s = .next s)
    ∧ (s.migs[n]? = some m → s.heldBySegment m = false → s.framesResident (m.frame * 4096) m.size = true → m.asker = none →
      (∀ u ∈ s.threads, u.block ≠ .bar) →
      let old := pteFrame m.leaf * 4096
      let leaf : Word := BitVec.ofNat 32 m.frame ++ getBits m.leaf 8 24 ++ 0#2 ++ getBits m.leaf 0 6
      let read := if pteMode m.leaf = 0 then s.corrected old m.size else s
      ∀ bytes, (pteMode m.leaf = 0 ∧ s.badAt old m.size = false ∧ s.framesResident old m.size = true ∧ bytes = s.readPA old m.size
          ∨ pteMode m.leaf ≠ 0 ∧ m.data = some bytes) →
        (read.walkWord m.leafPA ≠ m.leaf → exec (.migrationComplete n) s = .next { read with migs := s.migs.eraseIdx n })
        ∧ (read.walkWord m.leafPA = m.leaf → ∃ s', exec (.migrationComplete n) s = .next s' ∧ s'.migs = s.migs.eraseIdx n
          ∧ s'.mem = ((s.putMem (m.frame * 4096) bytes).putEntry m.leafPA leaf).mem ∧ s'.epoch = s.epoch + 1
          ∧ ∀ e, (e ∈ s'.pageCheck ∨ e ∈ s'.memTlb ∨ e ∈ s'.egress) → e.hits m.asid m.page = false))
    ∧ (s.migs[n]? = some m → s.heldBySegment m = false → s.framesResident (m.frame * 4096) m.size = true → m.asker = none →
      pteMode m.leaf ≠ 0 → m.data = none →
      exec (.migrationComplete n) s = .next (if m.asked + 100000 ≤ s.tick then
        { s with migs := s.migs.eraseIdx n }.setPageCount m.asid m.page 0 else s))
    ∧ ∀ (f : Frame) (asked : Nat) (va : Word) (size : Nat),
      let refused (u : State) : State := u.answerFrame f 10 (.handOverRefused asked va)
      let kept := exec (.migrationHandOver f) s = .next { s with inbox := s.inbox ++ [f] }
      (f.payload = .handOverReq asked va size →
        (s.asidOfJob f.job = none → exec (.migrationHandOver f) s = .next (refused s))
        ∧ ∀ asid, s.asidOfJob f.job = some asid →
          let read := s.readNodes asid va.toNat
          (s.underMigration asid va.toNat = true → kept)
          ∧ (s.underMigration asid va.toNat = false →
            (read.walk asid va.toNat = .wait → kept)
            ∧ (read.walk asid va.toNat = .page ∨ read.walk asid va.toNat = .addr ∨ (∃ pa, read.walk asid va.toNat = .table pa) →
              exec (.migrationHandOver f) s = .next (refused read))
            ∧ ∀ page sz leaf pa, read.walk asid va.toNat = .leaf page sz leaf pa →
              let frame := pteFrame leaf * 4096
              let fits := pteMode leaf = 0 ∧ page = va.toNat ∧ sz = size ∧ read.framesResident frame sz = true
              (¬fits → exec (.migrationHandOver f) s = .next (refused read))
              ∧ (fits → read.badAt frame sz = true → exec (.migrationHandOver f) s = .next (refused (read.scanned frame sz)))
              ∧ (fits → read.badAt frame sz = false → read.segmentOn asid page sz leaf = true → kept)
              ∧ (fits → read.badAt frame sz = false → read.segmentOn asid page sz leaf = false → let u := read.corrected frame sz
                exec (.migrationHandOver f) s = .next ((((u.loseWatch frame sz).putEntry pa
                  (BitVec.setWidth 32 f.src ++ getBits leaf 8 24 ++ 1#2 ++ getBits leaf 0 6 : Word)).shootPage asid page sz leaf).answerFrame
                    f 10 (.handOverData asked va (u.readPA frame sz))))))
      ∧ (∀ data k, f.payload = .handOverData asked va data →
        (s.awaiting f asked va = some k → exec (.migrationHandOver f) s
          = .next { s with migs := s.migs.modify k (fun m => { m with data := some data }) })
        ∧ (s.awaiting f asked va = none → exec (.migrationHandOver f) s = .next s))
      ∧ (f.payload = .handOverRefused asked va → s.awaiting f asked va = some n → s.migs[n]? = some m → m.asker = none →
        exec (.migrationHandOver f) s = .next ({ s with migs := s.migs.eraseIdx n }.setPageCount m.asid m.page 0))

/-- R139, R300, R301, R320, R324, R361 to R372: frames that arrive and the timers of the endpoints. A request is translated in the lowest valid
ASID of its job and answered; a stream applies each number once and in order, holds what comes early, answers a duplicate with an
acknowledgement and a gap with a resend request; what is not acknowledged is sent again after 10,000 ticks and lost after 100,000. The
model's choices: a generation far ahead, or one that does not begin at 0, is discarded (log 96), the time-out of atomics and host reads
(log 99), the statuses of a silent send and of a pause that expires (log 100), the failures that an acknowledgement carries (log 23), who
hears a barrier report (log 130). -/
def Obligations.FrameSteps : Prop :=
  ∀ (s s₁ : State) (f : Frame) (tag rank n asid pa page size : Nat) (va leaf : Word) (data : List Byte) (core : Nat) (dev : BitVec 16),
    let answered (u : State) (a : Answer) : State :=
      { u with pends := u.pends.map (fun p => if p.tag = tag ∧ p.answer = none then { p with answer := some a } else p) }
    let homed (r w : Bool) : Prop := s.asidOfJob f.job = some asid ∧ pteMode leaf = 0 ∧ pa = leafPA page leaf va.toNat
      ∧ s.translate none asid va.toNat ⟨r, w, false, !s.asidPriv asid⟩ = .ok s₁ page size leaf
    (∀ fetches, f.payload = .loadReq tag va n fetches →
      (s.asidOfJob f.job = none → exec (.loadRequest f) s = .next (s.answerFrame f 1 (.loadFail tag ⟨.page, 1⟩)))
      ∧ (∀ c p, s.asidOfJob f.job = some asid → s.translate none asid va.toNat ⟨true, false, false, !s.asidPriv asid⟩ = .fault s₁ c false p →
        exec (.loadRequest f) s = .next (s₁.answerFrame f 1 (.loadFail tag ⟨c, 1⟩)))
      ∧ (homed true false → s₁.dataBad pa n = false → n < 256 →
        exec (.loadRequest f) s = .next ((s₁.corrected pa n).answerFrame f 1 (.loadAns tag (s₁.readVia (viaOf asid va.toNat leaf) pa n)))))
    ∧ (f.payload = .mldrReq tag rank va →
      (s.hasFabric = false → exec (.mldrRead f) s = .next (s.answerFrame f 8 (.mldrFail tag rank 3)))
      ∧ (s.hasFabric = true → s.asidOfJob f.job = none → exec (.mldrRead f) s = .next (s.answerFrame f 8 (.mldrFail tag rank 2)))
      ∧ (s.hasFabric = true → homed true false → s₁.dataBad pa 128 = false →
        exec (.mldrRead f) s = .next ((s₁.corrected pa 128).answerFrame f 8 (.mldrAns tag rank (s₁.readVia (viaOf asid va.toNat leaf) pa 128)))))
    ∧ (∀ p, s.pends.find? (fun p => p.tag == tag) = some p → (∀ a, p.owner ≠ .fill a) →
      (f.payload = .loadAns tag data → exec (.loadAnswer f) s = .next (answered s (.data data)))
      ∧ (∀ why, f.payload = .loadFail tag why → exec (.loadAnswer f) s = .next (answered s (.fail why)))
      ∧ (∀ code bs, f.payload = .lineAns tag code data → expandLine code data = some bs →
        exec (.loadAnswer f) s = .next (answered s (.data bs)))
      ∧ exec (.remoteLoadTimeout tag) s = .next (if s.pendOver p then answered s (.fail ⟨.remoteTimeout, 0⟩) else s))
    ∧ (f.payload = .mldrAns tag rank data → (s.rankCmd? tag).isSome = true → exec (.mldrAnswer f) s = .next (s.setRank tag rank (.data data)))
    ∧ (∀ why, f.payload = .mldrFail tag rank why → (s.rankCmd? tag).isSome = true →
      exec (.mldrAnswer f) s = .next (s.setRank tag rank (.missing why)))
    ∧ (∀ c, s.rankCmd? tag = some c → exec (.mldrRankTimeout tag rank) s
        = .next (if s.isMldr c && decide (c.sent + 100000 ≤ s.tick) then s.setRank tag rank (.missing 1) else s))
    ∧ (∀ i ∈ [Instr.storeFrame f, .atomicFrame f, .graphTransfer f], (match i, f.payload with
        | .storeFrame _, .store .. | .atomicFrame _, .atomic .. => True
        | .graphTransfer _, .graphOpen .. | .graphTransfer _, .graphObject .. | .graphTransfer _, .graphClose .. => True
        | .graphTransfer _, .graphAbort .. => True
        | _, _ => False) →
      let r := s.rxOf f.src f.core
      let d := (f.seq - r.next).toNat
      let r₁ := { r with last := s.tick, window := if r.window.any (fun g => g.seq == f.seq) then r.window else r.window ++ [f] }
      (f.gen ≠ r.gen → (f.seq ≠ 0 ∨ 128 ≤ (f.gen - r.gen).toNat) → exec i s = .next s)
      ∧ (f.gen = r.gen →
        (32768 ≤ d → exec i s = .next ((s.setRx { r with last := s.tick }).sendAck { r with last := s.tick } (answerLane f)))
        ∧ (64 ≤ d → d < 32768 → exec i s
          = .next ((s.setRx { r with last := s.tick }).sendFrame (s.newFrame 6 (answerLane f) f.src f.core 0 0 r.gen (.resend r.next))))
        ∧ (d < 64 → r.src = f.src → r.core = f.core → (∀ g ∈ r₁.window, g.seq ≠ r.next) → exec i s = .next (s.setRx r₁))
        ∧ (d = 0 → r.src = f.src → r.core = f.core → r.window = [] → let s₀ := s.setRx r₁
          (∀ u fail, s₀.applyOp f = .done u fail → let q := (u.rxOf f.src f.core).advance fail
            exec i s = .next ((if hasFlush f.payload = true ∨ 64 ≤ q.since then (u.setRx q).sendAck q (answerLane f) else u.setRx q).drainStream f.src f.core 63))
          ∧ (∀ u k old, s₀.applyOp f = .result u k old → let q := { (u.rxOf f.src f.core).advance none with since := 0 }
            exec i s = .next (((u.setRx q).sendFrame (u.newFrame 4 (answerLane f) q.src q.core f.seq 0 q.gen (match old with
              | .ok v => .atomicAns k v q.next q.fails
              | .error why => .atomicFail k why q.next q.fails))).drainStream f.src f.core 63)))))
    ∧ (∀ fl, f.payload = .store va data fl → homed false true → s₁.resident pa = true →
      s.applyOp f = .done ((s₁.atHome pa (remoteStoreRank f.src.toNat f.core.toNat f.seq.toNat)).storeHome (viaOf asid va.toNat leaf) pa data none)
        none)
    ∧ (∀ kind ty b c nr fl, f.payload = .atomic tag kind ty va b c nr fl → s.hasFabric = true → homed true true →
      s₁.dataBad pa ty.bytes = false → let via := viaOf asid va.toNat leaf
      let s₂ := (s₁.corrected pa ty.bytes).atHome pa (remoteAtomicRank f.src.toNat f.core.toNat f.seq.toNat)
      let m := natOfBytes (s₂.readVia via pa ty.bytes)
      let u := s₂.storeHome via pa (bytesOfNat ty.bytes (atomicNew kind ty m (b.toNat % 2 ^ ty.width) (c.toNat % 2 ^ ty.width))) none
      s.applyOp f = if nr then .done u none else .result u tag (.ok (BitVec.ofNat 64 m)))
    ∧ (∀ code detail progress, f.payload = .graphAnswer tag code detail progress → exec (.graphTransfer f) s = .next { s with
        sends := s.sends.map (fun d => if d.tag = tag ∧ d.dev = f.src ∧ d.answer = none then
          { d with answer := some (code, detail, progress) } else d) })
    ∧ (f.payload = .graphOpen tag n →
      (s.hasIntake = false → s.receiveGraph f = some (s.graphAnswer f tag 12 4 0))
      ∧ (s.hasIntake = true → s.intakes.getD n none = none → s.receiveGraph f = some (s.graphAnswer f tag 12 3 0))
      ∧ (∀ k, s.hasIntake = true → s.intakes.getD n none = some k → let k := k.heard s.tick
        (k.open' ≠ none ∨ k.queue ≠ [] → s.receiveGraph f = some (s.setIntake n { k with queue := k.queue ++ [(f, s.tick)] }))
        ∧ (k.open' = none → k.queue = [] → s.receiveGraph f = s.openTransfer n k f tag)))
    ∧ (∀ root, f.payload = .graphClose tag root → s.intakeOf f = none → s.receiveGraph f = some (
        if (f.src, tag) ∈ s.lapsed then { s with lapsed := s.lapsed.filter (fun p => p != (f.src, tag)) }.graphAnswer f tag 2 3 0 else s))
    ∧ (∀ d, s.sendOf tag = some d → d.closed = true → d.answer = none → d.sent + 100000 ≤ s.tick →
      (∀ i k r, s.intakes.getD i none = some k → k.open' = some r → r.tag ≠ tag) →
        exec (.gsendTimeout tag) s = .next (s.onSend tag (fun d => { d with answer := some (12, 5, 0) })))
    ∧ (∀ k r p, s.intakes.getD n none = some k → k.open' = some r → r.paused = some p →
      exec (.intakePauseExpiry n) s = .next (if p + 10000000 ≤ s.tick then
        { s.rollBack n k r 4 1 with lapsed := s.lapsed ++ [(r.src, r.tag)] } else s))
    ∧ (∀ r, s.rx? f.src f.core = some r →
      exec (.ackTimer f.src f.core) s = .next (if r.since ≠ 0 ∧ r.last + 1000 ≤ s.tick then s.sendAck r 1 else s)
      ∧ (f.payload = .ackRequest → exec (.streamAcknowledgement f) s = .next (if r.gen = f.gen then s.sendAck r (answerLane f) else s)))
    ∧ (∀ x next fails, s.tx? f.core.toNat f.src = some x → s.rankCmds = [] → s.domains = [] → s.outQ = [] → let k := (next - x.acked).toNat
      (f.payload = .ack next fails →
        (f.gen ≠ x.gen ∨ x.unacked.length < k → exec (.streamAcknowledgement f) s = .next s)
        ∧ (f.gen = x.gen → k ≤ x.unacked.length → (∀ u ∈ x.unacked.take k, (∃ t, u.owner = .thread t) ∧ fails.lookup u.frame.seq = none) →
          exec (.streamAcknowledgement f) s = .next (s.setTx { x with acked := next, unacked := x.unacked.drop k })))
      ∧ (∀ old, f.payload = .atomicAns tag old next fails → f.gen = x.gen → k ≤ x.unacked.length →
          (∀ u ∈ x.unacked.take k, (∃ t, u.owner = .thread t) ∧ fails.lookup u.frame.seq = none) →
          exec (.atomicAnswer f) s = .next ((answered s (.old old)).setTx { x with acked := next, unacked := x.unacked.drop k }))
      ∧ (f.payload = .resend next → exec (.resendRequest f) s = .next (if x.gen = f.gen then
          s.resendOps x (fun u => decide ((u.frame.seq - next).toNat < 32768)) else s)))
    ∧ (∀ x, s.tx? core dev = some x → let late (u : TxOp) : Bool := decide (u.last + 10000 ≤ s.tick)
      exec (.streamResend core dev) s = .next (if x.unacked.any late then s.resendOps x late else s)
      ∧ (x.unacked.all (fun u => decide (s.tick < u.first + 100000)) = true → exec (.streamLost core dev) s = .next s)
      ∧ ((∃ u ∈ x.unacked, u.first + 100000 ≤ s.tick) → s.rankCmds = [] → s.domains = [] → s.outQ = [] →
        (∀ u ∈ x.unacked, ∃ t, u.owner = .thread t) →
        (∃ s', exec (.streamLost core dev) s = .next s' ∧ s' = { s with tx := s'.tx, pends := s'.pends }
          ∧ s'.tx? core dev = some { x with
              unacked := [], sent := 0, acked := 0, gen := x.gen + 1, fails := min 65535 (x.fails + x.unacked.length)
              edetail := if x.ecode = 0 then 0 else x.edetail, ecode := if x.ecode = 0 then Cause.num .remoteTimeout else x.ecode })))
    ∧ ∀ level job phase, f.payload = .barrierReport level job phase → let d := s.domain level job.toNat
      (level ≠ 4 → level ≠ 5 → exec (.domainBarrierReport f) s = .next s)
      ∧ (level = 4 ∨ level = 5 → phasePassed d.phase phase = true → exec (.domainBarrierReport f) s = .next (s.reportTo d phase f.src).domainsCheck)
      ∧ (level = 4 ∨ level = 5 → d.reports.contains (f.src, phase) = false → (phasePassed d.phase phase = false ∨ d.phase = phase) →
        exec (.domainBarrierReport f) s = .next (s.setDomain { d with reports := d.reports ++ [(f.src, phase)] }).domainsCheck)

/-- R382 to R394: what the routers and links do. The head of an input goes to the endpoint or to the output that R390 chooses, or it waits;
a control word holds the fields and the CRC of R385, and a braid deals its words over the wavelengths of its live feeds in ascending order; a
flit that cannot be read, or out of order, is discarded with one NAK; flits acknowledged leave the replay buffer; sixteen resendings of a
flit, or the loss of the last feed, take a link down; a restripe ends with the answer to its marker; three failed attempts leave a link dark;
a recovery token moves the suspects and goes on to the next live position, and the lowest one issues a new token, on its own time-out or
on a report. The model's choices: a local link stays dark on a peer of another
group (log 57), a lone router keeps the token (log 102), a link is up only at the accepted join record (log 103), and what R385 to R391 leave
open about idle and control flits, incomplete frames, the marker's answer and records that come early (log 150). -/
def Obligations.LinkSteps : Prop :=
  ∀ (s : State) (port lane n braid feed w : Nat) (a : Arrival) (f : Frame) (seq : BitVec 12) (load : FlitLoad) (live : BitVec 4) (r : JoinData)
    (c : FlitControl) (word : Word) (answers : Option (BitVec 4)) (b : Bool),
    let l := s.linkOf n
    let set (l : Link) : State := s.setLink l
    let quiet : State → State := fun u => { u with bufs := u.bufs.map (fun b =>
      if b.port = port ∧ b.lane = lane ∧ b.stuck = none then { b with stuck := some u.cycle } else b) }
    let told (u : State) : State := u.tellStop port (s.stopBits port)
    let nak (l : Link) : State := (set { l with nakAt := some s.cycle }).putControl n (.nak l.rxNext)
    let discarded : State := match l.nakAt with
      | some _ => s
      | none => nak l
    (port ≤ 128 → lane < 6 →
      (s.buf? port lane = none → exec (.frameRoute port lane none) s = .next s)
      ∧ (port < 128 → exec (.frameRoute port lane (some a)) s = exec (.frameRoute port lane none) (s.acceptFlit port a))
      ∧ ∀ b rest, s.buf? port lane = some b → b.frames = f :: rest →
        (f.dst = s.devnum →
          (frameSound f = false → exec (.frameRoute port lane none) s = .next (told { s.popBuf port lane with discards := s.discards + 1 }))
          ∧ (frameSound f = true → s.endpointTakes f = true →
            exec (.frameRoute port lane none) s = .next (told { s.popBuf port lane with inbox := s.inbox ++ [f] }))
          ∧ (frameSound f = true → s.endpointTakes f = false → exec (.frameRoute port lane none) s = .next (quiet s)))
        ∧ (f.dst ≠ s.devnum →
          (∀ out lane', s.chooseOutput f = some (out, lane') →
            exec (.frameRoute port lane none) s = .next (told ((s.popBuf port lane).queueFrame out lane' f)))
          ∧ (s.chooseOutput f = none → exec (.frameRoute port lane none) s = .next (quiet s))))
    ∧ (∃ x, (s.put n seq load).wires = s.wires ++ [x] ∧ x.link = n ∧ x.load = load
        ∧ getBits x.word 0 2 = load.kind ∧ getBits x.word 2 6 = s.stopBits n ∧ getBits x.word 8 12 = l.rxNext ∧ getBits x.word 20 12 = seq
        ∧ getBits x.word 32 32 = crc32c (load.payload ++ bytesOfNat 4 (getBits x.word 0 32).toNat))
    ∧ (live ≠ 0 → ∃ x, dealtTo live w = some x ∧ x < 16 ∧ live.getLsbD (x / 4) = true
        ∧ (∀ y, dealtTo live (w + 1) = some y → x < y ∨ (∀ z < 16, live.getLsbD (z / 4) = true → y ≤ z ∧ z ≤ x)))
    ∧ (s.linkRuns l = false → s.acceptFlit n a = s)
    ∧ (s.linkRuns l = true → let kind := getBits a.flit.word 0 2
      let good := l.reads (if kind = 1 then headBytes a.frame ++ a.flit.rest else a.flit.rest) a.flit
      let u := s.acceptFlit n a
      let came (f : Frame) : Prop := (u.linkOf n).inFrame = none
        ∧ (frameSound f = true → u.bufs = (s.bufferFrame n f).bufs ∧ u.discards = s.discards)
        ∧ (frameSound f = false → u.bufs = s.bufs ∧ u.discards = s.discards + 1)
      let holds (x : Option (Frame × Nat)) : Prop := (u.linkOf n).inFrame = x ∧ u.bufs = s.bufs ∧ u.discards = s.discards
      (good = false → u = discarded)
      ∧ (good = true → kind = 0 ∨ kind = 3 → u = (s.aligned n a.flit).takeControl n a.flit.word none)
      ∧ (good = true → kind = 1 ∨ kind = 2 → getBits a.flit.word 20 12 ≠ l.rxNext → u = discarded)
      ∧ (good = true → kind = 1 ∨ kind = 2 → getBits a.flit.word 20 12 = l.rxNext →
        (u.linkOf n).rxNext = l.rxNext + 1 ∧ (u.linkOf n).nakAt = none
        ∧ (kind = 1 → a.frame.body = 0 → came a.frame)
        ∧ (kind = 1 → a.frame.body ≠ 0 → holds (some (a.frame, a.frame.body)))
        ∧ (kind = 2 → ∀ g, l.inFrame = some (g, 1) → came g)
        ∧ (kind = 2 → ∀ g left, l.inFrame = some (g, left + 2) → holds (some (g, left + 1)))
        ∧ (kind = 2 → l.inFrame = none → holds none)))
    ∧ (l.queue = [] → n < 32 ∨ s.unitState (n - 8) ≠ .draining → let ack := getBits word 8 12
      let keep := l.replay.filter (fun e => (e.1 - ack).toNat < 2048)
      let l' := { l with replay := keep, stopped := getBits word 2 6, resends := if keep.length < l.replay.length then 0 else l.resends }
      (l.restriping = false ∨ answers ≠ some l.feeds → s.takeControl n word answers = set l')
      ∧ (l.restriping = true → s.takeControl n word (some l.feeds) = ((set l').resendFrom l' ack).sayFeeds n))
    ∧ (n < 128 →
      (s.linkRuns l = false → ∀ i ∈ [Instr.nak n seq, .idleFlit n c], exec i s = .next s)
      ∧ (s.linkRuns l = true → l.reads c.flit.rest c.flit = false → exec (.idleFlit n c) s = .next discarded)
      ∧ (s.linkRuns l = true → l.reads c.flit.rest c.flit = true →
        let u := (s.aligned n c.flit).takeControl n c.flit.word c.realigned
        (c.tokenLost = false ∨ u.livePositions.headD (posOf u.devnum) ≠ posOf u.devnum → exec (.idleFlit n c) s = .next u)
        ∧ (c.tokenLost = true → u.hasFabric = true → u.devnum ≠ 0xFFFF → u.livePositions.headD (posOf u.devnum) = posOf u.devnum →
          exec (.idleFlit n c) s = .next (u.holdToken (u.tokenGen + 1) u.tmo)))
      ∧ (s.linkRuns l = true → l.restriping = true ∨ (∀ e ∈ l.replay, e.1 ≠ seq) → exec (.nak n seq) s = .next s)
      ∧ (s.linkRuns l = true → l.restriping = false → (∃ e ∈ l.replay, e.1 = seq) →
        let again := match l.replay with
          | e :: _ => e.1 == seq
          | [] => false
        let l' := { l with replay := l.replay.filter (fun e => (e.1 - seq).toNat < 2048), resends := if again then l.resends + 1 else 1 }
        (l'.resends ≤ 16 → exec (.nak n seq) s = .next ((set l').resendFrom l' seq))
        ∧ (16 < l'.resends → exec (.nak n seq) s = .next ((set l').linkDown n)))
      ∧ (l.nakAt = none → exec (.nakRepeat n) s = .next s)
      ∧ (∀ k, l.nakAt = some k → exec (.nakRepeat n) s = .next (if s.linkRuns l ∧ k + 1500 ≤ s.cycle then nak l else s))
      ∧ (l.state = .up → exec (.linkRetrainRetry n b) s = exec (.linkRetrainRetry n b) (s.linkDown n)
        ∧ exec (.joinRecord n r) s = exec (.joinRecord n r) (s.linkDown n)
        ∧ let m := (s.linkDown n).linkOf n
          m.state = .down ∧ m.replay = [] ∧ m.queue = [] ∧ m.txNext = 0 ∧ m.rxNext = 0 ∧ m.stopped = 0x3F)
      ∧ (l.state ≠ .up → let sent := (set { l.restart with trained := true, retryAt := some s.tick }).putControl n (.join (s.joinOf n))
        (s.mayRetry l = false → exec (.linkRetrainRetry n b) s = .next s)
        ∧ (s.mayRetry l = true →
          exec (.linkRetrainRetry n true) s = .next sent
          ∧ (l.tries < 2 → exec (.linkRetrainRetry n false) s
              = .next (set { l with tries := l.tries + 1, trained := false, retryAt := some s.tick }))
          ∧ (2 ≤ l.tries → exec (.linkRetrainRetry n false) s
              = .next ((set { l with state := .dark, tries := 0, trained := false, retryAt := none }).event 0x0E 0 (BitVec.ofNat 64 n) 3)))
        ∧ (l.state = .dark ∨ s.mayTrain l = false → exec (.joinRecord n r) s = .next s)
        ∧ (l.state = .down → s.mayTrain l = true → let u := if l.trained then s else sent
          (u.joinOk n r = false → exec (.joinRecord n r) s
            = .next (u.setLink { u.linkOf n with state := .dark, peer := none, trained := false, retryAt := none }))
          ∧ (u.joinOk n r = true → s.token = false → exec (.joinRecord n r) s
            = .next (((u.setLink { u.linkOf n with state := .up, peer := some r, tries := 0, trained := false, retryAt := none }).sayFeeds
                n).putControl n .idle)))))
    ∧ (braid < 96 → feed < 4 → n = braid + 32 →
      (l.feeds.getLsbD feed = false → exec (.laserFeedLost braid feed) s = .next s)
      ∧ (l.feeds.getLsbD feed = true → let feeds := l.feeds &&& ~~~(1#4 <<< feed)
        let lost := set { l with feeds := feeds, words := 0, striping := l.striping ++ [feed] }
        (feeds = 0 → exec (.laserFeedLost braid feed) s = .next
          (((set { l with feeds := 0 }).linkDown n).event 0x07 0 (BitVec.ofNat 64 braid) (BitVec.ofNat 64 feed)))
        ∧ (feeds ≠ 0 → l.state = .up → exec (.laserFeedLost braid feed) s = .next (lost.putControl n (.marker feeds)))
        ∧ (feeds ≠ 0 → l.state ≠ .up → exec (.laserFeedLost braid feed) s = .next lost))
      ∧ exec (.restripeMarker braid live) s
        = .next (if s.linkRuns l ∧ live ≠ 0 then (set { l with rxFeeds := some live }).putControl n (.markerAck live) else s))
    ∧ (port ≤ 128 → lane < 2 → s.token = false → exec (.deadlockSuspect port lane) s = .next { s with bufs := s.bufs.map (fun b =>
        if b.port = port ∧ b.lane = lane ∧ b.stuck.any (fun k => decide (k + s.tmo * 1500 ≤ s.cycle)) then { b with suspect := true } else b) })
    ∧ ∀ gen tmo, let held : State := { s with tokenGen := gen, tokenTmo := some tmo, tokenAt := s.cycle }
      (gen < s.tokenGen ∨ s.hasFabric = false → exec (.recoveryToken gen tmo) s = .next s)
      ∧ (s.tokenGen ≤ gen → s.hasFabric = true → (∀ b ∈ s.bufs, b.suspect = false) →
        exec (.recoveryToken gen tmo) s = .next (match s.nextPosition with
          | some p => { held with token := false }.putControl p (.token gen tmo)
          | none => { held with token := true }))
      ∧ (s.hasFabric = false ∨ s.devnum = 0xFFFF → exec .tokenReissue s = .next s)
      ∧ (s.hasFabric = true → s.devnum ≠ 0xFFFF → let lowest := s.livePositions.headD (posOf s.devnum)
        (lowest ≠ posOf s.devnum → exec .tokenReissue s
          = .next (if s.tokenLate then { s with tokenAt := s.cycle }.putControl lowest .tokenLost else s))
        ∧ (lowest = posOf s.devnum → exec .tokenReissue s
          = .next (if s.tokenLate = true then s.holdToken (s.tokenGen + 1) s.tmo else s)))
end

