-- ==== Sys2Proof/Laws/State.lean ====
section
/-! SUPPORT. What each named update of the state and of a thread leaves alone, one lemma for each field: true by rfl for
the plain updates, so that no later proof unfolds a record update. -/

namespace Sys2Proof.Machine

/-! ## State.setThread -/

@[simp] theorem State.setThread_agenda (s : State) (t : Thread) : (s.setThread t).agenda = s.agenda := rfl
@[simp] theorem State.setThread_cur (s : State) (t : Thread) : (s.setThread t).cur = s.cur := rfl
@[simp] theorem State.setThread_fresh (s : State) (t : Thread) : (s.setThread t).fresh = s.fresh := rfl
@[simp] theorem State.setThread_stamp (s : State) (t : Thread) : (s.setThread t).stamp = s.stamp := rfl
@[simp] theorem State.setThread_cycle (s : State) (t : Thread) : (s.setThread t).cycle = s.cycle := rfl
@[simp] theorem State.setThread_marks (s : State) (t : Thread) : (s.setThread t).marks = s.marks := rfl
@[simp] theorem State.setThread_marksAt (s : State) (t : Thread) : (s.setThread t).marksAt = s.marksAt := rfl
@[simp] theorem State.setThread_mem (s : State) (t : Thread) : (s.setThread t).mem = s.mem := rfl
@[simp] theorem State.setThread_copies (s : State) (t : Thread) : (s.setThread t).copies = s.copies := rfl
@[simp] theorem State.setThread_badLines (s : State) (t : Thread) : (s.setThread t).badLines = s.badLines := rfl
@[simp] theorem State.setThread_softLines (s : State) (t : Thread) : (s.setThread t).softLines = s.softLines := rfl
@[simp] theorem State.setThread_retired (s : State) (t : Thread) : (s.setThread t).retired = s.retired := rfl
@[simp] theorem State.setThread_lostFrames (s : State) (t : Thread) : (s.setThread t).lostFrames = s.lostFrames := rfl
@[simp] theorem State.setThread_softSram (s : State) (t : Thread) : (s.setThread t).softSram = s.softSram := rfl
@[simp] theorem State.setThread_softCount (s : State) (t : Thread) : (s.setThread t).softCount = s.softCount := rfl
@[simp] theorem State.setThread_site (s : State) (t : Thread) : (s.setThread t).site = s.site := rfl
@[simp] theorem State.setThread_devnum (s : State) (t : Thread) : (s.setThread t).devnum = s.devnum := rfl
@[simp] theorem State.setThread_boot (s : State) (t : Thread) : (s.setThread t).boot = s.boot := rfl
@[simp] theorem State.setThread_featOff0 (s : State) (t : Thread) : (s.setThread t).featOff0 = s.featOff0 := rfl
@[simp] theorem State.setThread_featOff1 (s : State) (t : Thread) : (s.setThread t).featOff1 = s.featOff1 := rfl
@[simp] theorem State.setThread_featAcc0 (s : State) (t : Thread) : (s.setThread t).featAcc0 = s.featAcc0 := rfl
@[simp] theorem State.setThread_featAcc1 (s : State) (t : Thread) : (s.setThread t).featAcc1 = s.featAcc1 := rfl
@[simp] theorem State.setThread_featLock (s : State) (t : Thread) : (s.setThread t).featLock = s.featLock := rfl
@[simp] theorem State.setThread_dirBase (s : State) (t : Thread) : (s.setThread t).dirBase = s.dirBase := rfl
@[simp] theorem State.setThread_dirEn (s : State) (t : Thread) : (s.setThread t).dirEn = s.dirEn := rfl
@[simp] theorem State.setThread_events (s : State) (t : Thread) : (s.setThread t).events = s.events := rfl
@[simp] theorem State.setThread_fenceSel (s : State) (t : Thread) : (s.setThread t).fenceSel = s.fenceSel := rfl
@[simp] theorem State.setThread_fences (s : State) (t : Thread) : (s.setThread t).fences = s.fences := rfl
@[simp] theorem State.setThread_fw (s : State) (t : Thread) : (s.setThread t).fw = s.fw := rfl
@[simp] theorem State.setThread_frozen (s : State) (t : Thread) : (s.setThread t).frozen = s.frozen := rfl
@[simp] theorem State.setThread_snap (s : State) (t : Thread) : (s.setThread t).snap = s.snap := rfl
@[simp] theorem State.setThread_ports (s : State) (t : Thread) : (s.setThread t).ports = s.ports := rfl
@[simp] theorem State.setThread_portTurn (s : State) (t : Thread) : (s.setThread t).portTurn = s.portTurn := rfl
@[simp] theorem State.setThread_tasks (s : State) (t : Thread) : (s.setThread t).tasks = s.tasks := rfl
@[simp] theorem State.setThread_nextTask (s : State) (t : Thread) : (s.setThread t).nextTask = s.nextTask := rfl
@[simp] theorem State.setThread_gangs (s : State) (t : Thread) : (s.setThread t).gangs = s.gangs := rfl
@[simp] theorem State.setThread_lastDie (s : State) (t : Thread) : (s.setThread t).lastDie = s.lastDie := rfl
@[simp] theorem State.setThread_matched (s : State) (t : Thread) : (s.setThread t).matched = s.matched := rfl
@[simp] theorem State.setThread_reserved (s : State) (t : Thread) : (s.setThread t).reserved = s.reserved := rfl
@[simp] theorem State.setThread_headGang (s : State) (t : Thread) : (s.setThread t).headGang = s.headGang := rfl
@[simp] theorem State.setThread_ceilings (s : State) (t : Thread) : (s.setThread t).ceilings = s.ceilings := rfl
@[simp] theorem State.setThread_coreTab (s : State) (t : Thread) : (s.setThread t).coreTab = s.coreTab := rfl
@[simp] theorem State.setThread_turn (s : State) (t : Thread) : (s.setThread t).turn = s.turn := rfl
@[simp] theorem State.setThread_pageCheck (s : State) (t : Thread) : (s.setThread t).pageCheck = s.pageCheck := rfl
@[simp] theorem State.setThread_memTlb (s : State) (t : Thread) : (s.setThread t).memTlb = s.memTlb := rfl
@[simp] theorem State.setThread_egress (s : State) (t : Thread) : (s.setThread t).egress = s.egress := rfl
@[simp] theorem State.setThread_epoch (s : State) (t : Thread) : (s.setThread t).epoch = s.epoch := rfl
@[simp] theorem State.setThread_shotAt (s : State) (t : Thread) : (s.setThread t).shotAt = s.shotAt := rfl
@[simp] theorem State.setThread_walks (s : State) (t : Thread) : (s.setThread t).walks = s.walks := rfl
@[simp] theorem State.setThread_migs (s : State) (t : Thread) : (s.setThread t).migs = s.migs := rfl
@[simp] theorem State.setThread_counters (s : State) (t : Thread) : (s.setThread t).counters = s.counters := rfl
@[simp] theorem State.setThread_poolSaid (s : State) (t : Thread) : (s.setThread t).poolSaid = s.poolSaid := rfl
@[simp] theorem State.setThread_fwdSaid (s : State) (t : Thread) : (s.setThread t).fwdSaid = s.fwdSaid := rfl
@[simp] theorem State.setThread_remEpoch (s : State) (t : Thread) : (s.setThread t).remEpoch = s.remEpoch := rfl
@[simp] theorem State.setThread_remLines (s : State) (t : Thread) : (s.setThread t).remLines = s.remLines := rfl
@[simp] theorem State.setThread_watched (s : State) (t : Thread) : (s.setThread t).watched = s.watched := rfl
@[simp] theorem State.setThread_xpands (s : State) (t : Thread) : (s.setThread t).xpands = s.xpands := rfl
@[simp] theorem State.setThread_heldTabs (s : State) (t : Thread) : (s.setThread t).heldTabs = s.heldTabs := rfl
@[simp] theorem State.setThread_lapsed (s : State) (t : Thread) : (s.setThread t).lapsed = s.lapsed := rfl
@[simp] theorem State.setThread_walkUsed (s : State) (t : Thread) : (s.setThread t).walkUsed = s.walkUsed := rfl
@[simp] theorem State.setThread_fixups (s : State) (t : Thread) : (s.setThread t).fixups = s.fixups := rfl
@[simp] theorem State.setThread_pends (s : State) (t : Thread) : (s.setThread t).pends = s.pends := rfl
@[simp] theorem State.setThread_tx (s : State) (t : Thread) : (s.setThread t).tx = s.tx := rfl
@[simp] theorem State.setThread_outQ (s : State) (t : Thread) : (s.setThread t).outQ = s.outQ := rfl
@[simp] theorem State.setThread_segs (s : State) (t : Thread) : (s.setThread t).segs = s.segs := rfl
@[simp] theorem State.setThread_rx (s : State) (t : Thread) : (s.setThread t).rx = s.rx := rfl
@[simp] theorem State.setThread_rankCmds (s : State) (t : Thread) : (s.setThread t).rankCmds = s.rankCmds := rfl
@[simp] theorem State.setThread_sends (s : State) (t : Thread) : (s.setThread t).sends = s.sends := rfl
@[simp] theorem State.setThread_intakes (s : State) (t : Thread) : (s.setThread t).intakes = s.intakes := rfl
@[simp] theorem State.setThread_domains (s : State) (t : Thread) : (s.setThread t).domains = s.domains := rfl
@[simp] theorem State.setThread_agbase (s : State) (t : Thread) : (s.setThread t).agbase = s.agbase := rfl
@[simp] theorem State.setThread_agAsid (s : State) (t : Thread) : (s.setThread t).agAsid = s.agAsid := rfl
@[simp] theorem State.setThread_groups (s : State) (t : Thread) : (s.setThread t).groups = s.groups := rfl
@[simp] theorem State.setThread_trapBy (s : State) (t : Thread) : (s.setThread t).trapBy = s.trapBy := rfl
@[simp] theorem State.setThread_notices (s : State) (t : Thread) : (s.setThread t).notices = s.notices := rfl
@[simp] theorem State.setThread_deferred (s : State) (t : Thread) : (s.setThread t).deferred = s.deferred := rfl
@[simp] theorem State.setThread_links (s : State) (t : Thread) : (s.setThread t).links = s.links := rfl
@[simp] theorem State.setThread_bufs (s : State) (t : Thread) : (s.setThread t).bufs = s.bufs := rfl
@[simp] theorem State.setThread_token (s : State) (t : Thread) : (s.setThread t).token = s.token := rfl
@[simp] theorem State.setThread_tokenGen (s : State) (t : Thread) : (s.setThread t).tokenGen = s.tokenGen := rfl
@[simp] theorem State.setThread_tokenTmo (s : State) (t : Thread) : (s.setThread t).tokenTmo = s.tokenTmo := rfl
@[simp] theorem State.setThread_tokenAt (s : State) (t : Thread) : (s.setThread t).tokenAt = s.tokenAt := rfl
@[simp] theorem State.setThread_inbox (s : State) (t : Thread) : (s.setThread t).inbox = s.inbox := rfl
@[simp] theorem State.setThread_discards (s : State) (t : Thread) : (s.setThread t).discards = s.discards := rfl
@[simp] theorem State.setThread_wires (s : State) (t : Thread) : (s.setThread t).wires = s.wires := rfl
@[simp] theorem State.setThread_pcie (s : State) (t : Thread) : (s.setThread t).pcie = s.pcie := rfl

/-! ## State.setGang -/

@[simp] theorem State.setGang_agenda (s : State) (g : Gang) : (s.setGang g).agenda = s.agenda := rfl
@[simp] theorem State.setGang_cur (s : State) (g : Gang) : (s.setGang g).cur = s.cur := rfl
@[simp] theorem State.setGang_fresh (s : State) (g : Gang) : (s.setGang g).fresh = s.fresh := rfl
@[simp] theorem State.setGang_stamp (s : State) (g : Gang) : (s.setGang g).stamp = s.stamp := rfl
@[simp] theorem State.setGang_cycle (s : State) (g : Gang) : (s.setGang g).cycle = s.cycle := rfl
@[simp] theorem State.setGang_marks (s : State) (g : Gang) : (s.setGang g).marks = s.marks := rfl
@[simp] theorem State.setGang_marksAt (s : State) (g : Gang) : (s.setGang g).marksAt = s.marksAt := rfl
@[simp] theorem State.setGang_mem (s : State) (g : Gang) : (s.setGang g).mem = s.mem := rfl
@[simp] theorem State.setGang_copies (s : State) (g : Gang) : (s.setGang g).copies = s.copies := rfl
@[simp] theorem State.setGang_badLines (s : State) (g : Gang) : (s.setGang g).badLines = s.badLines := rfl
@[simp] theorem State.setGang_softLines (s : State) (g : Gang) : (s.setGang g).softLines = s.softLines := rfl
@[simp] theorem State.setGang_retired (s : State) (g : Gang) : (s.setGang g).retired = s.retired := rfl
@[simp] theorem State.setGang_lostFrames (s : State) (g : Gang) : (s.setGang g).lostFrames = s.lostFrames := rfl
@[simp] theorem State.setGang_softSram (s : State) (g : Gang) : (s.setGang g).softSram = s.softSram := rfl
@[simp] theorem State.setGang_softCount (s : State) (g : Gang) : (s.setGang g).softCount = s.softCount := rfl
@[simp] theorem State.setGang_site (s : State) (g : Gang) : (s.setGang g).site = s.site := rfl
@[simp] theorem State.setGang_devnum (s : State) (g : Gang) : (s.setGang g).devnum = s.devnum := rfl
@[simp] theorem State.setGang_boot (s : State) (g : Gang) : (s.setGang g).boot = s.boot := rfl
@[simp] theorem State.setGang_featOff0 (s : State) (g : Gang) : (s.setGang g).featOff0 = s.featOff0 := rfl
@[simp] theorem State.setGang_featOff1 (s : State) (g : Gang) : (s.setGang g).featOff1 = s.featOff1 := rfl
@[simp] theorem State.setGang_featAcc0 (s : State) (g : Gang) : (s.setGang g).featAcc0 = s.featAcc0 := rfl
@[simp] theorem State.setGang_featAcc1 (s : State) (g : Gang) : (s.setGang g).featAcc1 = s.featAcc1 := rfl
@[simp] theorem State.setGang_featLock (s : State) (g : Gang) : (s.setGang g).featLock = s.featLock := rfl
@[simp] theorem State.setGang_dirBase (s : State) (g : Gang) : (s.setGang g).dirBase = s.dirBase := rfl
@[simp] theorem State.setGang_dirEn (s : State) (g : Gang) : (s.setGang g).dirEn = s.dirEn := rfl
@[simp] theorem State.setGang_events (s : State) (g : Gang) : (s.setGang g).events = s.events := rfl
@[simp] theorem State.setGang_fenceSel (s : State) (g : Gang) : (s.setGang g).fenceSel = s.fenceSel := rfl
@[simp] theorem State.setGang_fences (s : State) (g : Gang) : (s.setGang g).fences = s.fences := rfl
@[simp] theorem State.setGang_fw (s : State) (g : Gang) : (s.setGang g).fw = s.fw := rfl
@[simp] theorem State.setGang_frozen (s : State) (g : Gang) : (s.setGang g).frozen = s.frozen := rfl
@[simp] theorem State.setGang_snap (s : State) (g : Gang) : (s.setGang g).snap = s.snap := rfl
@[simp] theorem State.setGang_ports (s : State) (g : Gang) : (s.setGang g).ports = s.ports := rfl
@[simp] theorem State.setGang_portTurn (s : State) (g : Gang) : (s.setGang g).portTurn = s.portTurn := rfl
@[simp] theorem State.setGang_tasks (s : State) (g : Gang) : (s.setGang g).tasks = s.tasks := rfl
@[simp] theorem State.setGang_nextTask (s : State) (g : Gang) : (s.setGang g).nextTask = s.nextTask := rfl
@[simp] theorem State.setGang_threads (s : State) (g : Gang) : (s.setGang g).threads = s.threads := rfl
@[simp] theorem State.setGang_lastDie (s : State) (g : Gang) : (s.setGang g).lastDie = s.lastDie := rfl
@[simp] theorem State.setGang_matched (s : State) (g : Gang) : (s.setGang g).matched = s.matched := rfl
@[simp] theorem State.setGang_reserved (s : State) (g : Gang) : (s.setGang g).reserved = s.reserved := rfl
@[simp] theorem State.setGang_headGang (s : State) (g : Gang) : (s.setGang g).headGang = s.headGang := rfl
@[simp] theorem State.setGang_ceilings (s : State) (g : Gang) : (s.setGang g).ceilings = s.ceilings := rfl
@[simp] theorem State.setGang_coreTab (s : State) (g : Gang) : (s.setGang g).coreTab = s.coreTab := rfl
@[simp] theorem State.setGang_turn (s : State) (g : Gang) : (s.setGang g).turn = s.turn := rfl
@[simp] theorem State.setGang_pageCheck (s : State) (g : Gang) : (s.setGang g).pageCheck = s.pageCheck := rfl
@[simp] theorem State.setGang_memTlb (s : State) (g : Gang) : (s.setGang g).memTlb = s.memTlb := rfl
@[simp] theorem State.setGang_egress (s : State) (g : Gang) : (s.setGang g).egress = s.egress := rfl
@[simp] theorem State.setGang_epoch (s : State) (g : Gang) : (s.setGang g).epoch = s.epoch := rfl
@[simp] theorem State.setGang_shotAt (s : State) (g : Gang) : (s.setGang g).shotAt = s.shotAt := rfl
@[simp] theorem State.setGang_walks (s : State) (g : Gang) : (s.setGang g).walks = s.walks := rfl
@[simp] theorem State.setGang_migs (s : State) (g : Gang) : (s.setGang g).migs = s.migs := rfl
@[simp] theorem State.setGang_counters (s : State) (g : Gang) : (s.setGang g).counters = s.counters := rfl
@[simp] theorem State.setGang_poolSaid (s : State) (g : Gang) : (s.setGang g).poolSaid = s.poolSaid := rfl
@[simp] theorem State.setGang_fwdSaid (s : State) (g : Gang) : (s.setGang g).fwdSaid = s.fwdSaid := rfl
@[simp] theorem State.setGang_remEpoch (s : State) (g : Gang) : (s.setGang g).remEpoch = s.remEpoch := rfl
@[simp] theorem State.setGang_remLines (s : State) (g : Gang) : (s.setGang g).remLines = s.remLines := rfl
@[simp] theorem State.setGang_watched (s : State) (g : Gang) : (s.setGang g).watched = s.watched := rfl
@[simp] theorem State.setGang_xpands (s : State) (g : Gang) : (s.setGang g).xpands = s.xpands := rfl
@[simp] theorem State.setGang_heldTabs (s : State) (g : Gang) : (s.setGang g).heldTabs = s.heldTabs := rfl
@[simp] theorem State.setGang_lapsed (s : State) (g : Gang) : (s.setGang g).lapsed = s.lapsed := rfl
@[simp] theorem State.setGang_walkUsed (s : State) (g : Gang) : (s.setGang g).walkUsed = s.walkUsed := rfl
@[simp] theorem State.setGang_fixups (s : State) (g : Gang) : (s.setGang g).fixups = s.fixups := rfl
@[simp] theorem State.setGang_pends (s : State) (g : Gang) : (s.setGang g).pends = s.pends := rfl
@[simp] theorem State.setGang_tx (s : State) (g : Gang) : (s.setGang g).tx = s.tx := rfl
@[simp] theorem State.setGang_outQ (s : State) (g : Gang) : (s.setGang g).outQ = s.outQ := rfl
@[simp] theorem State.setGang_segs (s : State) (g : Gang) : (s.setGang g).segs = s.segs := rfl
@[simp] theorem State.setGang_rx (s : State) (g : Gang) : (s.setGang g).rx = s.rx := rfl
@[simp] theorem State.setGang_rankCmds (s : State) (g : Gang) : (s.setGang g).rankCmds = s.rankCmds := rfl
@[simp] theorem State.setGang_sends (s : State) (g : Gang) : (s.setGang g).sends = s.sends := rfl
@[simp] theorem State.setGang_intakes (s : State) (g : Gang) : (s.setGang g).intakes = s.intakes := rfl
@[simp] theorem State.setGang_domains (s : State) (g : Gang) : (s.setGang g).domains = s.domains := rfl
@[simp] theorem State.setGang_agbase (s : State) (g : Gang) : (s.setGang g).agbase = s.agbase := rfl
@[simp] theorem State.setGang_agAsid (s : State) (g : Gang) : (s.setGang g).agAsid = s.agAsid := rfl
@[simp] theorem State.setGang_groups (s : State) (g : Gang) : (s.setGang g).groups = s.groups := rfl
@[simp] theorem State.setGang_trapBy (s : State) (g : Gang) : (s.setGang g).trapBy = s.trapBy := rfl
@[simp] theorem State.setGang_notices (s : State) (g : Gang) : (s.setGang g).notices = s.notices := rfl
@[simp] theorem State.setGang_deferred (s : State) (g : Gang) : (s.setGang g).deferred = s.deferred := rfl
@[simp] theorem State.setGang_links (s : State) (g : Gang) : (s.setGang g).links = s.links := rfl
@[simp] theorem State.setGang_bufs (s : State) (g : Gang) : (s.setGang g).bufs = s.bufs := rfl
@[simp] theorem State.setGang_token (s : State) (g : Gang) : (s.setGang g).token = s.token := rfl
@[simp] theorem State.setGang_tokenGen (s : State) (g : Gang) : (s.setGang g).tokenGen = s.tokenGen := rfl
@[simp] theorem State.setGang_tokenTmo (s : State) (g : Gang) : (s.setGang g).tokenTmo = s.tokenTmo := rfl
@[simp] theorem State.setGang_tokenAt (s : State) (g : Gang) : (s.setGang g).tokenAt = s.tokenAt := rfl
@[simp] theorem State.setGang_inbox (s : State) (g : Gang) : (s.setGang g).inbox = s.inbox := rfl
@[simp] theorem State.setGang_discards (s : State) (g : Gang) : (s.setGang g).discards = s.discards := rfl
@[simp] theorem State.setGang_wires (s : State) (g : Gang) : (s.setGang g).wires = s.wires := rfl
@[simp] theorem State.setGang_pcie (s : State) (g : Gang) : (s.setGang g).pcie = s.pcie := rfl

/-! ## State.setTask -/

@[simp] theorem State.setTask_agenda (s : State) (k : Task) : (s.setTask k).agenda = s.agenda := rfl
@[simp] theorem State.setTask_cur (s : State) (k : Task) : (s.setTask k).cur = s.cur := rfl
@[simp] theorem State.setTask_fresh (s : State) (k : Task) : (s.setTask k).fresh = s.fresh := rfl
@[simp] theorem State.setTask_stamp (s : State) (k : Task) : (s.setTask k).stamp = s.stamp := rfl
@[simp] theorem State.setTask_cycle (s : State) (k : Task) : (s.setTask k).cycle = s.cycle := rfl
@[simp] theorem State.setTask_marks (s : State) (k : Task) : (s.setTask k).marks = s.marks := rfl
@[simp] theorem State.setTask_marksAt (s : State) (k : Task) : (s.setTask k).marksAt = s.marksAt := rfl
@[simp] theorem State.setTask_mem (s : State) (k : Task) : (s.setTask k).mem = s.mem := rfl
@[simp] theorem State.setTask_copies (s : State) (k : Task) : (s.setTask k).copies = s.copies := rfl
@[simp] theorem State.setTask_badLines (s : State) (k : Task) : (s.setTask k).badLines = s.badLines := rfl
@[simp] theorem State.setTask_softLines (s : State) (k : Task) : (s.setTask k).softLines = s.softLines := rfl
@[simp] theorem State.setTask_retired (s : State) (k : Task) : (s.setTask k).retired = s.retired := rfl
@[simp] theorem State.setTask_lostFrames (s : State) (k : Task) : (s.setTask k).lostFrames = s.lostFrames := rfl
@[simp] theorem State.setTask_softSram (s : State) (k : Task) : (s.setTask k).softSram = s.softSram := rfl
@[simp] theorem State.setTask_softCount (s : State) (k : Task) : (s.setTask k).softCount = s.softCount := rfl
@[simp] theorem State.setTask_site (s : State) (k : Task) : (s.setTask k).site = s.site := rfl
@[simp] theorem State.setTask_devnum (s : State) (k : Task) : (s.setTask k).devnum = s.devnum := rfl
@[simp] theorem State.setTask_boot (s : State) (k : Task) : (s.setTask k).boot = s.boot := rfl
@[simp] theorem State.setTask_featOff0 (s : State) (k : Task) : (s.setTask k).featOff0 = s.featOff0 := rfl
@[simp] theorem State.setTask_featOff1 (s : State) (k : Task) : (s.setTask k).featOff1 = s.featOff1 := rfl
@[simp] theorem State.setTask_featAcc0 (s : State) (k : Task) : (s.setTask k).featAcc0 = s.featAcc0 := rfl
@[simp] theorem State.setTask_featAcc1 (s : State) (k : Task) : (s.setTask k).featAcc1 = s.featAcc1 := rfl
@[simp] theorem State.setTask_featLock (s : State) (k : Task) : (s.setTask k).featLock = s.featLock := rfl
@[simp] theorem State.setTask_dirBase (s : State) (k : Task) : (s.setTask k).dirBase = s.dirBase := rfl
@[simp] theorem State.setTask_dirEn (s : State) (k : Task) : (s.setTask k).dirEn = s.dirEn := rfl
@[simp] theorem State.setTask_events (s : State) (k : Task) : (s.setTask k).events = s.events := rfl
@[simp] theorem State.setTask_fenceSel (s : State) (k : Task) : (s.setTask k).fenceSel = s.fenceSel := rfl
@[simp] theorem State.setTask_fences (s : State) (k : Task) : (s.setTask k).fences = s.fences := rfl
@[simp] theorem State.setTask_fw (s : State) (k : Task) : (s.setTask k).fw = s.fw := rfl
@[simp] theorem State.setTask_frozen (s : State) (k : Task) : (s.setTask k).frozen = s.frozen := rfl
@[simp] theorem State.setTask_snap (s : State) (k : Task) : (s.setTask k).snap = s.snap := rfl
@[simp] theorem State.setTask_ports (s : State) (k : Task) : (s.setTask k).ports = s.ports := rfl
@[simp] theorem State.setTask_portTurn (s : State) (k : Task) : (s.setTask k).portTurn = s.portTurn := rfl
@[simp] theorem State.setTask_nextTask (s : State) (k : Task) : (s.setTask k).nextTask = s.nextTask := rfl
@[simp] theorem State.setTask_gangs (s : State) (k : Task) : (s.setTask k).gangs = s.gangs := rfl
@[simp] theorem State.setTask_threads (s : State) (k : Task) : (s.setTask k).threads = s.threads := rfl
@[simp] theorem State.setTask_lastDie (s : State) (k : Task) : (s.setTask k).lastDie = s.lastDie := rfl
@[simp] theorem State.setTask_matched (s : State) (k : Task) : (s.setTask k).matched = s.matched := rfl
@[simp] theorem State.setTask_reserved (s : State) (k : Task) : (s.setTask k).reserved = s.reserved := rfl
@[simp] theorem State.setTask_headGang (s : State) (k : Task) : (s.setTask k).headGang = s.headGang := rfl
@[simp] theorem State.setTask_ceilings (s : State) (k : Task) : (s.setTask k).ceilings = s.ceilings := rfl
@[simp] theorem State.setTask_coreTab (s : State) (k : Task) : (s.setTask k).coreTab = s.coreTab := rfl
@[simp] theorem State.setTask_turn (s : State) (k : Task) : (s.setTask k).turn = s.turn := rfl
@[simp] theorem State.setTask_pageCheck (s : State) (k : Task) : (s.setTask k).pageCheck = s.pageCheck := rfl
@[simp] theorem State.setTask_memTlb (s : State) (k : Task) : (s.setTask k).memTlb = s.memTlb := rfl
@[simp] theorem State.setTask_egress (s : State) (k : Task) : (s.setTask k).egress = s.egress := rfl
@[simp] theorem State.setTask_epoch (s : State) (k : Task) : (s.setTask k).epoch = s.epoch := rfl
@[simp] theorem State.setTask_shotAt (s : State) (k : Task) : (s.setTask k).shotAt = s.shotAt := rfl
@[simp] theorem State.setTask_walks (s : State) (k : Task) : (s.setTask k).walks = s.walks := rfl
@[simp] theorem State.setTask_migs (s : State) (k : Task) : (s.setTask k).migs = s.migs := rfl
@[simp] theorem State.setTask_counters (s : State) (k : Task) : (s.setTask k).counters = s.counters := rfl
@[simp] theorem State.setTask_poolSaid (s : State) (k : Task) : (s.setTask k).poolSaid = s.poolSaid := rfl
@[simp] theorem State.setTask_fwdSaid (s : State) (k : Task) : (s.setTask k).fwdSaid = s.fwdSaid := rfl
@[simp] theorem State.setTask_remEpoch (s : State) (k : Task) : (s.setTask k).remEpoch = s.remEpoch := rfl
@[simp] theorem State.setTask_remLines (s : State) (k : Task) : (s.setTask k).remLines = s.remLines := rfl
@[simp] theorem State.setTask_watched (s : State) (k : Task) : (s.setTask k).watched = s.watched := rfl
@[simp] theorem State.setTask_xpands (s : State) (k : Task) : (s.setTask k).xpands = s.xpands := rfl
@[simp] theorem State.setTask_heldTabs (s : State) (k : Task) : (s.setTask k).heldTabs = s.heldTabs := rfl
@[simp] theorem State.setTask_lapsed (s : State) (k : Task) : (s.setTask k).lapsed = s.lapsed := rfl
@[simp] theorem State.setTask_walkUsed (s : State) (k : Task) : (s.setTask k).walkUsed = s.walkUsed := rfl
@[simp] theorem State.setTask_fixups (s : State) (k : Task) : (s.setTask k).fixups = s.fixups := rfl
@[simp] theorem State.setTask_pends (s : State) (k : Task) : (s.setTask k).pends = s.pends := rfl
@[simp] theorem State.setTask_tx (s : State) (k : Task) : (s.setTask k).tx = s.tx := rfl
@[simp] theorem State.setTask_outQ (s : State) (k : Task) : (s.setTask k).outQ = s.outQ := rfl
@[simp] theorem State.setTask_segs (s : State) (k : Task) : (s.setTask k).segs = s.segs := rfl
@[simp] theorem State.setTask_rx (s : State) (k : Task) : (s.setTask k).rx = s.rx := rfl
@[simp] theorem State.setTask_rankCmds (s : State) (k : Task) : (s.setTask k).rankCmds = s.rankCmds := rfl
@[simp] theorem State.setTask_sends (s : State) (k : Task) : (s.setTask k).sends = s.sends := rfl
@[simp] theorem State.setTask_intakes (s : State) (k : Task) : (s.setTask k).intakes = s.intakes := rfl
@[simp] theorem State.setTask_domains (s : State) (k : Task) : (s.setTask k).domains = s.domains := rfl
@[simp] theorem State.setTask_agbase (s : State) (k : Task) : (s.setTask k).agbase = s.agbase := rfl
@[simp] theorem State.setTask_agAsid (s : State) (k : Task) : (s.setTask k).agAsid = s.agAsid := rfl
@[simp] theorem State.setTask_groups (s : State) (k : Task) : (s.setTask k).groups = s.groups := rfl
@[simp] theorem State.setTask_trapBy (s : State) (k : Task) : (s.setTask k).trapBy = s.trapBy := rfl
@[simp] theorem State.setTask_notices (s : State) (k : Task) : (s.setTask k).notices = s.notices := rfl
@[simp] theorem State.setTask_deferred (s : State) (k : Task) : (s.setTask k).deferred = s.deferred := rfl
@[simp] theorem State.setTask_links (s : State) (k : Task) : (s.setTask k).links = s.links := rfl
@[simp] theorem State.setTask_bufs (s : State) (k : Task) : (s.setTask k).bufs = s.bufs := rfl
@[simp] theorem State.setTask_token (s : State) (k : Task) : (s.setTask k).token = s.token := rfl
@[simp] theorem State.setTask_tokenGen (s : State) (k : Task) : (s.setTask k).tokenGen = s.tokenGen := rfl
@[simp] theorem State.setTask_tokenTmo (s : State) (k : Task) : (s.setTask k).tokenTmo = s.tokenTmo := rfl
@[simp] theorem State.setTask_tokenAt (s : State) (k : Task) : (s.setTask k).tokenAt = s.tokenAt := rfl
@[simp] theorem State.setTask_inbox (s : State) (k : Task) : (s.setTask k).inbox = s.inbox := rfl
@[simp] theorem State.setTask_discards (s : State) (k : Task) : (s.setTask k).discards = s.discards := rfl
@[simp] theorem State.setTask_wires (s : State) (k : Task) : (s.setTask k).wires = s.wires := rfl
@[simp] theorem State.setTask_pcie (s : State) (k : Task) : (s.setTask k).pcie = s.pcie := rfl

/-! ## State.writePA -/

@[simp] theorem State.writePA_agenda (s : State) (pa : Nat) (bs : List Byte) : (s.writePA pa bs).agenda = s.agenda := rfl
@[simp] theorem State.writePA_cur (s : State) (pa : Nat) (bs : List Byte) : (s.writePA pa bs).cur = s.cur := rfl
@[simp] theorem State.writePA_fresh (s : State) (pa : Nat) (bs : List Byte) : (s.writePA pa bs).fresh = s.fresh := rfl
@[simp] theorem State.writePA_stamp (s : State) (pa : Nat) (bs : List Byte) : (s.writePA pa bs).stamp = s.stamp := rfl
@[simp] theorem State.writePA_cycle (s : State) (pa : Nat) (bs : List Byte) : (s.writePA pa bs).cycle = s.cycle := rfl
@[simp] theorem State.writePA_marks (s : State) (pa : Nat) (bs : List Byte) : (s.writePA pa bs).marks = s.marks := rfl
@[simp] theorem State.writePA_marksAt (s : State) (pa : Nat) (bs : List Byte) : (s.writePA pa bs).marksAt = s.marksAt := rfl
@[simp] theorem State.writePA_copies (s : State) (pa : Nat) (bs : List Byte) : (s.writePA pa bs).copies = s.copies := rfl
@[simp] theorem State.writePA_badLines (s : State) (pa : Nat) (bs : List Byte) : (s.writePA pa bs).badLines = s.badLines := rfl
@[simp] theorem State.writePA_softLines (s : State) (pa : Nat) (bs : List Byte) : (s.writePA pa bs).softLines = s.softLines := rfl
@[simp] theorem State.writePA_retired (s : State) (pa : Nat) (bs : List Byte) : (s.writePA pa bs).retired = s.retired := rfl
@[simp] theorem State.writePA_lostFrames (s : State) (pa : Nat) (bs : List Byte) : (s.writePA pa bs).lostFrames = s.lostFrames := rfl
@[simp] theorem State.writePA_softSram (s : State) (pa : Nat) (bs : List Byte) : (s.writePA pa bs).softSram = s.softSram := rfl
@[simp] theorem State.writePA_softCount (s : State) (pa : Nat) (bs : List Byte) : (s.writePA pa bs).softCount = s.softCount := rfl
@[simp] theorem State.writePA_site (s : State) (pa : Nat) (bs : List Byte) : (s.writePA pa bs).site = s.site := rfl
@[simp] theorem State.writePA_devnum (s : State) (pa : Nat) (bs : List Byte) : (s.writePA pa bs).devnum = s.devnum := rfl
@[simp] theorem State.writePA_boot (s : State) (pa : Nat) (bs : List Byte) : (s.writePA pa bs).boot = s.boot := rfl
@[simp] theorem State.writePA_featOff0 (s : State) (pa : Nat) (bs : List Byte) : (s.writePA pa bs).featOff0 = s.featOff0 := rfl
@[simp] theorem State.writePA_featOff1 (s : State) (pa : Nat) (bs : List Byte) : (s.writePA pa bs).featOff1 = s.featOff1 := rfl
@[simp] theorem State.writePA_featAcc0 (s : State) (pa : Nat) (bs : List Byte) : (s.writePA pa bs).featAcc0 = s.featAcc0 := rfl
@[simp] theorem State.writePA_featAcc1 (s : State) (pa : Nat) (bs : List Byte) : (s.writePA pa bs).featAcc1 = s.featAcc1 := rfl
@[simp] theorem State.writePA_featLock (s : State) (pa : Nat) (bs : List Byte) : (s.writePA pa bs).featLock = s.featLock := rfl
@[simp] theorem State.writePA_dirBase (s : State) (pa : Nat) (bs : List Byte) : (s.writePA pa bs).dirBase = s.dirBase := rfl
@[simp] theorem State.writePA_dirEn (s : State) (pa : Nat) (bs : List Byte) : (s.writePA pa bs).dirEn = s.dirEn := rfl
@[simp] theorem State.writePA_events (s : State) (pa : Nat) (bs : List Byte) : (s.writePA pa bs).events = s.events := rfl
@[simp] theorem State.writePA_fenceSel (s : State) (pa : Nat) (bs : List Byte) : (s.writePA pa bs).fenceSel = s.fenceSel := rfl
@[simp] theorem State.writePA_fences (s : State) (pa : Nat) (bs : List Byte) : (s.writePA pa bs).fences = s.fences := rfl
@[simp] theorem State.writePA_fw (s : State) (pa : Nat) (bs : List Byte) : (s.writePA pa bs).fw = s.fw := rfl
@[simp] theorem State.writePA_frozen (s : State) (pa : Nat) (bs : List Byte) : (s.writePA pa bs).frozen = s.frozen := rfl
@[simp] theorem State.writePA_snap (s : State) (pa : Nat) (bs : List Byte) : (s.writePA pa bs).snap = s.snap := rfl
@[simp] theorem State.writePA_ports (s : State) (pa : Nat) (bs : List Byte) : (s.writePA pa bs).ports = s.ports := rfl
@[simp] theorem State.writePA_portTurn (s : State) (pa : Nat) (bs : List Byte) : (s.writePA pa bs).portTurn = s.portTurn := rfl
@[simp] theorem State.writePA_tasks (s : State) (pa : Nat) (bs : List Byte) : (s.writePA pa bs).tasks = s.tasks := rfl
@[simp] theorem State.writePA_nextTask (s : State) (pa : Nat) (bs : List Byte) : (s.writePA pa bs).nextTask = s.nextTask := rfl
@[simp] theorem State.writePA_gangs (s : State) (pa : Nat) (bs : List Byte) : (s.writePA pa bs).gangs = s.gangs := rfl
@[simp] theorem State.writePA_threads (s : State) (pa : Nat) (bs : List Byte) : (s.writePA pa bs).threads = s.threads := rfl
@[simp] theorem State.writePA_lastDie (s : State) (pa : Nat) (bs : List Byte) : (s.writePA pa bs).lastDie = s.lastDie := rfl
@[simp] theorem State.writePA_matched (s : State) (pa : Nat) (bs : List Byte) : (s.writePA pa bs).matched = s.matched := rfl
@[simp] theorem State.writePA_reserved (s : State) (pa : Nat) (bs : List Byte) : (s.writePA pa bs).reserved = s.reserved := rfl
@[simp] theorem State.writePA_headGang (s : State) (pa : Nat) (bs : List Byte) : (s.writePA pa bs).headGang = s.headGang := rfl
@[simp] theorem State.writePA_ceilings (s : State) (pa : Nat) (bs : List Byte) : (s.writePA pa bs).ceilings = s.ceilings := rfl
@[simp] theorem State.writePA_coreTab (s : State) (pa : Nat) (bs : List Byte) : (s.writePA pa bs).coreTab = s.coreTab := rfl
@[simp] theorem State.writePA_turn (s : State) (pa : Nat) (bs : List Byte) : (s.writePA pa bs).turn = s.turn := rfl
@[simp] theorem State.writePA_pageCheck (s : State) (pa : Nat) (bs : List Byte) : (s.writePA pa bs).pageCheck = s.pageCheck := rfl
@[simp] theorem State.writePA_memTlb (s : State) (pa : Nat) (bs : List Byte) : (s.writePA pa bs).memTlb = s.memTlb := rfl
@[simp] theorem State.writePA_egress (s : State) (pa : Nat) (bs : List Byte) : (s.writePA pa bs).egress = s.egress := rfl
@[simp] theorem State.writePA_epoch (s : State) (pa : Nat) (bs : List Byte) : (s.writePA pa bs).epoch = s.epoch := rfl
@[simp] theorem State.writePA_shotAt (s : State) (pa : Nat) (bs : List Byte) : (s.writePA pa bs).shotAt = s.shotAt := rfl
@[simp] theorem State.writePA_walks (s : State) (pa : Nat) (bs : List Byte) : (s.writePA pa bs).walks = s.walks := rfl
@[simp] theorem State.writePA_migs (s : State) (pa : Nat) (bs : List Byte) : (s.writePA pa bs).migs = s.migs := rfl
@[simp] theorem State.writePA_counters (s : State) (pa : Nat) (bs : List Byte) : (s.writePA pa bs).counters = s.counters := rfl
@[simp] theorem State.writePA_poolSaid (s : State) (pa : Nat) (bs : List Byte) : (s.writePA pa bs).poolSaid = s.poolSaid := rfl
@[simp] theorem State.writePA_fwdSaid (s : State) (pa : Nat) (bs : List Byte) : (s.writePA pa bs).fwdSaid = s.fwdSaid := rfl
@[simp] theorem State.writePA_remEpoch (s : State) (pa : Nat) (bs : List Byte) : (s.writePA pa bs).remEpoch = s.remEpoch := rfl
@[simp] theorem State.writePA_remLines (s : State) (pa : Nat) (bs : List Byte) : (s.writePA pa bs).remLines = s.remLines := rfl
@[simp] theorem State.writePA_watched (s : State) (pa : Nat) (bs : List Byte) : (s.writePA pa bs).watched = s.watched := rfl
@[simp] theorem State.writePA_xpands (s : State) (pa : Nat) (bs : List Byte) : (s.writePA pa bs).xpands = s.xpands := rfl
@[simp] theorem State.writePA_heldTabs (s : State) (pa : Nat) (bs : List Byte) : (s.writePA pa bs).heldTabs = s.heldTabs := rfl
@[simp] theorem State.writePA_lapsed (s : State) (pa : Nat) (bs : List Byte) : (s.writePA pa bs).lapsed = s.lapsed := rfl
@[simp] theorem State.writePA_walkUsed (s : State) (pa : Nat) (bs : List Byte) : (s.writePA pa bs).walkUsed = s.walkUsed := rfl
@[simp] theorem State.writePA_fixups (s : State) (pa : Nat) (bs : List Byte) : (s.writePA pa bs).fixups = s.fixups := rfl
@[simp] theorem State.writePA_pends (s : State) (pa : Nat) (bs : List Byte) : (s.writePA pa bs).pends = s.pends := rfl
@[simp] theorem State.writePA_tx (s : State) (pa : Nat) (bs : List Byte) : (s.writePA pa bs).tx = s.tx := rfl
@[simp] theorem State.writePA_outQ (s : State) (pa : Nat) (bs : List Byte) : (s.writePA pa bs).outQ = s.outQ := rfl
@[simp] theorem State.writePA_segs (s : State) (pa : Nat) (bs : List Byte) : (s.writePA pa bs).segs = s.segs := rfl
@[simp] theorem State.writePA_rx (s : State) (pa : Nat) (bs : List Byte) : (s.writePA pa bs).rx = s.rx := rfl
@[simp] theorem State.writePA_rankCmds (s : State) (pa : Nat) (bs : List Byte) : (s.writePA pa bs).rankCmds = s.rankCmds := rfl
@[simp] theorem State.writePA_sends (s : State) (pa : Nat) (bs : List Byte) : (s.writePA pa bs).sends = s.sends := rfl
@[simp] theorem State.writePA_intakes (s : State) (pa : Nat) (bs : List Byte) : (s.writePA pa bs).intakes = s.intakes := rfl
@[simp] theorem State.writePA_domains (s : State) (pa : Nat) (bs : List Byte) : (s.writePA pa bs).domains = s.domains := rfl
@[simp] theorem State.writePA_agbase (s : State) (pa : Nat) (bs : List Byte) : (s.writePA pa bs).agbase = s.agbase := rfl
@[simp] theorem State.writePA_agAsid (s : State) (pa : Nat) (bs : List Byte) : (s.writePA pa bs).agAsid = s.agAsid := rfl
@[simp] theorem State.writePA_groups (s : State) (pa : Nat) (bs : List Byte) : (s.writePA pa bs).groups = s.groups := rfl
@[simp] theorem State.writePA_trapBy (s : State) (pa : Nat) (bs : List Byte) : (s.writePA pa bs).trapBy = s.trapBy := rfl
@[simp] theorem State.writePA_notices (s : State) (pa : Nat) (bs : List Byte) : (s.writePA pa bs).notices = s.notices := rfl
@[simp] theorem State.writePA_deferred (s : State) (pa : Nat) (bs : List Byte) : (s.writePA pa bs).deferred = s.deferred := rfl
@[simp] theorem State.writePA_links (s : State) (pa : Nat) (bs : List Byte) : (s.writePA pa bs).links = s.links := rfl
@[simp] theorem State.writePA_bufs (s : State) (pa : Nat) (bs : List Byte) : (s.writePA pa bs).bufs = s.bufs := rfl
@[simp] theorem State.writePA_token (s : State) (pa : Nat) (bs : List Byte) : (s.writePA pa bs).token = s.token := rfl
@[simp] theorem State.writePA_tokenGen (s : State) (pa : Nat) (bs : List Byte) : (s.writePA pa bs).tokenGen = s.tokenGen := rfl
@[simp] theorem State.writePA_tokenTmo (s : State) (pa : Nat) (bs : List Byte) : (s.writePA pa bs).tokenTmo = s.tokenTmo := rfl
@[simp] theorem State.writePA_tokenAt (s : State) (pa : Nat) (bs : List Byte) : (s.writePA pa bs).tokenAt = s.tokenAt := rfl
@[simp] theorem State.writePA_inbox (s : State) (pa : Nat) (bs : List Byte) : (s.writePA pa bs).inbox = s.inbox := rfl
@[simp] theorem State.writePA_discards (s : State) (pa : Nat) (bs : List Byte) : (s.writePA pa bs).discards = s.discards := rfl
@[simp] theorem State.writePA_wires (s : State) (pa : Nat) (bs : List Byte) : (s.writePA pa bs).wires = s.wires := rfl
@[simp] theorem State.writePA_pcie (s : State) (pa : Nat) (bs : List Byte) : (s.writePA pa bs).pcie = s.pcie := rfl

/-! ## Plain updates of a thread -/

@[simp] theorem Thread.setPending_id (t : Thread) (r : RegRef) : (t.setPending r).id = t.id := rfl
@[simp] theorem Thread.setPending_cbase (t : Thread) (r : RegRef) : (t.setPending r).cbase = t.cbase := rfl
@[simp] theorem Thread.setPending_pc (t : Thread) (r : RegRef) : (t.setPending r).pc = t.pc := rfl
@[simp] theorem Thread.setPending_run (t : Thread) (r : RegRef) : (t.setPending r).run = t.run := rfl
@[simp] theorem Thread.setPending_block (t : Thread) (r : RegRef) : (t.setPending r).block = t.block := rfl
@[simp] theorem Thread.setPending_hcause (t : Thread) (r : RegRef) : (t.setPending r).hcause = t.hcause := rfl
@[simp] theorem Thread.setPending_ss (t : Thread) (r : RegRef) : (t.setPending r).ss = t.ss := rfl
@[simp] theorem Thread.setPending_trapen (t : Thread) (r : RegRef) : (t.setPending r).trapen = t.trapen := rfl
@[simp] theorem Thread.setPending_vwS (t : Thread) (r : RegRef) : (t.setPending r).vwS = t.vwS := rfl
@[simp] theorem Thread.setPending_vwK (t : Thread) (r : RegRef) : (t.setPending r).vwK = t.vwK := rfl
@[simp] theorem Thread.setPending_vwV (t : Thread) (r : RegRef) : (t.setPending r).vwV = t.vwV := rfl
@[simp] theorem Thread.setPending_regs (t : Thread) (r : RegRef) : (t.setPending r).regs = t.regs := rfl
@[simp] theorem Thread.setPending_valid (t : Thread) (r : RegRef) : (t.setPending r).valid = t.valid := rfl
@[simp] theorem Thread.setPending_resident (t : Thread) (r : RegRef) : (t.setPending r).resident = t.resident := rfl
@[simp] theorem Thread.setPending_saved (t : Thread) (r : RegRef) : (t.setPending r).saved = t.saved := rfl
@[simp] theorem Thread.setPending_deposits (t : Thread) (r : RegRef) : (t.setPending r).deposits = t.deposits := rfl
@[simp] theorem Thread.setPending_uniCount (t : Thread) (r : RegRef) : (t.setPending r).uniCount = t.uniCount := rfl
@[simp] theorem Thread.setPending_repLeft (t : Thread) (r : RegRef) : (t.setPending r).repLeft = t.repLeft := rfl
@[simp] theorem Thread.setPending_repIter (t : Thread) (r : RegRef) : (t.setPending r).repIter = t.repIter := rfl
@[simp] theorem Thread.setPending_flags (t : Thread) (r : RegRef) : (t.setPending r).flags = t.flags := rfl
@[simp] theorem Thread.setPending_seed (t : Thread) (r : RegRef) : (t.setPending r).seed = t.seed := rfl
@[simp] theorem Thread.setPending_breaks (t : Thread) (r : RegRef) : (t.setPending r).breaks = t.breaks := rfl
@[simp] theorem Thread.setPending_watches (t : Thread) (r : RegRef) : (t.setPending r).watches = t.watches := rfl
@[simp] theorem Thread.setPending_trapRec (t : Thread) (r : RegRef) : (t.setPending r).trapRec = t.trapRec := rfl
@[simp] theorem Thread.setPending_tvec (t : Thread) (r : RegRef) : (t.setPending r).tvec = t.tvec := rfl
@[simp] theorem Thread.setPending_lq (t : Thread) (r : RegRef) : (t.setPending r).lq = t.lq := rfl
@[simp] theorem Thread.setPending_lqFly (t : Thread) (r : RegRef) : (t.setPending r).lqFly = t.lqFly := rfl
@[simp] theorem Thread.setPending_lqHead (t : Thread) (r : RegRef) : (t.setPending r).lqHead = t.lqHead := rfl
@[simp] theorem Thread.setPending_sq (t : Thread) (r : RegRef) : (t.setPending r).sq = t.sq := rfl
@[simp] theorem Thread.setPending_sqHead (t : Thread) (r : RegRef) : (t.setPending r).sqHead = t.sqHead := rfl
@[simp] theorem Thread.setPending_mx0 (t : Thread) (r : RegRef) : (t.setPending r).mx0 = t.mx0 := rfl
@[simp] theorem Thread.setPending_mx1 (t : Thread) (r : RegRef) : (t.setPending r).mx1 = t.mx1 := rfl
@[simp] theorem Thread.setPending_mxHead (t : Thread) (r : RegRef) : (t.setPending r).mxHead = t.mxHead := rfl
@[simp] theorem Thread.setPending_mxf (t : Thread) (r : RegRef) : (t.setPending r).mxf = t.mxf := rfl
@[simp] theorem Thread.setPending_geomM (t : Thread) (r : RegRef) : (t.setPending r).geomM = t.geomM := rfl
@[simp] theorem Thread.setPending_geomN (t : Thread) (r : RegRef) : (t.setPending r).geomN = t.geomN := rfl
@[simp] theorem Thread.setPending_geomK (t : Thread) (r : RegRef) : (t.setPending r).geomK = t.geomK := rfl
@[simp] theorem Thread.setPending_ce0 (t : Thread) (r : RegRef) : (t.setPending r).ce0 = t.ce0 := rfl
@[simp] theorem Thread.setPending_ce1 (t : Thread) (r : RegRef) : (t.setPending r).ce1 = t.ce1 := rfl
@[simp] theorem Thread.setPending_walk (t : Thread) (r : RegRef) : (t.setPending r).walk = t.walk := rfl
@[simp] theorem Thread.setPending_asidx (t : Thread) (r : RegRef) : (t.setPending r).asidx = t.asidx := rfl
@[simp] theorem Thread.setPending_mboxSeen (t : Thread) (r : RegRef) : (t.setPending r).mboxSeen = t.mboxSeen := rfl
@[simp] theorem Thread.setPending_deadline (t : Thread) (r : RegRef) : (t.setPending r).deadline = t.deadline := rfl
@[simp] theorem Thread.setPending_wideStat (t : Thread) (r : RegRef) : (t.setPending r).wideStat = t.wideStat := rfl
@[simp] theorem Thread.setPending_nextPhase (t : Thread) (r : RegRef) : (t.setPending r).nextPhase = t.nextPhase := rfl
@[simp] theorem Thread.setPending_resumed (t : Thread) (r : RegRef) : (t.setPending r).resumed = t.resumed := rfl
@[simp] theorem Thread.setPending_passed (t : Thread) (r : RegRef) : (t.setPending r).passed = t.passed := rfl
@[simp] theorem Thread.setPending_fencing (t : Thread) (r : RegRef) : (t.setPending r).fencing = t.fencing := rfl
@[simp] theorem Thread.setPending_blockPC (t : Thread) (r : RegRef) : (t.setPending r).blockPC = t.blockPC := rfl
@[simp] theorem Thread.setPending_blockWord (t : Thread) (r : RegRef) : (t.setPending r).blockWord = t.blockWord := rfl
@[simp] theorem Thread.setPending_slot (t : Thread) (r : RegRef) : (t.setPending r).slot = t.slot := rfl
@[simp] theorem Thread.setPending_seatedAt (t : Thread) (r : RegRef) : (t.setPending r).seatedAt = t.seatedAt := rfl
@[simp] theorem Thread.setPending_since (t : Thread) (r : RegRef) : (t.setPending r).since = t.since := rfl
@[simp] theorem Thread.setPending_readyAt (t : Thread) (r : RegRef) : (t.setPending r).readyAt = t.readyAt := rfl
@[simp] theorem Thread.setPending_lastA (t : Thread) (r : RegRef) : (t.setPending r).lastA = t.lastA := rfl
@[simp] theorem Thread.setPending_lastE (t : Thread) (r : RegRef) : (t.setPending r).lastE = t.lastE := rfl
@[simp] theorem Thread.setPending_gone (t : Thread) (r : RegRef) : (t.setPending r).gone = t.gone := rfl
@[simp] theorem Thread.setPending_wroteHost (t : Thread) (r : RegRef) : (t.setPending r).wroteHost = t.wroteHost := rfl
@[simp] theorem Thread.setPending_damaged (t : Thread) (r : RegRef) : (t.setPending r).damaged = t.damaged := rfl
@[simp] theorem Thread.setPending_badRegs (t : Thread) (r : RegRef) : (t.setPending r).badRegs = t.badRegs := rfl
@[simp] theorem Thread.setPending_badQueue (t : Thread) (r : RegRef) : (t.setPending r).badQueue = t.badQueue := rfl
@[simp] theorem Thread.setPending_lately (t : Thread) (r : RegRef) : (t.setPending r).lately = t.lately := rfl
@[simp] theorem Thread.setPending_zeroed (t : Thread) (r : RegRef) : (t.setPending r).zeroed = t.zeroed := rfl
@[simp] theorem Thread.setPending_notBefore (t : Thread) (r : RegRef) : (t.setPending r).notBefore = t.notBefore := rfl

@[simp] theorem Thread.clearRep_id (t : Thread) : (t.clearRep).id = t.id := rfl
@[simp] theorem Thread.clearRep_cbase (t : Thread) : (t.clearRep).cbase = t.cbase := rfl
@[simp] theorem Thread.clearRep_pc (t : Thread) : (t.clearRep).pc = t.pc := rfl
@[simp] theorem Thread.clearRep_run (t : Thread) : (t.clearRep).run = t.run := rfl
@[simp] theorem Thread.clearRep_block (t : Thread) : (t.clearRep).block = t.block := rfl
@[simp] theorem Thread.clearRep_hcause (t : Thread) : (t.clearRep).hcause = t.hcause := rfl
@[simp] theorem Thread.clearRep_ss (t : Thread) : (t.clearRep).ss = t.ss := rfl
@[simp] theorem Thread.clearRep_trapen (t : Thread) : (t.clearRep).trapen = t.trapen := rfl
@[simp] theorem Thread.clearRep_vwS (t : Thread) : (t.clearRep).vwS = t.vwS := rfl
@[simp] theorem Thread.clearRep_vwK (t : Thread) : (t.clearRep).vwK = t.vwK := rfl
@[simp] theorem Thread.clearRep_vwV (t : Thread) : (t.clearRep).vwV = t.vwV := rfl
@[simp] theorem Thread.clearRep_regs (t : Thread) : (t.clearRep).regs = t.regs := rfl
@[simp] theorem Thread.clearRep_valid (t : Thread) : (t.clearRep).valid = t.valid := rfl
@[simp] theorem Thread.clearRep_pending (t : Thread) : (t.clearRep).pending = t.pending := rfl
@[simp] theorem Thread.clearRep_resident (t : Thread) : (t.clearRep).resident = t.resident := rfl
@[simp] theorem Thread.clearRep_saved (t : Thread) : (t.clearRep).saved = t.saved := rfl
@[simp] theorem Thread.clearRep_deposits (t : Thread) : (t.clearRep).deposits = t.deposits := rfl
@[simp] theorem Thread.clearRep_uniCount (t : Thread) : (t.clearRep).uniCount = t.uniCount := rfl
@[simp] theorem Thread.clearRep_flags (t : Thread) : (t.clearRep).flags = t.flags := rfl
@[simp] theorem Thread.clearRep_seed (t : Thread) : (t.clearRep).seed = t.seed := rfl
@[simp] theorem Thread.clearRep_breaks (t : Thread) : (t.clearRep).breaks = t.breaks := rfl
@[simp] theorem Thread.clearRep_watches (t : Thread) : (t.clearRep).watches = t.watches := rfl
@[simp] theorem Thread.clearRep_trapRec (t : Thread) : (t.clearRep).trapRec = t.trapRec := rfl
@[simp] theorem Thread.clearRep_tvec (t : Thread) : (t.clearRep).tvec = t.tvec := rfl
@[simp] theorem Thread.clearRep_lq (t : Thread) : (t.clearRep).lq = t.lq := rfl
@[simp] theorem Thread.clearRep_lqFly (t : Thread) : (t.clearRep).lqFly = t.lqFly := rfl
@[simp] theorem Thread.clearRep_lqHead (t : Thread) : (t.clearRep).lqHead = t.lqHead := rfl
@[simp] theorem Thread.clearRep_sq (t : Thread) : (t.clearRep).sq = t.sq := rfl
@[simp] theorem Thread.clearRep_sqHead (t : Thread) : (t.clearRep).sqHead = t.sqHead := rfl
@[simp] theorem Thread.clearRep_mx0 (t : Thread) : (t.clearRep).mx0 = t.mx0 := rfl
@[simp] theorem Thread.clearRep_mx1 (t : Thread) : (t.clearRep).mx1 = t.mx1 := rfl
@[simp] theorem Thread.clearRep_mxHead (t : Thread) : (t.clearRep).mxHead = t.mxHead := rfl
@[simp] theorem Thread.clearRep_mxf (t : Thread) : (t.clearRep).mxf = t.mxf := rfl
@[simp] theorem Thread.clearRep_geomM (t : Thread) : (t.clearRep).geomM = t.geomM := rfl
@[simp] theorem Thread.clearRep_geomN (t : Thread) : (t.clearRep).geomN = t.geomN := rfl
@[simp] theorem Thread.clearRep_geomK (t : Thread) : (t.clearRep).geomK = t.geomK := rfl
@[simp] theorem Thread.clearRep_ce0 (t : Thread) : (t.clearRep).ce0 = t.ce0 := rfl
@[simp] theorem Thread.clearRep_ce1 (t : Thread) : (t.clearRep).ce1 = t.ce1 := rfl
@[simp] theorem Thread.clearRep_walk (t : Thread) : (t.clearRep).walk = t.walk := rfl
@[simp] theorem Thread.clearRep_asidx (t : Thread) : (t.clearRep).asidx = t.asidx := rfl
@[simp] theorem Thread.clearRep_mboxSeen (t : Thread) : (t.clearRep).mboxSeen = t.mboxSeen := rfl
@[simp] theorem Thread.clearRep_deadline (t : Thread) : (t.clearRep).deadline = t.deadline := rfl
@[simp] theorem Thread.clearRep_wideStat (t : Thread) : (t.clearRep).wideStat = t.wideStat := rfl
@[simp] theorem Thread.clearRep_nextPhase (t : Thread) : (t.clearRep).nextPhase = t.nextPhase := rfl
@[simp] theorem Thread.clearRep_resumed (t : Thread) : (t.clearRep).resumed = t.resumed := rfl
@[simp] theorem Thread.clearRep_passed (t : Thread) : (t.clearRep).passed = t.passed := rfl
@[simp] theorem Thread.clearRep_fencing (t : Thread) : (t.clearRep).fencing = t.fencing := rfl
@[simp] theorem Thread.clearRep_blockPC (t : Thread) : (t.clearRep).blockPC = t.blockPC := rfl
@[simp] theorem Thread.clearRep_blockWord (t : Thread) : (t.clearRep).blockWord = t.blockWord := rfl
@[simp] theorem Thread.clearRep_slot (t : Thread) : (t.clearRep).slot = t.slot := rfl
@[simp] theorem Thread.clearRep_seatedAt (t : Thread) : (t.clearRep).seatedAt = t.seatedAt := rfl
@[simp] theorem Thread.clearRep_since (t : Thread) : (t.clearRep).since = t.since := rfl
@[simp] theorem Thread.clearRep_readyAt (t : Thread) : (t.clearRep).readyAt = t.readyAt := rfl
@[simp] theorem Thread.clearRep_lastA (t : Thread) : (t.clearRep).lastA = t.lastA := rfl
@[simp] theorem Thread.clearRep_lastE (t : Thread) : (t.clearRep).lastE = t.lastE := rfl
@[simp] theorem Thread.clearRep_gone (t : Thread) : (t.clearRep).gone = t.gone := rfl
@[simp] theorem Thread.clearRep_wroteHost (t : Thread) : (t.clearRep).wroteHost = t.wroteHost := rfl
@[simp] theorem Thread.clearRep_damaged (t : Thread) : (t.clearRep).damaged = t.damaged := rfl
@[simp] theorem Thread.clearRep_badRegs (t : Thread) : (t.clearRep).badRegs = t.badRegs := rfl
@[simp] theorem Thread.clearRep_badQueue (t : Thread) : (t.clearRep).badQueue = t.badQueue := rfl
@[simp] theorem Thread.clearRep_lately (t : Thread) : (t.clearRep).lately = t.lately := rfl
@[simp] theorem Thread.clearRep_zeroed (t : Thread) : (t.clearRep).zeroed = t.zeroed := rfl
@[simp] theorem Thread.clearRep_notBefore (t : Thread) : (t.clearRep).notBefore = t.notBefore := rfl

/-! ## Writes of registers: the register space and the valid granules alone change; a queue destination changes `sq` -/

@[simp] theorem Thread.put_id (t : Thread) (r : RegRef) (w : Nat) (v : BitVec w) : (t.put r v).id = t.id := by
  unfold Thread.put; split <;> rfl
@[simp] theorem Thread.setS_id (t : Thread) (n : SReg) (v : Word) : (t.setS n v).id = t.id := Thread.put_id t _ _ v
@[simp] theorem Thread.setK_id (t : Thread) (n : KReg) (v : MaskBits) : (t.setK n v).id = t.id := Thread.put_id t _ _ v
@[simp] theorem Thread.setV_id (t : Thread) (n : VReg) (v : VecBits) : (t.setV n v).id = t.id := by
  unfold Thread.setV; split
  · rfl
  · exact Thread.put_id t _ _ v
@[simp] theorem Thread.put_cbase (t : Thread) (r : RegRef) (w : Nat) (v : BitVec w) : (t.put r v).cbase = t.cbase := by
  unfold Thread.put; split <;> rfl
@[simp] theorem Thread.setS_cbase (t : Thread) (n : SReg) (v : Word) : (t.setS n v).cbase = t.cbase := Thread.put_cbase t _ _ v
@[simp] theorem Thread.setK_cbase (t : Thread) (n : KReg) (v : MaskBits) : (t.setK n v).cbase = t.cbase := Thread.put_cbase t _ _ v
@[simp] theorem Thread.setV_cbase (t : Thread) (n : VReg) (v : VecBits) : (t.setV n v).cbase = t.cbase := by
  unfold Thread.setV; split
  · rfl
  · exact Thread.put_cbase t _ _ v
@[simp] theorem Thread.put_pc (t : Thread) (r : RegRef) (w : Nat) (v : BitVec w) : (t.put r v).pc = t.pc := by
  unfold Thread.put; split <;> rfl
@[simp] theorem Thread.setS_pc (t : Thread) (n : SReg) (v : Word) : (t.setS n v).pc = t.pc := Thread.put_pc t _ _ v
@[simp] theorem Thread.setK_pc (t : Thread) (n : KReg) (v : MaskBits) : (t.setK n v).pc = t.pc := Thread.put_pc t _ _ v
@[simp] theorem Thread.setV_pc (t : Thread) (n : VReg) (v : VecBits) : (t.setV n v).pc = t.pc := by
  unfold Thread.setV; split
  · rfl
  · exact Thread.put_pc t _ _ v
@[simp] theorem Thread.put_run (t : Thread) (r : RegRef) (w : Nat) (v : BitVec w) : (t.put r v).run = t.run := by
  unfold Thread.put; split <;> rfl
@[simp] theorem Thread.setS_run (t : Thread) (n : SReg) (v : Word) : (t.setS n v).run = t.run := Thread.put_run t _ _ v
@[simp] theorem Thread.setK_run (t : Thread) (n : KReg) (v : MaskBits) : (t.setK n v).run = t.run := Thread.put_run t _ _ v
@[simp] theorem Thread.setV_run (t : Thread) (n : VReg) (v : VecBits) : (t.setV n v).run = t.run := by
  unfold Thread.setV; split
  · rfl
  · exact Thread.put_run t _ _ v
@[simp] theorem Thread.put_block (t : Thread) (r : RegRef) (w : Nat) (v : BitVec w) : (t.put r v).block = t.block := by
  unfold Thread.put; split <;> rfl
@[simp] theorem Thread.setS_block (t : Thread) (n : SReg) (v : Word) : (t.setS n v).block = t.block := Thread.put_block t _ _ v
@[simp] theorem Thread.setK_block (t : Thread) (n : KReg) (v : MaskBits) : (t.setK n v).block = t.block := Thread.put_block t _ _ v
@[simp] theorem Thread.setV_block (t : Thread) (n : VReg) (v : VecBits) : (t.setV n v).block = t.block := by
  unfold Thread.setV; split
  · rfl
  · exact Thread.put_block t _ _ v
@[simp] theorem Thread.put_hcause (t : Thread) (r : RegRef) (w : Nat) (v : BitVec w) : (t.put r v).hcause = t.hcause := by
  unfold Thread.put; split <;> rfl
@[simp] theorem Thread.setS_hcause (t : Thread) (n : SReg) (v : Word) : (t.setS n v).hcause = t.hcause := Thread.put_hcause t _ _ v
@[simp] theorem Thread.setK_hcause (t : Thread) (n : KReg) (v : MaskBits) : (t.setK n v).hcause = t.hcause := Thread.put_hcause t _ _ v
@[simp] theorem Thread.setV_hcause (t : Thread) (n : VReg) (v : VecBits) : (t.setV n v).hcause = t.hcause := by
  unfold Thread.setV; split
  · rfl
  · exact Thread.put_hcause t _ _ v
@[simp] theorem Thread.put_ss (t : Thread) (r : RegRef) (w : Nat) (v : BitVec w) : (t.put r v).ss = t.ss := by
  unfold Thread.put; split <;> rfl
@[simp] theorem Thread.setS_ss (t : Thread) (n : SReg) (v : Word) : (t.setS n v).ss = t.ss := Thread.put_ss t _ _ v
@[simp] theorem Thread.setK_ss (t : Thread) (n : KReg) (v : MaskBits) : (t.setK n v).ss = t.ss := Thread.put_ss t _ _ v
@[simp] theorem Thread.setV_ss (t : Thread) (n : VReg) (v : VecBits) : (t.setV n v).ss = t.ss := by
  unfold Thread.setV; split
  · rfl
  · exact Thread.put_ss t _ _ v
@[simp] theorem Thread.put_trapen (t : Thread) (r : RegRef) (w : Nat) (v : BitVec w) : (t.put r v).trapen = t.trapen := by
  unfold Thread.put; split <;> rfl
@[simp] theorem Thread.setS_trapen (t : Thread) (n : SReg) (v : Word) : (t.setS n v).trapen = t.trapen := Thread.put_trapen t _ _ v
@[simp] theorem Thread.setK_trapen (t : Thread) (n : KReg) (v : MaskBits) : (t.setK n v).trapen = t.trapen := Thread.put_trapen t _ _ v
@[simp] theorem Thread.setV_trapen (t : Thread) (n : VReg) (v : VecBits) : (t.setV n v).trapen = t.trapen := by
  unfold Thread.setV; split
  · rfl
  · exact Thread.put_trapen t _ _ v
@[simp] theorem Thread.put_vwS (t : Thread) (r : RegRef) (w : Nat) (v : BitVec w) : (t.put r v).vwS = t.vwS := by
  unfold Thread.put; split <;> rfl
@[simp] theorem Thread.setS_vwS (t : Thread) (n : SReg) (v : Word) : (t.setS n v).vwS = t.vwS := Thread.put_vwS t _ _ v
@[simp] theorem Thread.setK_vwS (t : Thread) (n : KReg) (v : MaskBits) : (t.setK n v).vwS = t.vwS := Thread.put_vwS t _ _ v
@[simp] theorem Thread.setV_vwS (t : Thread) (n : VReg) (v : VecBits) : (t.setV n v).vwS = t.vwS := by
  unfold Thread.setV; split
  · rfl
  · exact Thread.put_vwS t _ _ v
@[simp] theorem Thread.put_vwK (t : Thread) (r : RegRef) (w : Nat) (v : BitVec w) : (t.put r v).vwK = t.vwK := by
  unfold Thread.put; split <;> rfl
@[simp] theorem Thread.setS_vwK (t : Thread) (n : SReg) (v : Word) : (t.setS n v).vwK = t.vwK := Thread.put_vwK t _ _ v
@[simp] theorem Thread.setK_vwK (t : Thread) (n : KReg) (v : MaskBits) : (t.setK n v).vwK = t.vwK := Thread.put_vwK t _ _ v
@[simp] theorem Thread.setV_vwK (t : Thread) (n : VReg) (v : VecBits) : (t.setV n v).vwK = t.vwK := by
  unfold Thread.setV; split
  · rfl
  · exact Thread.put_vwK t _ _ v
@[simp] theorem Thread.put_vwV (t : Thread) (r : RegRef) (w : Nat) (v : BitVec w) : (t.put r v).vwV = t.vwV := by
  unfold Thread.put; split <;> rfl
@[simp] theorem Thread.setS_vwV (t : Thread) (n : SReg) (v : Word) : (t.setS n v).vwV = t.vwV := Thread.put_vwV t _ _ v
@[simp] theorem Thread.setK_vwV (t : Thread) (n : KReg) (v : MaskBits) : (t.setK n v).vwV = t.vwV := Thread.put_vwV t _ _ v
@[simp] theorem Thread.setV_vwV (t : Thread) (n : VReg) (v : VecBits) : (t.setV n v).vwV = t.vwV := by
  unfold Thread.setV; split
  · rfl
  · exact Thread.put_vwV t _ _ v
@[simp] theorem Thread.put_pending (t : Thread) (r : RegRef) (w : Nat) (v : BitVec w) : (t.put r v).pending = t.pending := by
  unfold Thread.put; split <;> rfl
@[simp] theorem Thread.setS_pending (t : Thread) (n : SReg) (v : Word) : (t.setS n v).pending = t.pending := Thread.put_pending t _ _ v
@[simp] theorem Thread.setK_pending (t : Thread) (n : KReg) (v : MaskBits) : (t.setK n v).pending = t.pending := Thread.put_pending t _ _ v
@[simp] theorem Thread.setV_pending (t : Thread) (n : VReg) (v : VecBits) : (t.setV n v).pending = t.pending := by
  unfold Thread.setV; split
  · rfl
  · exact Thread.put_pending t _ _ v
@[simp] theorem Thread.put_resident (t : Thread) (r : RegRef) (w : Nat) (v : BitVec w) : (t.put r v).resident = t.resident := by
  unfold Thread.put; split <;> rfl
@[simp] theorem Thread.setS_resident (t : Thread) (n : SReg) (v : Word) : (t.setS n v).resident = t.resident := Thread.put_resident t _ _ v
@[simp] theorem Thread.setK_resident (t : Thread) (n : KReg) (v : MaskBits) : (t.setK n v).resident = t.resident := Thread.put_resident t _ _ v
@[simp] theorem Thread.setV_resident (t : Thread) (n : VReg) (v : VecBits) : (t.setV n v).resident = t.resident := by
  unfold Thread.setV; split
  · rfl
  · exact Thread.put_resident t _ _ v
@[simp] theorem Thread.put_saved (t : Thread) (r : RegRef) (w : Nat) (v : BitVec w) : (t.put r v).saved = t.saved := by
  unfold Thread.put; split <;> rfl
@[simp] theorem Thread.setS_saved (t : Thread) (n : SReg) (v : Word) : (t.setS n v).saved = t.saved := Thread.put_saved t _ _ v
@[simp] theorem Thread.setK_saved (t : Thread) (n : KReg) (v : MaskBits) : (t.setK n v).saved = t.saved := Thread.put_saved t _ _ v
@[simp] theorem Thread.setV_saved (t : Thread) (n : VReg) (v : VecBits) : (t.setV n v).saved = t.saved := by
  unfold Thread.setV; split
  · rfl
  · exact Thread.put_saved t _ _ v
@[simp] theorem Thread.put_deposits (t : Thread) (r : RegRef) (w : Nat) (v : BitVec w) : (t.put r v).deposits = t.deposits := by
  unfold Thread.put; split <;> rfl
@[simp] theorem Thread.setS_deposits (t : Thread) (n : SReg) (v : Word) : (t.setS n v).deposits = t.deposits := Thread.put_deposits t _ _ v
@[simp] theorem Thread.setK_deposits (t : Thread) (n : KReg) (v : MaskBits) : (t.setK n v).deposits = t.deposits := Thread.put_deposits t _ _ v
@[simp] theorem Thread.setV_deposits (t : Thread) (n : VReg) (v : VecBits) : (t.setV n v).deposits = t.deposits := by
  unfold Thread.setV; split
  · rfl
  · exact Thread.put_deposits t _ _ v
@[simp] theorem Thread.put_uniCount (t : Thread) (r : RegRef) (w : Nat) (v : BitVec w) : (t.put r v).uniCount = t.uniCount := by
  unfold Thread.put; split <;> rfl
@[simp] theorem Thread.setS_uniCount (t : Thread) (n : SReg) (v : Word) : (t.setS n v).uniCount = t.uniCount := Thread.put_uniCount t _ _ v
@[simp] theorem Thread.setK_uniCount (t : Thread) (n : KReg) (v : MaskBits) : (t.setK n v).uniCount = t.uniCount := Thread.put_uniCount t _ _ v
@[simp] theorem Thread.setV_uniCount (t : Thread) (n : VReg) (v : VecBits) : (t.setV n v).uniCount = t.uniCount := by
  unfold Thread.setV; split
  · rfl
  · exact Thread.put_uniCount t _ _ v
@[simp] theorem Thread.put_repLeft (t : Thread) (r : RegRef) (w : Nat) (v : BitVec w) : (t.put r v).repLeft = t.repLeft := by
  unfold Thread.put; split <;> rfl
@[simp] theorem Thread.setS_repLeft (t : Thread) (n : SReg) (v : Word) : (t.setS n v).repLeft = t.repLeft := Thread.put_repLeft t _ _ v
@[simp] theorem Thread.setK_repLeft (t : Thread) (n : KReg) (v : MaskBits) : (t.setK n v).repLeft = t.repLeft := Thread.put_repLeft t _ _ v
@[simp] theorem Thread.setV_repLeft (t : Thread) (n : VReg) (v : VecBits) : (t.setV n v).repLeft = t.repLeft := by
  unfold Thread.setV; split
  · rfl
  · exact Thread.put_repLeft t _ _ v
@[simp] theorem Thread.put_repIter (t : Thread) (r : RegRef) (w : Nat) (v : BitVec w) : (t.put r v).repIter = t.repIter := by
  unfold Thread.put; split <;> rfl
@[simp] theorem Thread.setS_repIter (t : Thread) (n : SReg) (v : Word) : (t.setS n v).repIter = t.repIter := Thread.put_repIter t _ _ v
@[simp] theorem Thread.setK_repIter (t : Thread) (n : KReg) (v : MaskBits) : (t.setK n v).repIter = t.repIter := Thread.put_repIter t _ _ v
@[simp] theorem Thread.setV_repIter (t : Thread) (n : VReg) (v : VecBits) : (t.setV n v).repIter = t.repIter := by
  unfold Thread.setV; split
  · rfl
  · exact Thread.put_repIter t _ _ v
@[simp] theorem Thread.put_flags (t : Thread) (r : RegRef) (w : Nat) (v : BitVec w) : (t.put r v).flags = t.flags := by
  unfold Thread.put; split <;> rfl
@[simp] theorem Thread.setS_flags (t : Thread) (n : SReg) (v : Word) : (t.setS n v).flags = t.flags := Thread.put_flags t _ _ v
@[simp] theorem Thread.setK_flags (t : Thread) (n : KReg) (v : MaskBits) : (t.setK n v).flags = t.flags := Thread.put_flags t _ _ v
@[simp] theorem Thread.setV_flags (t : Thread) (n : VReg) (v : VecBits) : (t.setV n v).flags = t.flags := by
  unfold Thread.setV; split
  · rfl
  · exact Thread.put_flags t _ _ v
@[simp] theorem Thread.put_seed (t : Thread) (r : RegRef) (w : Nat) (v : BitVec w) : (t.put r v).seed = t.seed := by
  unfold Thread.put; split <;> rfl
@[simp] theorem Thread.setS_seed (t : Thread) (n : SReg) (v : Word) : (t.setS n v).seed = t.seed := Thread.put_seed t _ _ v
@[simp] theorem Thread.setK_seed (t : Thread) (n : KReg) (v : MaskBits) : (t.setK n v).seed = t.seed := Thread.put_seed t _ _ v
@[simp] theorem Thread.setV_seed (t : Thread) (n : VReg) (v : VecBits) : (t.setV n v).seed = t.seed := by
  unfold Thread.setV; split
  · rfl
  · exact Thread.put_seed t _ _ v
@[simp] theorem Thread.put_breaks (t : Thread) (r : RegRef) (w : Nat) (v : BitVec w) : (t.put r v).breaks = t.breaks := by
  unfold Thread.put; split <;> rfl
@[simp] theorem Thread.setS_breaks (t : Thread) (n : SReg) (v : Word) : (t.setS n v).breaks = t.breaks := Thread.put_breaks t _ _ v
@[simp] theorem Thread.setK_breaks (t : Thread) (n : KReg) (v : MaskBits) : (t.setK n v).breaks = t.breaks := Thread.put_breaks t _ _ v
@[simp] theorem Thread.setV_breaks (t : Thread) (n : VReg) (v : VecBits) : (t.setV n v).breaks = t.breaks := by
  unfold Thread.setV; split
  · rfl
  · exact Thread.put_breaks t _ _ v
@[simp] theorem Thread.put_watches (t : Thread) (r : RegRef) (w : Nat) (v : BitVec w) : (t.put r v).watches = t.watches := by
  unfold Thread.put; split <;> rfl
@[simp] theorem Thread.setS_watches (t : Thread) (n : SReg) (v : Word) : (t.setS n v).watches = t.watches := Thread.put_watches t _ _ v
@[simp] theorem Thread.setK_watches (t : Thread) (n : KReg) (v : MaskBits) : (t.setK n v).watches = t.watches := Thread.put_watches t _ _ v
@[simp] theorem Thread.setV_watches (t : Thread) (n : VReg) (v : VecBits) : (t.setV n v).watches = t.watches := by
  unfold Thread.setV; split
  · rfl
  · exact Thread.put_watches t _ _ v
@[simp] theorem Thread.put_trapRec (t : Thread) (r : RegRef) (w : Nat) (v : BitVec w) : (t.put r v).trapRec = t.trapRec := by
  unfold Thread.put; split <;> rfl
@[simp] theorem Thread.setS_trapRec (t : Thread) (n : SReg) (v : Word) : (t.setS n v).trapRec = t.trapRec := Thread.put_trapRec t _ _ v
@[simp] theorem Thread.setK_trapRec (t : Thread) (n : KReg) (v : MaskBits) : (t.setK n v).trapRec = t.trapRec := Thread.put_trapRec t _ _ v
@[simp] theorem Thread.setV_trapRec (t : Thread) (n : VReg) (v : VecBits) : (t.setV n v).trapRec = t.trapRec := by
  unfold Thread.setV; split
  · rfl
  · exact Thread.put_trapRec t _ _ v
@[simp] theorem Thread.put_tvec (t : Thread) (r : RegRef) (w : Nat) (v : BitVec w) : (t.put r v).tvec = t.tvec := by
  unfold Thread.put; split <;> rfl
@[simp] theorem Thread.setS_tvec (t : Thread) (n : SReg) (v : Word) : (t.setS n v).tvec = t.tvec := Thread.put_tvec t _ _ v
@[simp] theorem Thread.setK_tvec (t : Thread) (n : KReg) (v : MaskBits) : (t.setK n v).tvec = t.tvec := Thread.put_tvec t _ _ v
@[simp] theorem Thread.setV_tvec (t : Thread) (n : VReg) (v : VecBits) : (t.setV n v).tvec = t.tvec := by
  unfold Thread.setV; split
  · rfl
  · exact Thread.put_tvec t _ _ v
@[simp] theorem Thread.put_lq (t : Thread) (r : RegRef) (w : Nat) (v : BitVec w) : (t.put r v).lq = t.lq := by
  unfold Thread.put; split <;> rfl
@[simp] theorem Thread.setS_lq (t : Thread) (n : SReg) (v : Word) : (t.setS n v).lq = t.lq := Thread.put_lq t _ _ v
@[simp] theorem Thread.setK_lq (t : Thread) (n : KReg) (v : MaskBits) : (t.setK n v).lq = t.lq := Thread.put_lq t _ _ v
@[simp] theorem Thread.setV_lq (t : Thread) (n : VReg) (v : VecBits) : (t.setV n v).lq = t.lq := by
  unfold Thread.setV; split
  · rfl
  · exact Thread.put_lq t _ _ v
@[simp] theorem Thread.put_lqFly (t : Thread) (r : RegRef) (w : Nat) (v : BitVec w) : (t.put r v).lqFly = t.lqFly := by
  unfold Thread.put; split <;> rfl
@[simp] theorem Thread.setS_lqFly (t : Thread) (n : SReg) (v : Word) : (t.setS n v).lqFly = t.lqFly := Thread.put_lqFly t _ _ v
@[simp] theorem Thread.setK_lqFly (t : Thread) (n : KReg) (v : MaskBits) : (t.setK n v).lqFly = t.lqFly := Thread.put_lqFly t _ _ v
@[simp] theorem Thread.setV_lqFly (t : Thread) (n : VReg) (v : VecBits) : (t.setV n v).lqFly = t.lqFly := by
  unfold Thread.setV; split
  · rfl
  · exact Thread.put_lqFly t _ _ v
@[simp] theorem Thread.put_lqHead (t : Thread) (r : RegRef) (w : Nat) (v : BitVec w) : (t.put r v).lqHead = t.lqHead := by
  unfold Thread.put; split <;> rfl
@[simp] theorem Thread.setS_lqHead (t : Thread) (n : SReg) (v : Word) : (t.setS n v).lqHead = t.lqHead := Thread.put_lqHead t _ _ v
@[simp] theorem Thread.setK_lqHead (t : Thread) (n : KReg) (v : MaskBits) : (t.setK n v).lqHead = t.lqHead := Thread.put_lqHead t _ _ v
@[simp] theorem Thread.setV_lqHead (t : Thread) (n : VReg) (v : VecBits) : (t.setV n v).lqHead = t.lqHead := by
  unfold Thread.setV; split
  · rfl
  · exact Thread.put_lqHead t _ _ v
@[simp] theorem Thread.put_sq (t : Thread) (r : RegRef) (w : Nat) (v : BitVec w) : (t.put r v).sq = t.sq := by
  unfold Thread.put; split <;> rfl
@[simp] theorem Thread.setS_sq (t : Thread) (n : SReg) (v : Word) : (t.setS n v).sq = t.sq := Thread.put_sq t _ _ v
@[simp] theorem Thread.setK_sq (t : Thread) (n : KReg) (v : MaskBits) : (t.setK n v).sq = t.sq := Thread.put_sq t _ _ v
@[simp] theorem Thread.put_sqHead (t : Thread) (r : RegRef) (w : Nat) (v : BitVec w) : (t.put r v).sqHead = t.sqHead := by
  unfold Thread.put; split <;> rfl
@[simp] theorem Thread.setS_sqHead (t : Thread) (n : SReg) (v : Word) : (t.setS n v).sqHead = t.sqHead := Thread.put_sqHead t _ _ v
@[simp] theorem Thread.setK_sqHead (t : Thread) (n : KReg) (v : MaskBits) : (t.setK n v).sqHead = t.sqHead := Thread.put_sqHead t _ _ v
@[simp] theorem Thread.setV_sqHead (t : Thread) (n : VReg) (v : VecBits) : (t.setV n v).sqHead = t.sqHead := by
  unfold Thread.setV; split
  · rfl
  · exact Thread.put_sqHead t _ _ v
@[simp] theorem Thread.put_mx0 (t : Thread) (r : RegRef) (w : Nat) (v : BitVec w) : (t.put r v).mx0 = t.mx0 := by
  unfold Thread.put; split <;> rfl
@[simp] theorem Thread.setS_mx0 (t : Thread) (n : SReg) (v : Word) : (t.setS n v).mx0 = t.mx0 := Thread.put_mx0 t _ _ v
@[simp] theorem Thread.setK_mx0 (t : Thread) (n : KReg) (v : MaskBits) : (t.setK n v).mx0 = t.mx0 := Thread.put_mx0 t _ _ v
@[simp] theorem Thread.setV_mx0 (t : Thread) (n : VReg) (v : VecBits) : (t.setV n v).mx0 = t.mx0 := by
  unfold Thread.setV; split
  · rfl
  · exact Thread.put_mx0 t _ _ v
@[simp] theorem Thread.put_mx1 (t : Thread) (r : RegRef) (w : Nat) (v : BitVec w) : (t.put r v).mx1 = t.mx1 := by
  unfold Thread.put; split <;> rfl
@[simp] theorem Thread.setS_mx1 (t : Thread) (n : SReg) (v : Word) : (t.setS n v).mx1 = t.mx1 := Thread.put_mx1 t _ _ v
@[simp] theorem Thread.setK_mx1 (t : Thread) (n : KReg) (v : MaskBits) : (t.setK n v).mx1 = t.mx1 := Thread.put_mx1 t _ _ v
@[simp] theorem Thread.setV_mx1 (t : Thread) (n : VReg) (v : VecBits) : (t.setV n v).mx1 = t.mx1 := by
  unfold Thread.setV; split
  · rfl
  · exact Thread.put_mx1 t _ _ v
@[simp] theorem Thread.put_mxHead (t : Thread) (r : RegRef) (w : Nat) (v : BitVec w) : (t.put r v).mxHead = t.mxHead := by
  unfold Thread.put; split <;> rfl
@[simp] theorem Thread.setS_mxHead (t : Thread) (n : SReg) (v : Word) : (t.setS n v).mxHead = t.mxHead := Thread.put_mxHead t _ _ v
@[simp] theorem Thread.setK_mxHead (t : Thread) (n : KReg) (v : MaskBits) : (t.setK n v).mxHead = t.mxHead := Thread.put_mxHead t _ _ v
@[simp] theorem Thread.setV_mxHead (t : Thread) (n : VReg) (v : VecBits) : (t.setV n v).mxHead = t.mxHead := by
  unfold Thread.setV; split
  · rfl
  · exact Thread.put_mxHead t _ _ v
@[simp] theorem Thread.put_mxf (t : Thread) (r : RegRef) (w : Nat) (v : BitVec w) : (t.put r v).mxf = t.mxf := by
  unfold Thread.put; split <;> rfl
@[simp] theorem Thread.setS_mxf (t : Thread) (n : SReg) (v : Word) : (t.setS n v).mxf = t.mxf := Thread.put_mxf t _ _ v
@[simp] theorem Thread.setK_mxf (t : Thread) (n : KReg) (v : MaskBits) : (t.setK n v).mxf = t.mxf := Thread.put_mxf t _ _ v
@[simp] theorem Thread.setV_mxf (t : Thread) (n : VReg) (v : VecBits) : (t.setV n v).mxf = t.mxf := by
  unfold Thread.setV; split
  · rfl
  · exact Thread.put_mxf t _ _ v
@[simp] theorem Thread.put_geomM (t : Thread) (r : RegRef) (w : Nat) (v : BitVec w) : (t.put r v).geomM = t.geomM := by
  unfold Thread.put; split <;> rfl
@[simp] theorem Thread.setS_geomM (t : Thread) (n : SReg) (v : Word) : (t.setS n v).geomM = t.geomM := Thread.put_geomM t _ _ v
@[simp] theorem Thread.setK_geomM (t : Thread) (n : KReg) (v : MaskBits) : (t.setK n v).geomM = t.geomM := Thread.put_geomM t _ _ v
@[simp] theorem Thread.setV_geomM (t : Thread) (n : VReg) (v : VecBits) : (t.setV n v).geomM = t.geomM := by
  unfold Thread.setV; split
  · rfl
  · exact Thread.put_geomM t _ _ v
@[simp] theorem Thread.put_geomN (t : Thread) (r : RegRef) (w : Nat) (v : BitVec w) : (t.put r v).geomN = t.geomN := by
  unfold Thread.put; split <;> rfl
@[simp] theorem Thread.setS_geomN (t : Thread) (n : SReg) (v : Word) : (t.setS n v).geomN = t.geomN := Thread.put_geomN t _ _ v
@[simp] theorem Thread.setK_geomN (t : Thread) (n : KReg) (v : MaskBits) : (t.setK n v).geomN = t.geomN := Thread.put_geomN t _ _ v
@[simp] theorem Thread.setV_geomN (t : Thread) (n : VReg) (v : VecBits) : (t.setV n v).geomN = t.geomN := by
  unfold Thread.setV; split
  · rfl
  · exact Thread.put_geomN t _ _ v
@[simp] theorem Thread.put_geomK (t : Thread) (r : RegRef) (w : Nat) (v : BitVec w) : (t.put r v).geomK = t.geomK := by
  unfold Thread.put; split <;> rfl
@[simp] theorem Thread.setS_geomK (t : Thread) (n : SReg) (v : Word) : (t.setS n v).geomK = t.geomK := Thread.put_geomK t _ _ v
@[simp] theorem Thread.setK_geomK (t : Thread) (n : KReg) (v : MaskBits) : (t.setK n v).geomK = t.geomK := Thread.put_geomK t _ _ v
@[simp] theorem Thread.setV_geomK (t : Thread) (n : VReg) (v : VecBits) : (t.setV n v).geomK = t.geomK := by
  unfold Thread.setV; split
  · rfl
  · exact Thread.put_geomK t _ _ v
@[simp] theorem Thread.put_ce0 (t : Thread) (r : RegRef) (w : Nat) (v : BitVec w) : (t.put r v).ce0 = t.ce0 := by
  unfold Thread.put; split <;> rfl
@[simp] theorem Thread.setS_ce0 (t : Thread) (n : SReg) (v : Word) : (t.setS n v).ce0 = t.ce0 := Thread.put_ce0 t _ _ v
@[simp] theorem Thread.setK_ce0 (t : Thread) (n : KReg) (v : MaskBits) : (t.setK n v).ce0 = t.ce0 := Thread.put_ce0 t _ _ v
@[simp] theorem Thread.setV_ce0 (t : Thread) (n : VReg) (v : VecBits) : (t.setV n v).ce0 = t.ce0 := by
  unfold Thread.setV; split
  · rfl
  · exact Thread.put_ce0 t _ _ v
@[simp] theorem Thread.put_ce1 (t : Thread) (r : RegRef) (w : Nat) (v : BitVec w) : (t.put r v).ce1 = t.ce1 := by
  unfold Thread.put; split <;> rfl
@[simp] theorem Thread.setS_ce1 (t : Thread) (n : SReg) (v : Word) : (t.setS n v).ce1 = t.ce1 := Thread.put_ce1 t _ _ v
@[simp] theorem Thread.setK_ce1 (t : Thread) (n : KReg) (v : MaskBits) : (t.setK n v).ce1 = t.ce1 := Thread.put_ce1 t _ _ v
@[simp] theorem Thread.setV_ce1 (t : Thread) (n : VReg) (v : VecBits) : (t.setV n v).ce1 = t.ce1 := by
  unfold Thread.setV; split
  · rfl
  · exact Thread.put_ce1 t _ _ v
@[simp] theorem Thread.put_walk (t : Thread) (r : RegRef) (w : Nat) (v : BitVec w) : (t.put r v).walk = t.walk := by
  unfold Thread.put; split <;> rfl
@[simp] theorem Thread.setS_walk (t : Thread) (n : SReg) (v : Word) : (t.setS n v).walk = t.walk := Thread.put_walk t _ _ v
@[simp] theorem Thread.setK_walk (t : Thread) (n : KReg) (v : MaskBits) : (t.setK n v).walk = t.walk := Thread.put_walk t _ _ v
@[simp] theorem Thread.setV_walk (t : Thread) (n : VReg) (v : VecBits) : (t.setV n v).walk = t.walk := by
  unfold Thread.setV; split
  · rfl
  · exact Thread.put_walk t _ _ v
@[simp] theorem Thread.put_asidx (t : Thread) (r : RegRef) (w : Nat) (v : BitVec w) : (t.put r v).asidx = t.asidx := by
  unfold Thread.put; split <;> rfl
@[simp] theorem Thread.setS_asidx (t : Thread) (n : SReg) (v : Word) : (t.setS n v).asidx = t.asidx := Thread.put_asidx t _ _ v
@[simp] theorem Thread.setK_asidx (t : Thread) (n : KReg) (v : MaskBits) : (t.setK n v).asidx = t.asidx := Thread.put_asidx t _ _ v
@[simp] theorem Thread.setV_asidx (t : Thread) (n : VReg) (v : VecBits) : (t.setV n v).asidx = t.asidx := by
  unfold Thread.setV; split
  · rfl
  · exact Thread.put_asidx t _ _ v
@[simp] theorem Thread.put_mboxSeen (t : Thread) (r : RegRef) (w : Nat) (v : BitVec w) : (t.put r v).mboxSeen = t.mboxSeen := by
  unfold Thread.put; split <;> rfl
@[simp] theorem Thread.setS_mboxSeen (t : Thread) (n : SReg) (v : Word) : (t.setS n v).mboxSeen = t.mboxSeen := Thread.put_mboxSeen t _ _ v
@[simp] theorem Thread.setK_mboxSeen (t : Thread) (n : KReg) (v : MaskBits) : (t.setK n v).mboxSeen = t.mboxSeen := Thread.put_mboxSeen t _ _ v
@[simp] theorem Thread.setV_mboxSeen (t : Thread) (n : VReg) (v : VecBits) : (t.setV n v).mboxSeen = t.mboxSeen := by
  unfold Thread.setV; split
  · rfl
  · exact Thread.put_mboxSeen t _ _ v
@[simp] theorem Thread.put_deadline (t : Thread) (r : RegRef) (w : Nat) (v : BitVec w) : (t.put r v).deadline = t.deadline := by
  unfold Thread.put; split <;> rfl
@[simp] theorem Thread.setS_deadline (t : Thread) (n : SReg) (v : Word) : (t.setS n v).deadline = t.deadline := Thread.put_deadline t _ _ v
@[simp] theorem Thread.setK_deadline (t : Thread) (n : KReg) (v : MaskBits) : (t.setK n v).deadline = t.deadline := Thread.put_deadline t _ _ v
@[simp] theorem Thread.setV_deadline (t : Thread) (n : VReg) (v : VecBits) : (t.setV n v).deadline = t.deadline := by
  unfold Thread.setV; split
  · rfl
  · exact Thread.put_deadline t _ _ v
@[simp] theorem Thread.put_wideStat (t : Thread) (r : RegRef) (w : Nat) (v : BitVec w) : (t.put r v).wideStat = t.wideStat := by
  unfold Thread.put; split <;> rfl
@[simp] theorem Thread.setS_wideStat (t : Thread) (n : SReg) (v : Word) : (t.setS n v).wideStat = t.wideStat := Thread.put_wideStat t _ _ v
@[simp] theorem Thread.setK_wideStat (t : Thread) (n : KReg) (v : MaskBits) : (t.setK n v).wideStat = t.wideStat := Thread.put_wideStat t _ _ v
@[simp] theorem Thread.setV_wideStat (t : Thread) (n : VReg) (v : VecBits) : (t.setV n v).wideStat = t.wideStat := by
  unfold Thread.setV; split
  · rfl
  · exact Thread.put_wideStat t _ _ v
@[simp] theorem Thread.put_nextPhase (t : Thread) (r : RegRef) (w : Nat) (v : BitVec w) : (t.put r v).nextPhase = t.nextPhase := by
  unfold Thread.put; split <;> rfl
@[simp] theorem Thread.setS_nextPhase (t : Thread) (n : SReg) (v : Word) : (t.setS n v).nextPhase = t.nextPhase := Thread.put_nextPhase t _ _ v
@[simp] theorem Thread.setK_nextPhase (t : Thread) (n : KReg) (v : MaskBits) : (t.setK n v).nextPhase = t.nextPhase := Thread.put_nextPhase t _ _ v
@[simp] theorem Thread.setV_nextPhase (t : Thread) (n : VReg) (v : VecBits) : (t.setV n v).nextPhase = t.nextPhase := by
  unfold Thread.setV; split
  · rfl
  · exact Thread.put_nextPhase t _ _ v
@[simp] theorem Thread.put_resumed (t : Thread) (r : RegRef) (w : Nat) (v : BitVec w) : (t.put r v).resumed = t.resumed := by
  unfold Thread.put; split <;> rfl
@[simp] theorem Thread.setS_resumed (t : Thread) (n : SReg) (v : Word) : (t.setS n v).resumed = t.resumed := Thread.put_resumed t _ _ v
@[simp] theorem Thread.setK_resumed (t : Thread) (n : KReg) (v : MaskBits) : (t.setK n v).resumed = t.resumed := Thread.put_resumed t _ _ v
@[simp] theorem Thread.setV_resumed (t : Thread) (n : VReg) (v : VecBits) : (t.setV n v).resumed = t.resumed := by
  unfold Thread.setV; split
  · rfl
  · exact Thread.put_resumed t _ _ v
@[simp] theorem Thread.put_passed (t : Thread) (r : RegRef) (w : Nat) (v : BitVec w) : (t.put r v).passed = t.passed := by
  unfold Thread.put; split <;> rfl
@[simp] theorem Thread.setS_passed (t : Thread) (n : SReg) (v : Word) : (t.setS n v).passed = t.passed := Thread.put_passed t _ _ v
@[simp] theorem Thread.setK_passed (t : Thread) (n : KReg) (v : MaskBits) : (t.setK n v).passed = t.passed := Thread.put_passed t _ _ v
@[simp] theorem Thread.setV_passed (t : Thread) (n : VReg) (v : VecBits) : (t.setV n v).passed = t.passed := by
  unfold Thread.setV; split
  · rfl
  · exact Thread.put_passed t _ _ v
@[simp] theorem Thread.put_fencing (t : Thread) (r : RegRef) (w : Nat) (v : BitVec w) : (t.put r v).fencing = t.fencing := by
  unfold Thread.put; split <;> rfl
@[simp] theorem Thread.setS_fencing (t : Thread) (n : SReg) (v : Word) : (t.setS n v).fencing = t.fencing := Thread.put_fencing t _ _ v
@[simp] theorem Thread.setK_fencing (t : Thread) (n : KReg) (v : MaskBits) : (t.setK n v).fencing = t.fencing := Thread.put_fencing t _ _ v
@[simp] theorem Thread.setV_fencing (t : Thread) (n : VReg) (v : VecBits) : (t.setV n v).fencing = t.fencing := by
  unfold Thread.setV; split
  · rfl
  · exact Thread.put_fencing t _ _ v
@[simp] theorem Thread.put_blockPC (t : Thread) (r : RegRef) (w : Nat) (v : BitVec w) : (t.put r v).blockPC = t.blockPC := by
  unfold Thread.put; split <;> rfl
@[simp] theorem Thread.setS_blockPC (t : Thread) (n : SReg) (v : Word) : (t.setS n v).blockPC = t.blockPC := Thread.put_blockPC t _ _ v
@[simp] theorem Thread.setK_blockPC (t : Thread) (n : KReg) (v : MaskBits) : (t.setK n v).blockPC = t.blockPC := Thread.put_blockPC t _ _ v
@[simp] theorem Thread.setV_blockPC (t : Thread) (n : VReg) (v : VecBits) : (t.setV n v).blockPC = t.blockPC := by
  unfold Thread.setV; split
  · rfl
  · exact Thread.put_blockPC t _ _ v
@[simp] theorem Thread.put_blockWord (t : Thread) (r : RegRef) (w : Nat) (v : BitVec w) : (t.put r v).blockWord = t.blockWord := by
  unfold Thread.put; split <;> rfl
@[simp] theorem Thread.setS_blockWord (t : Thread) (n : SReg) (v : Word) : (t.setS n v).blockWord = t.blockWord := Thread.put_blockWord t _ _ v
@[simp] theorem Thread.setK_blockWord (t : Thread) (n : KReg) (v : MaskBits) : (t.setK n v).blockWord = t.blockWord := Thread.put_blockWord t _ _ v
@[simp] theorem Thread.setV_blockWord (t : Thread) (n : VReg) (v : VecBits) : (t.setV n v).blockWord = t.blockWord := by
  unfold Thread.setV; split
  · rfl
  · exact Thread.put_blockWord t _ _ v
@[simp] theorem Thread.put_slot (t : Thread) (r : RegRef) (w : Nat) (v : BitVec w) : (t.put r v).slot = t.slot := by
  unfold Thread.put; split <;> rfl
@[simp] theorem Thread.setS_slot (t : Thread) (n : SReg) (v : Word) : (t.setS n v).slot = t.slot := Thread.put_slot t _ _ v
@[simp] theorem Thread.setK_slot (t : Thread) (n : KReg) (v : MaskBits) : (t.setK n v).slot = t.slot := Thread.put_slot t _ _ v
@[simp] theorem Thread.setV_slot (t : Thread) (n : VReg) (v : VecBits) : (t.setV n v).slot = t.slot := by
  unfold Thread.setV; split
  · rfl
  · exact Thread.put_slot t _ _ v
@[simp] theorem Thread.put_seatedAt (t : Thread) (r : RegRef) (w : Nat) (v : BitVec w) : (t.put r v).seatedAt = t.seatedAt := by
  unfold Thread.put; split <;> rfl
@[simp] theorem Thread.setS_seatedAt (t : Thread) (n : SReg) (v : Word) : (t.setS n v).seatedAt = t.seatedAt := Thread.put_seatedAt t _ _ v
@[simp] theorem Thread.setK_seatedAt (t : Thread) (n : KReg) (v : MaskBits) : (t.setK n v).seatedAt = t.seatedAt := Thread.put_seatedAt t _ _ v
@[simp] theorem Thread.setV_seatedAt (t : Thread) (n : VReg) (v : VecBits) : (t.setV n v).seatedAt = t.seatedAt := by
  unfold Thread.setV; split
  · rfl
  · exact Thread.put_seatedAt t _ _ v
@[simp] theorem Thread.put_since (t : Thread) (r : RegRef) (w : Nat) (v : BitVec w) : (t.put r v).since = t.since := by
  unfold Thread.put; split <;> rfl
@[simp] theorem Thread.setS_since (t : Thread) (n : SReg) (v : Word) : (t.setS n v).since = t.since := Thread.put_since t _ _ v
@[simp] theorem Thread.setK_since (t : Thread) (n : KReg) (v : MaskBits) : (t.setK n v).since = t.since := Thread.put_since t _ _ v
@[simp] theorem Thread.setV_since (t : Thread) (n : VReg) (v : VecBits) : (t.setV n v).since = t.since := by
  unfold Thread.setV; split
  · rfl
  · exact Thread.put_since t _ _ v
@[simp] theorem Thread.put_readyAt (t : Thread) (r : RegRef) (w : Nat) (v : BitVec w) : (t.put r v).readyAt = t.readyAt := by
  unfold Thread.put; split <;> rfl
@[simp] theorem Thread.setS_readyAt (t : Thread) (n : SReg) (v : Word) : (t.setS n v).readyAt = t.readyAt := Thread.put_readyAt t _ _ v
@[simp] theorem Thread.setK_readyAt (t : Thread) (n : KReg) (v : MaskBits) : (t.setK n v).readyAt = t.readyAt := Thread.put_readyAt t _ _ v
@[simp] theorem Thread.setV_readyAt (t : Thread) (n : VReg) (v : VecBits) : (t.setV n v).readyAt = t.readyAt := by
  unfold Thread.setV; split
  · rfl
  · exact Thread.put_readyAt t _ _ v
@[simp] theorem Thread.put_lastA (t : Thread) (r : RegRef) (w : Nat) (v : BitVec w) : (t.put r v).lastA = t.lastA := by
  unfold Thread.put; split <;> rfl
@[simp] theorem Thread.setS_lastA (t : Thread) (n : SReg) (v : Word) : (t.setS n v).lastA = t.lastA := Thread.put_lastA t _ _ v
@[simp] theorem Thread.setK_lastA (t : Thread) (n : KReg) (v : MaskBits) : (t.setK n v).lastA = t.lastA := Thread.put_lastA t _ _ v
@[simp] theorem Thread.setV_lastA (t : Thread) (n : VReg) (v : VecBits) : (t.setV n v).lastA = t.lastA := by
  unfold Thread.setV; split
  · rfl
  · exact Thread.put_lastA t _ _ v
@[simp] theorem Thread.put_lastE (t : Thread) (r : RegRef) (w : Nat) (v : BitVec w) : (t.put r v).lastE = t.lastE := by
  unfold Thread.put; split <;> rfl
@[simp] theorem Thread.setS_lastE (t : Thread) (n : SReg) (v : Word) : (t.setS n v).lastE = t.lastE := Thread.put_lastE t _ _ v
@[simp] theorem Thread.setK_lastE (t : Thread) (n : KReg) (v : MaskBits) : (t.setK n v).lastE = t.lastE := Thread.put_lastE t _ _ v
@[simp] theorem Thread.setV_lastE (t : Thread) (n : VReg) (v : VecBits) : (t.setV n v).lastE = t.lastE := by
  unfold Thread.setV; split
  · rfl
  · exact Thread.put_lastE t _ _ v
@[simp] theorem Thread.put_gone (t : Thread) (r : RegRef) (w : Nat) (v : BitVec w) : (t.put r v).gone = t.gone := by
  unfold Thread.put; split <;> rfl
@[simp] theorem Thread.setS_gone (t : Thread) (n : SReg) (v : Word) : (t.setS n v).gone = t.gone := Thread.put_gone t _ _ v
@[simp] theorem Thread.setK_gone (t : Thread) (n : KReg) (v : MaskBits) : (t.setK n v).gone = t.gone := Thread.put_gone t _ _ v
@[simp] theorem Thread.setV_gone (t : Thread) (n : VReg) (v : VecBits) : (t.setV n v).gone = t.gone := by
  unfold Thread.setV; split
  · rfl
  · exact Thread.put_gone t _ _ v
@[simp] theorem Thread.put_wroteHost (t : Thread) (r : RegRef) (w : Nat) (v : BitVec w) : (t.put r v).wroteHost = t.wroteHost := by
  unfold Thread.put; split <;> rfl
@[simp] theorem Thread.setS_wroteHost (t : Thread) (n : SReg) (v : Word) : (t.setS n v).wroteHost = t.wroteHost := Thread.put_wroteHost t _ _ v
@[simp] theorem Thread.setK_wroteHost (t : Thread) (n : KReg) (v : MaskBits) : (t.setK n v).wroteHost = t.wroteHost := Thread.put_wroteHost t _ _ v
@[simp] theorem Thread.setV_wroteHost (t : Thread) (n : VReg) (v : VecBits) : (t.setV n v).wroteHost = t.wroteHost := by
  unfold Thread.setV; split
  · rfl
  · exact Thread.put_wroteHost t _ _ v
@[simp] theorem Thread.put_damaged (t : Thread) (r : RegRef) (w : Nat) (v : BitVec w) : (t.put r v).damaged = t.damaged := by
  unfold Thread.put; split <;> rfl
@[simp] theorem Thread.setS_damaged (t : Thread) (n : SReg) (v : Word) : (t.setS n v).damaged = t.damaged := Thread.put_damaged t _ _ v
@[simp] theorem Thread.setK_damaged (t : Thread) (n : KReg) (v : MaskBits) : (t.setK n v).damaged = t.damaged := Thread.put_damaged t _ _ v
@[simp] theorem Thread.setV_damaged (t : Thread) (n : VReg) (v : VecBits) : (t.setV n v).damaged = t.damaged := by
  unfold Thread.setV; split
  · rfl
  · exact Thread.put_damaged t _ _ v
@[simp] theorem Thread.put_badRegs (t : Thread) (r : RegRef) (w : Nat) (v : BitVec w) : (t.put r v).badRegs = t.badRegs := by
  unfold Thread.put; split <;> rfl
@[simp] theorem Thread.setS_badRegs (t : Thread) (n : SReg) (v : Word) : (t.setS n v).badRegs = t.badRegs := Thread.put_badRegs t _ _ v
@[simp] theorem Thread.setK_badRegs (t : Thread) (n : KReg) (v : MaskBits) : (t.setK n v).badRegs = t.badRegs := Thread.put_badRegs t _ _ v
@[simp] theorem Thread.setV_badRegs (t : Thread) (n : VReg) (v : VecBits) : (t.setV n v).badRegs = t.badRegs := by
  unfold Thread.setV; split
  · rfl
  · exact Thread.put_badRegs t _ _ v
@[simp] theorem Thread.put_badQueue (t : Thread) (r : RegRef) (w : Nat) (v : BitVec w) : (t.put r v).badQueue = t.badQueue := by
  unfold Thread.put; split <;> rfl
@[simp] theorem Thread.setS_badQueue (t : Thread) (n : SReg) (v : Word) : (t.setS n v).badQueue = t.badQueue := Thread.put_badQueue t _ _ v
@[simp] theorem Thread.setK_badQueue (t : Thread) (n : KReg) (v : MaskBits) : (t.setK n v).badQueue = t.badQueue := Thread.put_badQueue t _ _ v
@[simp] theorem Thread.setV_badQueue (t : Thread) (n : VReg) (v : VecBits) : (t.setV n v).badQueue = t.badQueue := by
  unfold Thread.setV; split
  · rfl
  · exact Thread.put_badQueue t _ _ v
@[simp] theorem Thread.put_lately (t : Thread) (r : RegRef) (w : Nat) (v : BitVec w) : (t.put r v).lately = t.lately := by
  unfold Thread.put; split <;> rfl
@[simp] theorem Thread.setS_lately (t : Thread) (n : SReg) (v : Word) : (t.setS n v).lately = t.lately := Thread.put_lately t _ _ v
@[simp] theorem Thread.setK_lately (t : Thread) (n : KReg) (v : MaskBits) : (t.setK n v).lately = t.lately := Thread.put_lately t _ _ v
@[simp] theorem Thread.setV_lately (t : Thread) (n : VReg) (v : VecBits) : (t.setV n v).lately = t.lately := by
  unfold Thread.setV; split
  · rfl
  · exact Thread.put_lately t _ _ v
@[simp] theorem Thread.put_zeroed (t : Thread) (r : RegRef) (w : Nat) (v : BitVec w) : (t.put r v).zeroed = t.zeroed := by
  unfold Thread.put; split <;> rfl
@[simp] theorem Thread.setS_zeroed (t : Thread) (n : SReg) (v : Word) : (t.setS n v).zeroed = t.zeroed := Thread.put_zeroed t _ _ v
@[simp] theorem Thread.setK_zeroed (t : Thread) (n : KReg) (v : MaskBits) : (t.setK n v).zeroed = t.zeroed := Thread.put_zeroed t _ _ v
@[simp] theorem Thread.setV_zeroed (t : Thread) (n : VReg) (v : VecBits) : (t.setV n v).zeroed = t.zeroed := by
  unfold Thread.setV; split
  · rfl
  · exact Thread.put_zeroed t _ _ v
@[simp] theorem Thread.put_notBefore (t : Thread) (r : RegRef) (w : Nat) (v : BitVec w) : (t.put r v).notBefore = t.notBefore := by
  unfold Thread.put; split <;> rfl
@[simp] theorem Thread.setS_notBefore (t : Thread) (n : SReg) (v : Word) : (t.setS n v).notBefore = t.notBefore := Thread.put_notBefore t _ _ v
@[simp] theorem Thread.setK_notBefore (t : Thread) (n : KReg) (v : MaskBits) : (t.setK n v).notBefore = t.notBefore := Thread.put_notBefore t _ _ v
@[simp] theorem Thread.setV_notBefore (t : Thread) (n : VReg) (v : VecBits) : (t.setV n v).notBefore = t.notBefore := by
  unfold Thread.setV; split
  · rfl
  · exact Thread.put_notBefore t _ _ v

/-! ## Writes of threads, and reads of what was written -/

/-- A thread just written is read back. -/
theorem State.thread?_setThread (s : State) (t u : Thread) (h : s.thread? t.id = some u) :
    (s.setThread t).thread? t.id = some t := by
  unfold State.thread? State.setThread at *
  simp only
  generalize s.threads = ts at h ⊢
  induction ts with
  | nil => simp at h
  | cons v vs ih =>
    by_cases hv : v.id = t.id
    · simp [hv]
    · have hv' : (v.id == t.id) = false := by simpa using hv
      simp only [List.find?_cons, hv'] at h
      simpa [hv, hv'] using ih h

/-- Writing one thread leaves every other as it was. -/
theorem State.thread?_setThread_other (s : State) (t : Thread) (id : ThreadId) (h : id ≠ t.id) :
    (s.setThread t).thread? id = s.thread? id := by
  unfold State.thread? State.setThread
  simp only
  generalize s.threads = ts
  induction ts with
  | nil => rfl
  | cons v vs ih =>
    by_cases hv : v.id = t.id
    · have h1 : (t.id == id) = false := by simpa using Ne.symm h
      have h2 : (v.id == id) = false := by rw [hv]; exact h1
      rw [List.map_cons, if_pos hv, List.find?_cons, List.find?_cons, h1, h2]
      exact ih
    · by_cases hi : v.id = id
      · have h4 : (v.id == id) = true := by simpa using hi
        rw [List.map_cons, if_neg hv, List.find?_cons, List.find?_cons, h4]
      · have h3 : (v.id == id) = false := by simpa using hi
        simp only [List.map_cons, hv, if_false, List.find?_cons, h3]
        exact ih

end Sys2Proof.Machine
end

