-- ==== Sys2Proof/Laws/Issue.lean ====
section
/-! SUPPORT. What issuing one instruction can do, said once: with `MayRun`, the gate is open, and the outcome is the body's,
settled; a body that completes leaves the thread it gives, closed. -/

namespace Sys2Proof.Machine

/-! ## The gate -/

theorem gate_go {s : State} {t : Thread} {i : Instr} (h : MayRun s t i) : s.gate t i = .go s t := by
  have hv : i.reads.find? (fun r => !t.isValid r) = none := by
    rw [List.find?_eq_none]
    intro r hr
    have := List.all_eq_true.1 h.valid r hr
    simp [this]
  unfold State.gate
  rw [h.mode, h.access, if_neg (by simp), if_pos h.held]
  simp only [h.free, hv, h.queues, State.sramGate, h.sound.1, h.sound.2, Bool.false_eq_true, if_false, Option.getD_none]

theorem thread?_id {s : State} {t : Thread} {id : ThreadId} (h : s.thread? id = some t) : t.id = id := by
  have := List.find?_some h
  simpa using this

/-! ## Issue -/

/-- The beginning of a group changes no more of a thread than its REP state, the flags of R337 and `passed`. -/
theorem Thread.atGroup_only (t : Thread) : t.atGroup = { t with
    repLeft := 0, repIter := 0, passed := false, trapRec := t.atGroup.trapRec, resumed := t.atGroup.resumed } := by
  unfold Thread.atGroup Thread.atResume Thread.clearRep Thread.noSkips
  split <;> rfl

@[simp] theorem Thread.atGroup_pc (t : Thread) : t.atGroup.pc = t.pc := by rw [t.atGroup_only]
@[simp] theorem Thread.atGroup_ss (t : Thread) : t.atGroup.ss = t.ss := by rw [t.atGroup_only]
@[simp] theorem Thread.atGroup_id (t : Thread) : t.atGroup.id = t.id := by rw [t.atGroup_only]

theorem issue_ready {s : State} {t : Thread} {i : Instr} (body : Body) (h : MayRun s t i) :
    issue i body s = .next ((s.readStatus t.atGroup i).settle i t.atGroup (t.pc + 8)
      (body { pc0 := t.pc } (s.readStatus t.atGroup i) t.begun)) := by
  unfold issue
  rw [h.here]
  show Host.Outcome.next (issueSized 1 i body s t) = _
  unfold issueSized
  rw [gate_go h]
  simp only [Thread.atGroup_pc]
  rfl

/-- A thread that has completed an instruction, closed: the exemptions of R337 have ended, the mailboxes it wrote are noted (R331), and
statuses and errors that it overwrote are gone (R205, R357). -/
def Thread.closed (t t' : Thread) (i : Instr) : Thread := t'.executed.wrote t i.writes

theorem finish_closed {s : State} {t t' : Thread} {i : Instr} (hs : t.ss = false) (hi : i ≠ .trapret) :
    s.finish i t t' 0 = s.setThread (t.closed t' i) := by
  unfold State.finish
  split
  · exact absurd rfl hi
  · unfold State.finishGroup Thread.closed
    simp [hs]

/-- An instruction whose body completes. -/
theorem issue_ok {s s' : State} {t t' : Thread} {i : Instr} {body : Body} (h : MayRun s t i) (hi : i ≠ .trapret)
    (hb : body { pc0 := t.pc } (s.readStatus t.atGroup i) t.begun = .ok s' t') :
    issue i body s = .next (s'.setThread (t.atGroup.closed t' i)) := by
  rw [issue_ready body h, hb]
  show Host.Outcome.next (s'.finish i t.atGroup t' 0) = _
  rw [finish_closed (by rw [t.atGroup_ss]; exact h.noStep) hi]

/-- An instruction whose body traps. -/
theorem issue_trap {s s' : State} {t : Thread} {i : Instr} {body : Body} {info : TrapInfo} (h : MayRun s t i)
    (hb : body { pc0 := t.pc } (s.readStatus t.atGroup i) t.begun = .trap s' info) :
    issue i body s = .next (s'.takeTrap (info.loses t.atGroup) t.pc (info.resume t.pc (t.pc + 8)) i.word info) := by
  rw [issue_ready body h, hb]
  show Host.Outcome.next (s'.takeTrap _ t.atGroup.pc (info.resume t.atGroup.pc _) _ info) = _
  rw [t.atGroup_pc]

/-! ## Register-only bodies -/

theorem readStatus_thread? (s : State) (t : Thread) (i : Instr) (id : ThreadId) :
    (s.readStatus t i).thread? id = s.thread? id := by
  unfold State.readStatus
  split <;> rfl

theorem readStatus_eq (s : State) (t : Thread) (i : Instr) :
    s.readStatus t i = { s with remEpoch := (s.readStatus t i).remEpoch } := by
  unfold State.readStatus
  split <;> rfl

end Sys2Proof.Machine
end

