-- ==== Sys2Proof/Laws/Regs.lean ====
section
/-! SUPPORT. The laws of the register space (R44 to R49): a register just written reads as written and is valid, and the
write changes no granule but the register's own. -/

namespace Sys2Proof

theorem getLsbD_setBits {n w : Nat} (x : BitVec n) (lo : Nat) (v : BitVec w) (b : Nat) :
    (setBits x lo v).getLsbD b = (if lo ≤ b ∧ b < lo + w ∧ b < n then v.getLsbD (b - lo) else x.getLsbD b) := by
  unfold setBits
  simp only [BitVec.getLsbD_or, BitVec.getLsbD_and, BitVec.getLsbD_not, BitVec.getLsbD_shiftLeft, BitVec.truncate_eq_setWidth,
    BitVec.getLsbD_setWidth, BitVec.getLsbD_allOnes]
  by_cases hn : b < n
  · by_cases hlo : lo ≤ b
    · by_cases hw : b < lo + w
      · have h1 : ¬ b < lo := by omega
        have h2 : b - lo < n := by omega
        have h3 : b - lo < w := by omega
        simp [hn, hlo, hw, h1, h2, h3]
      · have h3 : ¬ b - lo < w := by omega
        have h4 : v.getLsbD (b - lo) = false := BitVec.getLsbD_of_ge _ _ (by omega)
        simp [hn, hlo, hw, h3, h4]
    · have h1 : b < lo := by omega
      simp [hn, hlo, h1]
  · have hx : x.getLsbD b = false := BitVec.getLsbD_of_ge _ _ (by omega)
    simp [hn, hx]

theorem getBits_setBits_same {n w : Nat} (x : BitVec n) (lo : Nat) (v : BitVec w) (h : lo + w ≤ n) :
    getBits (setBits x lo v) lo w = v := by
  apply BitVec.eq_of_getLsbD_eq
  intro i hi
  unfold getBits
  rw [BitVec.getLsbD_extractLsb', getLsbD_setBits]
  have : lo ≤ lo + i ∧ lo + i < lo + w ∧ lo + i < n := ⟨by omega, by omega, by omega⟩
  simp [this, hi]

theorem getLsbD_onesAt (n lo k g : Nat) : (onesAt n lo k).getLsbD g = decide (lo ≤ g ∧ g < lo + k ∧ g < n) := by
  unfold onesAt
  rw [BitVec.getLsbD_ofNat]
  have h : ((2 ^ k - 1) * 2 ^ lo).testBit g = (decide (lo ≤ g) && decide (g - lo < k)) := by
    rw [← Nat.shiftLeft_eq, Nat.testBit_shiftLeft, Nat.testBit_two_pow_sub_one]
  rw [h]
  by_cases h1 : g < n <;> by_cases h2 : lo ≤ g <;> by_cases h3 : g < lo + k <;> simp [h1, h2, h3] <;> omega

namespace Machine

/-- The views are where R46 allows them: registers lie inside the register space, on granule boundaries. -/
theorem span_legal {t : Thread} (hv : viewsOk t.vwS.toNat t.vwK.toNat t.vwV.toNat = true) {r : RegRef} {off len : Nat}
    (h : t.span r = some (off, len)) : off % 8 = 0 ∧ len % 8 = 0 ∧ 0 < len ∧ off + len ≤ 12288 := by
  simp only [viewsOk, Bool.and_eq_true, beq_iff_eq, decide_eq_true_eq] at hv
  obtain ⟨⟨⟨h1, h2⟩, h3⟩, h4, h5, h6⟩ := hv
  cases r with
  | s n =>
    have := n.isLt
    simp only [Thread.span] at h
    split at h
    · simp at h
    · simp only [Option.some.injEq, Prod.mk.injEq] at h
      omega
  | k n =>
    have := n.isLt
    simp only [Thread.span] at h
    split at h
    · simp at h
    · simp only [Option.some.injEq, Prod.mk.injEq] at h
      omega
  | v n =>
    simp only [Thread.span] at h
    split at h
    · rename_i hn
      have : n.toNat < 32 := BitVec.lt_def.1 hn
      simp only [Option.some.injEq, Prod.mk.injEq] at h
      omega
    · simp at h

/-- A write of a register changes only bytes of its own granules. -/
theorem put_regs_outside {w : Nat} {t : Thread} (hv : viewsOk t.vwS.toNat t.vwK.toNat t.vwV.toNat = true) (r : RegRef)
    (x : BitVec w) (hw : ∀ off len, t.span r = some (off, len) → w = 8 * len) (b : Nat)
    (hb : (t.granules r).getLsbD (b / 64) = false) : (t.put r x).regs.getLsbD b = t.regs.getLsbD b := by
  unfold Thread.put
  unfold Thread.granules at hb
  cases hs : t.span r with
  | none => rfl
  | some p =>
    obtain ⟨off, len⟩ := p
    have hl := span_legal hv hs
    have hw := hw off len hs
    rw [hs] at hb
    simp only at hb ⊢
    rw [getLsbD_setBits]
    rw [getLsbD_onesAt] at hb
    have hb : ¬ (off / 8 ≤ b / 64 ∧ b / 64 < off / 8 + len / 8 ∧ b / 64 < 1536) := by simpa using hb
    have : ¬ (8 * off ≤ b ∧ b < 8 * off + w ∧ b < 98304) := by omega
    rw [if_neg this]

theorem put_valid {w : Nat} (t : Thread) (r : RegRef) (x : BitVec w) : (t.put r x).valid = t.valid ||| t.granules r := by
  unfold Thread.put Thread.granules
  cases t.span r <;> simp

theorem setS_wroteOnly {t : Thread} (hv : viewsOk t.vwS.toNat t.vwK.toNat t.vwV.toNat = true) (n : SReg) (x : Word) :
    t.wroteOnly (t.setS n x) [.s n] := by
  refine ⟨fun b hb => put_regs_outside hv _ _ ?_ b (hb _ (by simp)), ?_⟩
  · intro off len h
    simp only [Thread.span] at h
    split at h <;> simp at h
    omega
  · exact put_valid t (.s n) x

theorem setK_wroteOnly {t : Thread} (hv : viewsOk t.vwS.toNat t.vwK.toNat t.vwV.toNat = true) (n : KReg) (x : MaskBits) :
    t.wroteOnly (t.setK n x) [.k n] := by
  refine ⟨fun b hb => put_regs_outside hv _ _ ?_ b (hb _ (by simp)), ?_⟩
  · intro off len h
    simp only [Thread.span] at h
    split at h <;> simp at h
    omega
  · exact put_valid t (.k n) x

theorem setV_wroteOnly {t : Thread} (hv : viewsOk t.vwS.toNat t.vwK.toNat t.vwV.toNat = true) (n : VReg) (x : VecBits) :
    t.wroteOnly (t.setV n x) [.v n] := by
  unfold Thread.setV
  by_cases h33 : n = 33
  · subst h33
    rw [if_pos rfl]
    exact ⟨fun b _ => rfl, by simp [Thread.granules, Thread.span]⟩
  · rw [if_neg h33]
    refine ⟨fun b hb => put_regs_outside hv _ _ ?_ b (hb _ (by simp)), ?_⟩
    · intro off len h
      simp only [Thread.span] at h
      split at h <;> simp at h
      omega
    · exact put_valid t (.v n) x

/-- A scalar register just written reads as written; s0 stays 0 (R45). -/
theorem s_setS {t : Thread} (hv : viewsOk t.vwS.toNat t.vwK.toNat t.vwV.toNat = true) (n : SReg) (x : Word) :
    (t.setS n x).s n = if n = 0 then 0 else x := by
  by_cases h0 : n = 0
  · simp [Thread.s, h0]
  · have hs : t.span (.s n) = some (t.vwS.toNat + 8 * n.toNat, 8) := if_neg h0
    have hl := span_legal hv hs
    simp only [Thread.s, h0, if_false, Thread.setS_vwS]
    unfold Thread.setS Thread.put
    rw [hs]
    exact getBits_setBits_same _ _ _ (by omega)

/-- A mask just written reads as written; k0 stays all ones (R45). -/
theorem k_setK {t : Thread} (hv : viewsOk t.vwS.toNat t.vwK.toNat t.vwV.toNat = true) (n : KReg) (x : MaskBits) :
    (t.setK n x).k n = if n = 0 then BitVec.allOnes 256 else x := by
  by_cases h0 : n = 0
  · simp [Thread.k, h0]
  · have hs : t.span (.k n) = some (t.vwK.toNat + 32 * n.toNat, 32) := if_neg h0
    have hl := span_legal hv hs
    simp only [Thread.k, h0, if_false, Thread.setK_vwK]
    unfold Thread.setK Thread.put
    rw [hs]
    exact getBits_setBits_same _ _ _ (by omega)

/-- A vector register just written reads as written. -/
theorem v_setV {t : Thread} (hv : viewsOk t.vwS.toNat t.vwK.toNat t.vwV.toNat = true) (n : VReg) (x : VecBits) (hn : n < 32) :
    (t.setV n x).v n = x := by
  have h33 : n ≠ 33 := by
    rintro rfl
    exact absurd hn (by decide)
  have hs : t.span (.v n) = some (t.vwV.toNat + 256 * n.toNat, 256) := if_pos hn
  have hl := span_legal hv hs
  unfold Thread.v
  rw [Thread.setV_vwV]
  unfold Thread.setV Thread.put
  rw [if_neg h33, hs]
  exact getBits_setBits_same _ _ _ (by omega)

end Machine

end Sys2Proof
end

