-- ==== Sys2Proof/Laws/Complete.lean ====
section
/-! SUPPORT. What a register-only instruction does, once for all of them: a body that gives a thread which differs in registers,
FLAGS, SEED and queues alone completes, and changes nothing else. -/

namespace Sys2Proof.Machine

/-- Two threads that differ at most in what a register-only body may change. -/
def Thread.like (t u : Thread) : Prop :=
  u = { t with pc := u.pc, regs := u.regs, valid := u.valid, flags := u.flags, seed := u.seed
               lq := u.lq, lqFly := u.lqFly, lqHead := u.lqHead, sq := u.sq, sqHead := u.sqHead }

theorem like_refl (t : Thread) : t.like t := rfl

theorem like_trans {t u v : Thread} (h1 : t.like u) (h2 : u.like v) : t.like v := by
  unfold Thread.like at *
  rw [h2]
  rw [h1]

theorem like_pc (t : Thread) (pc : Word) : t.like { t with pc := pc } := rfl

theorem like_put {w : Nat} (t : Thread) (r : RegRef) (x : BitVec w) : t.like (t.put r x) := by
  unfold Thread.put
  split <;> rfl

theorem like_setS (t : Thread) (n : SReg) (x : Word) : t.like (t.setS n x) := like_put t _ x
theorem like_setK (t : Thread) (n : KReg) (x : MaskBits) : t.like (t.setK n x) := like_put t _ x
theorem like_setV (t : Thread) (n : VReg) (x : VecBits) : t.like (t.setV n x) := by
  unfold Thread.setV
  split
  · rfl
  · exact like_put t _ x
theorem like_takeV (t : Thread) (n : VReg) : t.like (t.takeV n).2 := by
  unfold Thread.takeV
  split
  · split <;> rfl
  · rfl
theorem like_orFlags (t : Thread) (f : Flags) : t.like (t.orFlags f) := rfl
theorem like_advanceSeed (t : Thread) (r : Rounding) : t.like (t.advanceSeed r) := by
  unfold Thread.advanceSeed
  split <;> rfl

/-! ## The beginning and the closing of a group -/

/-- What stands while an instruction runs, but for what the beginning of a group settles. -/
theorem Thread.begun_only (t : Thread) : t.begun = { t with
    pc := t.pc + 8, block := .none, saved := List.replicate 4 0, zeroed := 0, repLeft := 0, repIter := 0, passed := false
    trapRec := t.atGroup.trapRec, resumed := t.atGroup.resumed } := by
  unfold Thread.begun
  rw [t.atGroup_only]

@[simp] theorem Thread.begun_id (t : Thread) : t.begun.id = t.id := by rw [t.begun_only]
@[simp] theorem Thread.begun_vwS (t : Thread) : t.begun.vwS = t.vwS := by rw [t.begun_only]
@[simp] theorem Thread.begun_vwK (t : Thread) : t.begun.vwK = t.vwK := by rw [t.begun_only]
@[simp] theorem Thread.begun_vwV (t : Thread) : t.begun.vwV = t.vwV := by rw [t.begun_only]
@[simp] theorem Thread.begun_regs (t : Thread) : t.begun.regs = t.regs := by rw [t.begun_only]
@[simp] theorem Thread.begun_valid (t : Thread) : t.begun.valid = t.valid := by rw [t.begun_only]
@[simp] theorem Thread.begun_flags (t : Thread) : t.begun.flags = t.flags := by rw [t.begun_only]
@[simp] theorem Thread.begun_seed (t : Thread) : t.begun.seed = t.seed := by rw [t.begun_only]
@[simp] theorem Thread.begun_lq (t : Thread) : t.begun.lq = t.lq := by rw [t.begun_only]
@[simp] theorem Thread.begun_lqFly (t : Thread) : t.begun.lqFly = t.lqFly := by rw [t.begun_only]
@[simp] theorem Thread.begun_lqHead (t : Thread) : t.begun.lqHead = t.lqHead := by rw [t.begun_only]
@[simp] theorem Thread.begun_sq (t : Thread) : t.begun.sq = t.sq := by rw [t.begun_only]
@[simp] theorem Thread.begun_sqHead (t : Thread) : t.begun.sqHead = t.sqHead := by rw [t.begun_only]
@[simp] theorem Thread.begun_pc (t : Thread) : t.begun.pc = t.pc + 8 := by rw [t.begun_only]

theorem Thread.executed_only (t : Thread) : t.executed = { t with trapRec := t.executed.trapRec, resumed := false } := by
  unfold Thread.executed Thread.noSkips
  split
  · rfl
  · rename_i h
    have h : t.resumed = false := by simpa using h
    rw [← h]

/-- The end of the flags of R337 depends on them alone. -/
theorem Thread.executed_trapRec {t u : Thread} (h1 : u.trapRec = t.trapRec) (h2 : u.resumed = t.resumed) :
    u.executed.trapRec = t.executed.trapRec := by
  unfold Thread.executed Thread.noSkips
  rw [h1, h2]
  split <;> simp only [h1]

/-- Whatever the beginning of the group has cleared, its end clears as well. -/
theorem Thread.atGroup_executed (t : Thread) : t.atGroup.executed.trapRec = t.executed.trapRec := by
  have h2 : t.clearRep.executed.trapRec = t.executed.trapRec := Thread.executed_trapRec (t := t) rfl rfl
  unfold Thread.atGroup
  rw [Thread.executed_trapRec (t := t.clearRep.atResume) (u := { t.clearRep.atResume with passed := false }) rfl rfl]
  unfold Thread.atResume
  split
  · rename_i h
    have hr : t.clearRep.resumed = true := by simp_all
    rw [← h2]
    unfold Thread.executed Thread.noSkips
    simp only [hr, if_true, BitVec.and_assoc, BitVec.and_self]
  · exact h2

theorem Thread.closed_eq (t u : Thread) (i : Instr) : t.closed u i = { u with
    trapRec := u.executed.trapRec, resumed := false, mboxSeen := (u.noteMailboxes (t.granulesOf i.writes)).mboxSeen
    badRegs := u.badRegs &&& ~~~t.granulesOf i.writes, wideStat := u.wideStat &&& ~~~scalarSet i.writes } := by
  unfold Thread.closed Thread.wrote
  rw [u.executed_only]
  rfl

theorem granules_views {t u : Thread} (hs : u.vwS = t.vwS) (hk : u.vwK = t.vwK) (hv : u.vwV = t.vwV) (r : RegRef) :
    u.granules r = t.granules r := by
  cases r <;> simp only [Thread.granules, Thread.span, hs, hk, hv]

theorem like_granules {t u : Thread} (h : t.like u) (r : RegRef) : u.granules r = t.granules r := by
  apply granules_views <;> · unfold Thread.like at h; rw [h]

theorem begun_granules (t : Thread) (r : RegRef) : t.begun.granules r = t.granules r := by rw [t.begun_only]; rfl

/-- A register-only body completes. -/
theorem completes_regs {s : State} {t u : Thread} {i : Instr} {body : Body} {ws : List RegRef} {post : State → Thread → Prop}
    (h : MayRun s t i) (hx : exec i s = issue i body s) (hi : i ≠ .trapret) (hw : i.writes = ws)
    (hb : body { pc0 := t.pc } (s.begun t i) t.begun = .ok (s.begun t i) u)
    (hl : t.begun.like u) (hr : t.begun.wroteOnly u ws)
    (hp : ∀ s' t', RegistersOnly s s' t t' ws u.pc → t'.regs = u.regs → t'.flags = u.flags → t'.seed = u.seed → t'.lq = u.lq
      → t'.lqFly = u.lqFly → t'.lqHead = u.lqHead → t'.sq = u.sq → t'.sqHead = u.sqHead → t'.vwS = t.vwS → t'.vwK = t.vwK → t'.vwV = t.vwV → post s' t') :
    Completes i s t post := by
  subst hw
  have hlike : u = { t.begun with pc := u.pc, regs := u.regs, valid := u.valid, flags := u.flags, seed := u.seed, lq := u.lq, lqFly := u.lqFly, lqHead := u.lqHead, sq := u.sq, sqHead := u.sqHead } := hl
  rw [t.begun_only] at hlike
  have here : s.thread? t.id = some t := by
    rw [thread?_id h.here]
    exact h.here
  obtain ⟨e, he⟩ : ∃ e, s.begun t i = { s with remEpoch := e } := ⟨_, readStatus_eq s t.atGroup i⟩
  have hex := issue_ok h hi hb
  rw [he] at hex
  have heq := t.atGroup.closed_eq u i
  have hc : (t.atGroup.closed u i).id = t.id := by
    rw [heq, hlike]
  have hg : t.atGroup.granulesOf i.writes = t.granulesOf i.writes := by
    rw [t.atGroup_only]
    rfl
  have htr : u.executed.trapRec = t.executed.trapRec := by
    rw [← t.atGroup_executed]
    exact Thread.executed_trapRec (by rw [hlike]) (by rw [hlike])
  have hid' : { s with remEpoch := e }.thread? (t.atGroup.closed u i).id = some t := by
    rw [hc]
    exact here
  refine ⟨_, t.atGroup.closed u i, hx.trans hex, ?_, ?_⟩
  · rw [← hc]
    exact State.thread?_setThread _ _ _ hid'
  · have hreg : RegistersOnly s ({ s with remEpoch := e }.setThread (t.atGroup.closed u i)) t (t.atGroup.closed u i) i.writes u.pc := by
      refine ⟨⟨rfl, fun id hne => State.thread?_setThread_other _ _ id (by rw [hc]; exact hne)⟩, ?_, ?_, by rw [heq]⟩
      · unfold Thread.onlyRegisters
        rw [heq, htr, hg]
        generalize t.executed.trapRec = tr
        rw [hlike]
        rfl
      · have hr' := hr
        rw [t.begun_only] at hr'
        rw [heq]
        exact hr'
    refine hp _ _ hreg ?_ ?_ ?_ ?_ ?_ ?_ ?_ ?_ ?_ ?_ ?_ <;> rw [heq] <;> rw [hlike]

/-! ## The usual destinations -/

theorem begun_s (t : Thread) (n : SReg) : t.begun.s n = t.s n := by rw [t.begun_only]; rfl
theorem begun_k (t : Thread) (n : KReg) : t.begun.k n = t.k n := by rw [t.begun_only]; rfl
theorem begun_v (t : Thread) (n : VReg) : t.begun.v n = t.v n := by rw [t.begun_only]; rfl

theorem begun_wroteOnly {t u : Thread} {ws : List RegRef} : t.begun.wroteOnly u ws ↔ t.wroteOnly u ws := by
  rw [t.begun_only]
  rfl

/-- The result of a register-only body, from the thread that the body gives. -/
theorem completes_leaves {s : State} {t u : Thread} {i : Instr} {body : Body} {ws : List RegRef} {srcs : List VReg} {fl : Flags}
    {seed : BitVec 32} {push : List VecBits} {pc : Word} {q : Thread → Prop}
    (h : MayRun s t i) (hx : exec i s = issue i body s) (hi : i ≠ .trapret) (hw : i.writes = ws)
    (hb : body { pc0 := t.pc } (s.begun t i) t.begun = .ok (s.begun t i) u)
    (hl : t.begun.like u) (hr : t.wroteOnly u ws) (hpc : u.pc = pc) (hL : Leaves t u srcs fl seed push)
    (hq : ∀ t' : Thread, t'.regs = u.regs → t'.sq = u.sq → t'.vwS = t.vwS → t'.vwK = t.vwK → t'.vwV = t.vwV → q t') :
    Completes i s t (fun s' t' => RegistersOnly s s' t t' ws pc ∧ Leaves t t' srcs fl seed push ∧ q t') := by
  subst hpc
  refine completes_regs h hx hi hw hb hl (begun_wroteOnly.2 hr) ?_
  intro s' t' hr hregs hf hseed hlq hlqF hlqH hsq hsqH hvs hvk hvv
  exact ⟨hr, ⟨hf.trans hL.flags, hseed.trans hL.seed, hlq.trans hL.lq, hlqF.trans hL.lqFly, hlqH.trans hL.lqHead, hsq.trans hL.sq, hsqH.trans hL.sqHead⟩,
    hq t' hregs hsq hvs hvk hvv⟩

theorem leaves_begun (t : Thread) : Leaves t t.begun [] 0 t.seed [] := by
  constructor <;> simp

/-- A body that writes one scalar register. -/
theorem writesScalar {s : State} {t : Thread} {i : Instr} {body : Body} {d : SReg} {x : Word}
    (h : MayRun s t i) (hx : exec i s = issue i body s) (hi : i ≠ .trapret) (hw : i.writes = [.s d])
    (hb : body { pc0 := t.pc } (s.begun t i) t.begun = .ok (s.begun t i) (t.begun.setS d x)) : WritesScalar i s t d x := by
  refine completes_leaves h hx hi hw hb (like_setS _ _ _) (begun_wroteOnly.1 (setS_wroteOnly (by simpa using h.views) d x)) (by simp) ?_ ?_
  · constructor <;> simp
  · intro t' hregs hsq hvs hvk hvv
    have h1 : t'.s d = (t.begun.setS d x).s d := by
      unfold Thread.s
      rw [hregs, hvs, Thread.setS_vwS, Thread.begun_vwS]
    rw [h1, s_setS (by simpa using h.views) d x]

/-! ## Sources that pop `lq` -/

/-- The thread after its vector sources have been read. -/
def Thread.takes (t : Thread) : List VReg → Thread
  | [] => t
  | a :: as => (t.takeV a).2.takes as

theorem like_takes (t : Thread) (as : List VReg) : t.like (t.takes as) := by
  induction as generalizing t with
  | nil => exact like_refl t
  | cons a as ih => exact like_trans (like_takeV t a) (ih _)

/-- Reading sources changes `lq` alone, by one entry for each source that names it. -/
theorem takes_eq (t : Thread) (as : List VReg) (h : as.count 32 ≤ t.lq.length) :
    t.takes as = { t with
      lq := t.lq.drop (as.count 32), lqHead := t.lqHead + BitVec.ofNat 2 (as.count 32)
      lqFly := if as.count 32 = 0 then t.lqFly else min t.lqFly (t.lq.length - as.count 32) } := by
  induction as generalizing t with
  | nil => simp [Thread.takes]
  | cons a as ih =>
    unfold Thread.takes Thread.takeV
    by_cases ha : a = 32
    · subst ha
      rw [List.count_cons_self] at h
      rw [if_pos rfl]
      cases hq : t.lq with
      | nil => simp [hq] at h
      | cons e rest =>
        rw [hq] at h
        simp only [List.length_cons] at h
        show Thread.takes { t with lq := rest, lqHead := t.lqHead + 1, lqFly := min t.lqFly rest.length } as = _
        rw [ih _ (by simpa using h), List.count_cons_self]
        simp only [List.drop_succ_cons, List.length_cons]
        have h1 : t.lqHead + 1 + BitVec.ofNat 2 (as.count 32) = t.lqHead + BitVec.ofNat 2 (as.count 32 + 1) := by
          rw [Nat.add_comm, BitVec.ofNat_add, BitVec.add_assoc]
          rfl
        have h2 : (if as.count 32 = 0 then min t.lqFly rest.length else min (min t.lqFly rest.length) (rest.length - as.count 32))
            = if as.count 32 + 1 = 0 then t.lqFly else min t.lqFly (rest.length + 1 - (as.count 32 + 1)) := by
          rw [if_neg (Nat.succ_ne_zero _)]
          split <;> omega
        rw [h1, h2]
    · rw [if_neg ha, List.count_cons_of_ne (by simpa using ha)]
      rw [List.count_cons_of_ne (by simpa using ha)] at h
      exact ih t h

/-- The issuing thread once its SEED has advanced and its sources have been read. -/
def Thread.popped (t : Thread) (srcs : List VReg) (seed : BitVec 32) : Thread :=
  { t.begun with
    seed := seed, lq := t.lq.drop (srcs.count 32), lqHead := t.lqHead + BitVec.ofNat 2 (srcs.count 32)
    lqFly := if srcs.count 32 = 0 then t.lqFly else min t.lqFly (t.lq.length - srcs.count 32) }

theorem takes_popped' (t : Thread) (srcs : List VReg) (h : srcs.count 32 ≤ t.lq.length) :
    t.begun.takes srcs = t.popped srcs t.seed := by
  rw [takes_eq _ _ (by simpa using h)]
  unfold Thread.popped
  simp only [Thread.begun_lq, Thread.begun_lqHead, Thread.begun_lqFly, ← Thread.begun_seed t]

theorem takes_popped (t : Thread) (srcs : List VReg) (r : Rounding) (h : srcs.count 32 ≤ t.lq.length) :
    (t.begun.advanceSeed r).takes srcs = t.popped srcs (t.seedFor r) := by
  unfold Thread.advanceSeed Thread.seedFor
  split
  · rw [takes_eq _ _ (by simpa using h)]
    unfold Thread.popped
    simp only [Thread.begun_lq, Thread.begun_lqHead, Thread.begun_lqFly, Thread.begun_seed]
  · exact takes_popped' t srcs h

theorem like_popped (t : Thread) (srcs : List VReg) (seed : BitVec 32) : t.begun.like (t.popped srcs seed) := rfl

theorem leaves_popped (t : Thread) (srcs : List VReg) (seed : BitVec 32) : Leaves t (t.popped srcs seed) srcs 0 seed [] := by
  constructor <;> simp [Thread.popped]

theorem popped_views {t : Thread} {srcs : List VReg} {seed : BitVec 32} (h : viewsOk t.vwS.toNat t.vwK.toNat t.vwV.toNat = true) :
    viewsOk (t.popped srcs seed).vwS.toNat (t.popped srcs seed).vwK.toNat (t.popped srcs seed).vwV.toNat = true := by
  simpa [Thread.popped] using h

theorem popped_wroteOnly {t u : Thread} {srcs : List VReg} {seed : BitVec 32} {ws : List RegRef}
    (h : (t.popped srcs seed).wroteOnly u ws) : t.wroteOnly u ws := by
  unfold Thread.popped at h
  exact begun_wroteOnly.1 h

/-- A body that writes one scalar register after reading vector sources. -/
theorem writesScalar_popped {s : State} {t : Thread} {i : Instr} {body : Body} {d : SReg} {x : Word} {srcs : List VReg} {fl : Flags}
    {seed : BitVec 32} (h : MayRun s t i) (hx : exec i s = issue i body s) (hi : i ≠ .trapret) (hw : i.writes = [.s d])
    (hb : body { pc0 := t.pc } (s.begun t i) t.begun = .ok (s.begun t i) (((t.popped srcs seed).setS d x).orFlags fl)) :
    WritesScalar i s t d x srcs fl seed := by
  refine completes_leaves h hx hi hw hb (like_trans (like_popped t srcs seed) (like_trans (like_setS _ _ _) (like_orFlags _ _)))
    (popped_wroteOnly (setS_wroteOnly (t := t.popped srcs seed) (popped_views h.views) d x)) (by simp [Thread.orFlags, Thread.popped]) ?_ ?_
  · have := leaves_popped t srcs seed
    constructor <;> simp [Thread.orFlags, this.1, this.2, this.3, this.4, this.5, this.6, this.7]
  · intro t' hregs hsq hvs hvk hvv
    have h1 : t'.s d = ((t.popped srcs seed).setS d x).s d := by
      unfold Thread.s
      rw [hregs, hvs, Thread.setS_vwS]
      simp [Thread.orFlags, Thread.popped]
    rw [h1, s_setS (t := t.popped srcs seed) (popped_views h.views) d x]

/-- A body that writes one mask register after reading vector sources. -/
theorem writesMask_popped {s : State} {t : Thread} {i : Instr} {body : Body} {d : KReg} {x : MaskBits} {srcs : List VReg} {fl : Flags}
    (h : MayRun s t i) (hx : exec i s = issue i body s) (hi : i ≠ .trapret) (hw : i.writes = [.k d])
    (hb : body { pc0 := t.pc } (s.begun t i) t.begun = .ok (s.begun t i) (((t.popped srcs t.seed).setK d x).orFlags fl)) :
    WritesMask i s t d x srcs fl := by
  refine completes_leaves h hx hi hw hb (like_trans (like_popped t srcs t.seed) (like_trans (like_setK _ _ _) (like_orFlags _ _)))
    (popped_wroteOnly (setK_wroteOnly (t := t.popped srcs t.seed) (popped_views h.views) d x)) (by simp [Thread.orFlags, Thread.popped]) ?_ ?_
  · have := leaves_popped t srcs t.seed
    constructor <;> simp [Thread.orFlags, this.1, this.2, this.3, this.4, this.5, this.6, this.7]
  · intro t' hregs hsq hvs hvk hvv
    have h1 : t'.k d = ((t.popped srcs t.seed).setK d x).k d := by
      unfold Thread.k
      rw [hregs, hvk, Thread.setK_vwK]
      simp [Thread.orFlags, Thread.popped]
    rw [h1, k_setK (t := t.popped srcs t.seed) (popped_views h.views) d x]

/-- A body that writes one vector destination after reading vector sources. -/
theorem writesVector_popped {s : State} {t : Thread} {i : Instr} {body : Body} {d : VReg} {x : VecBits} {srcs : List VReg} {fl : Flags}
    {seed : BitVec 32} (h : MayRun s t i) (hx : exec i s = issue i body s) (hi : i ≠ .trapret) (hw : i.writes = [.v d])
    (hd : d < 32 ∨ d = 33)
    (hb : body { pc0 := t.pc } (s.begun t i) t.begun = .ok (s.begun t i) (((t.popped srcs seed).setV d x).orFlags fl)) :
    WritesVector i s t d x srcs fl seed := by
  refine completes_leaves h hx hi hw hb (like_trans (like_popped t srcs seed) (like_trans (like_setV _ _ _) (like_orFlags _ _)))
    (popped_wroteOnly (setV_wroteOnly (t := t.popped srcs seed) (popped_views h.views) d x)) (by simp [Thread.orFlags, Thread.popped]) ?_ ?_
  · have := leaves_popped t srcs seed
    constructor
    · simp [Thread.orFlags, this.1]
    · simp [Thread.orFlags, this.2]
    · simp [Thread.orFlags, this.3]
    · simp [Thread.orFlags, this.4]
    · simp [Thread.orFlags, this.5]
    · show ((t.popped srcs seed).setV d x).sq = _
      unfold Thread.setV
      split
      · simp [this.6]
      · simp [this.6]
    · simp [Thread.orFlags, this.7]
  · intro t' hregs hsq hvs hvk hvv h33
    have h1 : t'.v d = ((t.popped srcs seed).setV d x).v d := by
      unfold Thread.v
      rw [hregs, hvv, Thread.setV_vwV]
      simp [Thread.orFlags, Thread.popped]
    rw [h1, v_setV (t := t.popped srcs seed) (popped_views h.views) d x (hd.resolve_right h33)]

end Sys2Proof.Machine
end

