-- ==== Sys2Proof/Laws/Memory.lean ====
section
/-! SUPPORT. The laws of canonical byte lists and of device memory: every write keeps the canonical form, a read of a byte
just written gives it, and a write leaves every other byte alone. -/

namespace Sys2Proof

/-! ## The canonical form -/

/-- Every address of a list is at least `lo`. -/
def cellsFrom (lo : Nat) (cs : List Host.Cell) : Prop := ∀ c ∈ cs, lo ≤ c.1

theorem cellsRise_iff_pairwise (cs : List Host.Cell) : cellsRise cs = true ↔ cs.Pairwise (fun a b => a.1 < b.1) := by
  induction cs with
  | nil => simp [cellsRise]
  | cons a cs ih =>
    cases cs with
    | nil => simp [cellsRise]
    | cons b cs =>
      simp only [cellsRise, Bool.and_eq_true, decide_eq_true_eq, ih, List.pairwise_cons]
      constructor
      · rintro ⟨hab, hb, hcs⟩
        refine ⟨fun c hc => ?_, hb, hcs⟩
        rcases List.mem_cons.1 hc with rfl | hc
        · exact hab
        · exact Nat.lt_trans hab (hb c hc)
      · rintro ⟨ha, hb, hcs⟩
        exact ⟨ha b (by simp), hb, hcs⟩

theorem cellsWf_iff (dflt : Nat → Byte) (cs : List Host.Cell) :
    cellsWf dflt cs = true ↔ cs.Pairwise (fun a b => a.1 < b.1) ∧ ∀ c ∈ cs, c.2 ≠ dflt c.1 := by
  simp [cellsWf, cellsRise_iff_pairwise, List.all_eq_true, bne_iff_ne]

/-- What a write lists lies in the range written, rises, and differs from what an unlisted byte reads as. -/
theorem freshCells_spec (dflt : Nat → Byte) (bs : List Byte) : ∀ base,
    (∀ c ∈ freshCells dflt base bs, base ≤ c.1 ∧ c.1 < base + bs.length ∧ c.2 ≠ dflt c.1)
      ∧ (freshCells dflt base bs).Pairwise (fun a b => a.1 < b.1) := by
  induction bs with
  | nil => intro base; simp [freshCells]
  | cons b bs ih =>
    intro base
    obtain ⟨hm, hp⟩ := ih (base + 1)
    have later : ∀ c ∈ freshCells dflt (base + 1) bs, base ≤ c.1 ∧ c.1 < base + (b :: bs).length ∧ c.2 ≠ dflt c.1 := by
      intro c hc
      obtain ⟨h1, h2, h3⟩ := hm c hc
      simp only [List.length_cons]
      exact ⟨by omega, by omega, h3⟩
    unfold freshCells
    split
    · exact ⟨later, hp⟩
    · rename_i hb
      refine ⟨fun c hc => ?_, List.pairwise_cons.2 ⟨fun c hc => ?_, hp⟩⟩
      · rcases List.mem_cons.1 hc with rfl | hc
        · exact ⟨by simp, by simp, hb⟩
        · exact later c hc
      · obtain ⟨h1, -⟩ := hm c hc
        simp only; omega

/-- A write keeps the canonical form. -/
theorem cellsWrite_wf (dflt : Nat → Byte) (cs : List Host.Cell) (base : Nat) (bs : List Byte)
    (h : cellsWf dflt cs = true) : cellsWf dflt (cellsWrite dflt cs base bs) = true := by
  rw [cellsWf_iff] at h ⊢
  obtain ⟨hp, hd⟩ := h
  obtain ⟨fm, fp⟩ := freshCells_spec dflt bs base
  have low : ∀ c ∈ cs.filter (fun c => decide (c.1 < base)), c.1 < base := by
    intro c hc; simpa using (List.mem_filter.1 hc).2
  have high : ∀ c ∈ cs.filter (fun c => decide (base + bs.length ≤ c.1)), base + bs.length ≤ c.1 := by
    intro c hc; simpa using (List.mem_filter.1 hc).2
  constructor
  · refine List.pairwise_append.2 ⟨List.pairwise_append.2 ⟨hp.filter _, fp, fun a ha b hb => ?_⟩, hp.filter _, fun a ha b hb => ?_⟩
    · have h1 := low a ha
      have h2 := (fm b hb).1
      omega
    · have h2 := high b hb
      rcases List.mem_append.1 ha with ha | ha
      · have h1 := low a ha
        omega
      · have h1 := (fm a ha).2.1
        omega
  · intro c hc
    rcases List.mem_append.1 hc with hc | hc
    · rcases List.mem_append.1 hc with hc | hc
      · exact hd c (List.mem_filter.1 hc).1
      · exact (fm c hc).2.2
    · exact hd c (List.mem_filter.1 hc).1

/-! ## Reads after writes -/

theorem find_append_none {α : Type} (p : α → Bool) (xs ys : List α) (h : ∀ x ∈ xs, p x = false) :
    (xs ++ ys).find? p = ys.find? p := by
  rw [List.find?_append, List.find?_eq_none.2 (fun x hx => by simp [h x hx])]
  simp

theorem find_none_append {α : Type} (p : α → Bool) (xs ys : List α) (h : ∀ y ∈ ys, p y = false) :
    (xs ++ ys).find? p = xs.find? p := by
  have hy : ys.find? p = none := List.find?_eq_none.2 (fun y hy => by simp [h y hy])
  rw [List.find?_append, hy, Option.or_none]

/-- The byte of a written range. -/
theorem freshCells_byte (dflt : Nat → Byte) (bs : List Byte) : ∀ (base i : Nat) (_ : i < bs.length),
    cellsByte dflt (freshCells dflt base bs) (base + i) = bs.getD i 0 := by
  induction bs with
  | nil => intro base i h; simp at h
  | cons b bs ih =>
    intro base i h
    by_cases hb : b = dflt base
    · simp only [freshCells, hb, if_true]
      cases i with
      | zero =>
        have hn : (freshCells dflt (base + 1) bs).find? (fun c => c.1 == base) = none := by
          rw [List.find?_eq_none]
          intro c hc
          have := ((freshCells_spec dflt bs (base + 1)).1 c hc).1
          simp; omega
        simp [cellsByte, hn]
      | succ j =>
        have he : base + (j + 1) = base + 1 + j := by omega
        rw [he, ih (base + 1) j (by simpa using h)]
        simp
    · simp only [freshCells, hb, if_false]
      cases i with
      | zero => simp [cellsByte]
      | succ j =>
        have hne : (base == base + (j + 1)) = false := by simp
        have := ih (base + 1) j (by simpa using h)
        rw [show base + 1 + j = base + (j + 1) by omega] at this
        simpa [cellsByte, hne] using this

/-- A byte written reads as written. -/
theorem cellsByte_write_inside (dflt : Nat → Byte) (cs : List Host.Cell) (base : Nat) (bs : List Byte) (i : Nat)
    (h : i < bs.length) : cellsByte dflt (cellsWrite dflt cs base bs) (base + i) = bs.getD i 0 := by
  rw [← freshCells_byte dflt bs base i h]
  unfold cellsByte cellsWrite
  rw [find_none_append _ _ _ (by intro c hc; have := (List.mem_filter.1 hc).2; simp at this ⊢; omega),
    find_append_none _ _ _ (by intro c hc; have := (List.mem_filter.1 hc).2; simp at this ⊢; omega)]

/-- A byte outside a write reads as before. -/
theorem cellsByte_write_outside (dflt : Nat → Byte) (cs : List Host.Cell) (base : Nat) (bs : List Byte) (a : Nat)
    (h : a < base ∨ base + bs.length ≤ a) : cellsByte dflt (cellsWrite dflt cs base bs) a = cellsByte dflt cs a := by
  have hm : ∀ c ∈ freshCells dflt base bs, (c.1 == a) = false := by
    intro c hc
    obtain ⟨h1, h2, -⟩ := (freshCells_spec dflt bs base).1 c hc
    simp; omega
  have key : (cellsWrite dflt cs base bs).find? (fun c => c.1 == a) = cs.find? (fun c => c.1 == a) := by
    unfold cellsWrite
    have hf : (freshCells dflt base bs).find? (fun c => c.1 == a) = none := List.find?_eq_none.2 (fun c hc => by simp [hm c hc])
    rw [List.find?_append, List.find?_append, hf, Option.or_none]
    rcases h with h | h
    · have : (cs.filter (fun c => decide (base + bs.length ≤ c.1))).find? (fun c => c.1 == a) = none := by
        rw [List.find?_eq_none]; intro c hc
        have := (List.mem_filter.1 hc).2
        simp at this ⊢; omega
      rw [this, Option.or_none, List.find?_filter]
      congr 1; funext c
      by_cases hc : c.1 = a <;> simp [hc, h]
    · have : (cs.filter (fun c => decide (c.1 < base))).find? (fun c => c.1 == a) = none := by
        rw [List.find?_eq_none]; intro c hc
        have := (List.mem_filter.1 hc).2
        simp at this ⊢; omega
      rw [this, Option.none_or, List.find?_filter]
      congr 1; funext c
      by_cases hc : c.1 = a <;> simp [hc, h]
  unfold cellsByte
  rw [key]

/-- A read is byte by byte. -/
theorem cellsRead_eq (dflt : Nat → Byte) (cs : List Host.Cell) (base n : Nat) :
    cellsRead dflt cs base n = tabulate n (fun i => cellsByte dflt cs (base + i)) := by
  unfold cellsRead tabulate
  apply List.map_congr_left
  intro i hi
  have hi : i < n := List.mem_range.1 hi
  unfold cellsByte
  congr 1
  rw [List.find?_filter]
  congr 1; funext c
  by_cases hc : c.1 = base + i <;> simp [hc, hi]

namespace Machine

/-! ## Device memory (R58) -/

/-- The byte at a physical address. -/
def Memory.byte (m : Memory) (pa : Nat) : Byte := cellsByte m.dflt m.cells pa

theorem Memory.read_eq (m : Memory) (pa n : Nat) : m.read pa n = tabulate n (fun i => m.byte (pa + i)) :=
  cellsRead_eq _ _ _ _

theorem Memory.write_dflt (m : Memory) (pa : Nat) (bs : List Byte) : (m.write pa bs).dflt = m.dflt := rfl

/-- Every write of device memory keeps the canonical form. -/
theorem Memory.write_wf (m : Memory) (pa : Nat) (bs : List Byte) (h : m.wf = true) : (m.write pa bs).wf = true :=
  cellsWrite_wf _ _ _ _ h

theorem Memory.byte_write_inside (m : Memory) (pa : Nat) (bs : List Byte) (i : Nat) (h : i < bs.length) :
    (m.write pa bs).byte (pa + i) = bs.getD i 0 := cellsByte_write_inside _ _ _ _ _ h

theorem Memory.byte_write_outside (m : Memory) (pa : Nat) (bs : List Byte) (a : Nat) (h : a < pa ∨ pa + bs.length ≤ a) :
    (m.write pa bs).byte a = m.byte a := cellsByte_write_outside _ _ _ _ _ h

/-- Reset memory is canonical. -/
theorem Memory.reset_wf : Memory.reset.wf = true := rfl

theorem State.writePA_wf (s : State) (pa : Nat) (bs : List Byte) (h : s.mem.wf = true) : (s.writePA pa bs).mem.wf = true :=
  Memory.write_wf _ _ _ h

/-! ## Dirty lines (R178, R179) -/

@[simp] theorem State.writeBack_mem (s : State) (asid va pa n : Nat) : (s.writeBack asid va pa n).mem = s.mem := rfl

/-- What a discard does to memory, sector by sector. -/
theorem State.invalidate_mem (s : State) (asid va pa n : Nat) :
    (s.invalidate asid va pa n).mem = (s.copies.lines.filter (fun e => (sectorsOn pa n).contains e.sector)).foldl (fun m e =>
      m.write (e.sector * 32) (e.undone s.cycle asid (tagAt va pa e.sector) (m.read (e.sector * 32) 32))) s.mem := rfl

/-- A discard of dirty copies keeps the canonical form. -/
theorem State.invalidate_wf (s : State) (asid va pa n : Nat) (h : s.mem.wf = true) : (s.invalidate asid va pa n).mem.wf = true := by
  rw [State.invalidate_mem]
  generalize s.copies.lines.filter _ = es
  generalize s.mem = m at h ⊢
  induction es generalizing m with
  | nil => exact h
  | cons e es ih => rw [List.foldl_cons]; exact ih _ (m.write_wf _ _ h)

/-- A discard of sectors of which nothing is held apart leaves memory as it is. -/
theorem State.invalidate_clean (s : State) (asid va pa n : Nat) (h : ∀ e ∈ s.copies.lines, e.sector ∉ sectorsOn pa n) :
    (s.invalidate asid va pa n).mem = s.mem := by
  have none : s.copies.lines.filter (fun e => (sectorsOn pa n).contains e.sector) = [] := by
    simpa [List.filter_eq_nil_iff] using h
  rw [State.invalidate_mem, none, List.foldl_nil]

theorem State.touchLines_mem (s : State) (pa n : Nat) (by' : Option (Nat × Nat)) : (s.touchLines pa n by').mem = s.mem := by
  unfold State.touchLines
  split <;> rfl

end Machine

end Sys2Proof
end

