-- ==== Sys2Proof/Tests/Slice0.lean ====
section
/-! SUPPORT. Tests. Words written out from the encoding tables of R85 to R92 and R101 decode to their instructions; every check
of well-formedness refuses a term; single steps give what the spec's rules and examples say; and for every statement of the
certificates a state and operands that meet its premises. -/

namespace Sys2Proof.Tests
open Sys2Proof Sys2Proof.Machine
set_option maxRecDepth 10000
set_option Elab.async false

/-! ## A small machine -/

/-- The machine of one thread about to issue, its program page and context block mapped in ASID 1; `priv` is the ASID's
privilege (R311). -/
def on (t : Thread) (priv : Bool := true) : State :=
  let s := State.reset.withFetchWord 64 0
  let s := { s with agenda := [], cur := fetchId, threads := [t] }
  if priv then s.setDirWord 1 0 ((16#64 <<< 32) ||| 3#64) else s

/-- Its thread, every register valid, two entries in `lq` and one in `sq`. -/
def th : Thread := { fetchThread with valid := BitVec.allOnes 1536, lq := [1, 2], sq := [3] }
def m0 : State := on th

/-! ## Decoding -/

def reads (p : Word × Instr) : Bool := decide (decodeGroup [p.1] = .ok p.2)

def mayRun (s : State) (t : Thread) (i : Instr) : Bool :=
  decide (s.thread? s.cur = some t) && i.wordWf && !(i.needsPriv && !s.asidPriv (s.asidOf t)) && !i.noWriteAccess
    && decide (t.touches i &&& ~~~t.resident = 0) && !(i.reads ++ i.writes).any t.isPending && i.reads.all t.isValid
    && decide (t.queueFault i = none) && decide (t.badRead i = none ∧ t.badEntry i = none) && viewsOk t.vwS.toNat t.vwK.toNat t.vwV.toNat && !t.ss

theorem mayRun_ok {s : State} {t : Thread} {i : Instr} (h : mayRun s t i = true) : MayRun s t i := by
  simp only [mayRun, Bool.and_eq_true, Bool.not_eq_true', decide_eq_true_eq] at h
  obtain ⟨⟨⟨⟨⟨⟨⟨⟨⟨⟨h1, h2⟩, h3⟩, h4⟩, h5⟩, h6⟩, h7⟩, h8⟩, h9⟩, h10⟩, h11⟩ := h
  exact ⟨h1, h2, h3, h4, h5, h6, h7, h8, h9, h10, h11⟩

/-- Major 0x10. -/
def wordsScalar : List (Word × Instr) := [
    (0x1001459800200000, .add .w32 10 11 12),
    (0x1009459800300000, .sub .w64 10 11 12),
    (0x1011459800200000, .mul .w32 10 11 12),
    (0x1019459800300000, .mulh .w64 10 11 12),
    (0x1021459800200000, .mulhn .w32 10 11 12),
    (0x1029459800300000, .div .w64 10 11 12),
    (0x1031459800200000, .divn .w32 10 11 12),
    (0x1039459800300000, .rem .w64 10 11 12),
    (0x1041459800200000, .remn .w32 10 11 12),
    (0x1049459800300000, .and .w64 10 11 12),
    (0x1051459800200000, .or .w32 10 11 12),
    (0x1059459800300000, .xor .w64 10 11 12),
    (0x1061459800200000, .andn .w32 10 11 12),
    (0x1069459800300000, .shl .w64 10 11 12),
    (0x1071459800200000, .shr .w32 10 11 12),
    (0x1079459800300000, .sar .w64 10 11 12),
    (0x1081459800200000, .rol .w32 10 11 12),
    (0x1089459800300000, .min .w64 10 11 12),
    (0x1091459800200000, .max .w32 10 11 12),
    (0x1099459800300000, .minn .w64 10 11 12),
    (0x10A1459800200000, .maxn .w32 10 11 12),
    (0x10A83F8000200000, .clz .w32 1 63),
    (0x10B03F8000200000, .ctz .w32 1 63),
    (0x10B83F8000200000, .pop .w32 1 63),
    (0x10C1459868300000, .sel .w64 10 11 12 13),
    (0x10C8828C00300000, .cmp .w64 .eq 4 5 6),
    (0x10C8828C00310000, .cmp .w64 .ne 4 5 6),
    (0x10C8828C00320000, .cmp .w64 .lt 4 5 6),
    (0x10C8828C00330000, .cmp .w64 .ge 4 5 6),
    (0x10C8828C00340000, .cmp .w64 .ltn 4 5 6),
    (0x10C8828C00350000, .cmp .w64 .gen 4 5 6)]
theorem test_words_scalar : wordsScalar.all reads = true := by decide +kernel
theorem witness_issue_scalar : wordsScalar.all (fun p => mayRun m0 th p.2) = true := by decide +kernel

/-- Major 0x11. -/
def wordsImmediate : List (Word × Instr) := [
    (0x1102401800080000, .li .i64 18 0x80000),
    (0x110240403F800000, .li .f32 18 0x3F800000),
    (0x1102404800003C00, .li .f16 18 0x3C00),
    (0x1102405000003F80, .li .bf16 18 0x3F80),
    (0x1108E418FFFFFFFF, .lih 7 8 0xFFFFFFFF),
    (0x1110E410FFFFFFF0, .addi .w32 7 8 0xFFFFFFF0),
    (0x1118E418FFFFFFF0, .andi .w64 7 8 0xFFFFFFF0),
    (0x1120E410FFFFFFF0, .ori .w32 7 8 0xFFFFFFF0),
    (0x1128E418FFFFFFF0, .xori .w64 7 8 0xFFFFFFF0),
    (0x1130E4180000003F, .shli .w64 7 8 63),
    (0x1138E4180000003F, .shri .w64 7 8 63),
    (0x1140E4180000003F, .sari .w64 7 8 63),
    (0x1148E41000000005, .cmpi .w32 .eq 7 8 5),
    (0x1148E41100000005, .cmpi .w32 .ne 7 8 5),
    (0x1148E41200000005, .cmpi .w32 .lt 7 8 5),
    (0x1148E41300000005, .cmpi .w32 .ge 7 8 5),
    (0x1148E41400000005, .cmpi .w32 .ltn 7 8 5),
    (0x1148E41500000005, .cmpi .w32 .gen 7 8 5),
    (0x1151201800000040, .adr 9 0x40)]
theorem test_words_immediate : wordsImmediate.all reads = true := by decide +kernel
theorem witness_issue_immediate : wordsImmediate.all (fun p => mayRun m0 th p.2) = true := by decide +kernel

/-- Major 0x20. -/
def wordsVint : List (Word × Instr) := [
    (0x2000A30E00000000, .vadd .i8 false 0 5 6 7),
    (0x2008A30E01180000, .vsub .i16 true 1 5 6 7),
    (0x2010A30E02200000, .vmul .i32 false 2 5 6 7),
    (0x2018A30E03380000, .vmulh .i64 true 3 5 6 7),
    (0x2020A30E04400000, .vand .n8 false 4 5 6 7),
    (0x2028A30E05580000, .vor .n16 true 5 5 6 7),
    (0x2030A30E06600000, .vxor .n32 false 6 5 6 7),
    (0x2038A30E07780000, .vandn .n64 true 7 5 6 7),
    (0x2040A30E00000000, .vshl .i8 false 0 5 6 7),
    (0x2048A30E01180000, .vshr .i16 true 1 5 6 7),
    (0x2050A30E02200000, .vsar .i32 false 2 5 6 7),
    (0x2058A30E03380000, .vmin .i64 true 3 5 6 7),
    (0x2060A30E04400000, .vmax .n8 false 4 5 6 7),
    (0x206C300002100000, .vabs .i16 false 2 33 32),
    (0x2074300002100000, .vneg .i16 false 2 33 32),
    (0x207BEF3A01480000, .vadds .n8 true 1 31 30 29),
    (0x2083EF3A01480000, .vsubs .n8 true 1 31 30 29)]
theorem test_words_vint : wordsVint.all reads = true := by decide +kernel
theorem witness_issue_vint : wordsVint.all (fun p => mayRun m0 th p.2) = true := by decide +kernel

/-- Major 0x21. -/
def wordsVfloat : List (Word × Instr) := [
    (0x2100A30E01800000, .vfadd .f32 .rne 1 5 6 7),
    (0x2108A30E01910000, .vfsub .f16 .rz 1 5 6 7),
    (0x2110A30E01A20000, .vfmul .bf16 .rp 1 5 6 7),
    (0x2130A30E01860000, .vfmin .f32 .ro 1 5 6 7),
    (0x2138A30E01900000, .vfmax .f16 .rne 1 5 6 7),
    (0x2150A30E01930000, .vfdiv .f16 .rm 1 5 6 7),
    (0x2180A30E01920000, .vfscale .f16 .rp 1 5 6 7),
    (0x2118A30E41830000, .vfma .f32 .rm 1 5 6 7 8),
    (0x2120A30E41840000, .vfms .f32 .rna 1 5 6 7 8),
    (0x2128A30E41850000, .vfnma .f32 .rs 1 5 6 7 8),
    (0x2140A30001900000, .vfabs .f16 1 5 6),
    (0x2148A30001900000, .vfneg .f16 1 5 6),
    (0x2158A30001A10000, .vfsqrt .bf16 .rz 1 5 6),
    (0x2160A30001A20000, .vfrcp .bf16 .rp 1 5 6),
    (0x2168A30001A30000, .vfrsq .bf16 .rm 1 5 6),
    (0x2170A30001A40000, .vfexp2 .bf16 .rna 1 5 6),
    (0x2178A30001A50000, .vflog2 .bf16 .rs 1 5 6)]
theorem test_words_vfloat : wordsVfloat.all reads = true := by decide +kernel
theorem witness_issue_vfloat : wordsVfloat.all (fun p => mayRun m0 th p.2) = true := by decide +kernel

/-- Major 0x22. -/
def wordsVmove : List (Word × Instr) := [
    (0x2200A30002F80000, .vmov true 2 5 6),
    (0x2208A58002000000, .vbcast .i8 false 2 5 11),
    (0x2210A59802180000, .vins .i16 true 2 5 11 12),
    (0x2219431800200000, .vext .i32 10 6 12),
    (0x2220A30E02380000, .vperm .i64 true 2 5 6 7),
    (0x2228A31802400000, .vslide .n8 false 2 5 6 12),
    (0x2230A30E02B90000, .vzip .e4m3 true true 2 5 6 7),
    (0x2238A30E02E10000, .vunzip .e8m0 false true 2 5 6 7),
    (0x2240A30E22880000, .vsel .f32 true 2 5 6 7 4),
    (0x2248A30002980000, .vcomp .f16 true 2 5 6),
    (0x2250A30002A00000, .vexpd .bf16 false 2 5 6),
    (0x2259430002850000, .vredsum .f32 .rs 2 10 6),
    (0x2261430002000000, .vredmax .i8 2 10 6),
    (0x2269430002A00000, .vredmin .bf16 2 10 6),
    (0x2270A30002910000, .vscan .f16 .rz false 2 5 6)]
theorem test_words_vmove : wordsVmove.all reads = true := by decide +kernel
theorem witness_issue_vmove : wordsVmove.all (fun p => mayRun m0 th p.2) = true := by decide +kernel

/-- Major 0x23. -/
def wordsMasks : List (Word × Instr) := [
    (0x2300830E03200000, .vcmp .i32 .eq false 3 4 6 7),
    (0x2300830E03290000, .vcmp .i32 .ne true 3 4 6 7),
    (0x2300830E03220000, .vcmp .i32 .lt false 3 4 6 7),
    (0x2300830E032B0000, .vcmp .i32 .ge true 3 4 6 7),
    (0x2300830E03240000, .vcmp .i32 .le false 3 4 6 7),
    (0x2300830E032D0000, .vcmp .i32 .gt true 3 4 6 7),
    (0x2308830E03800000, .vfcmp .f32 .eq false 3 4 6 7),
    (0x2308830E03810000, .vfcmp .f32 .ne false 3 4 6 7),
    (0x2308830E03820000, .vfcmp .f32 .lt false 3 4 6 7),
    (0x2308830E03830000, .vfcmp .f32 .ge false 3 4 6 7),
    (0x2308830E03840000, .vfcmp .f32 .le false 3 4 6 7),
    (0x2308830E03850000, .vfcmp .f32 .gt false 3 4 6 7),
    (0x2308830E03860000, .vfcmp .f32 .uo false 3 4 6 7),
    (0x2308830E03870000, .vfcmp .f32 .or false 3 4 6 7),
    (0x2310831803A80000, .vfclass .bf16 true 3 4 6 12),
    (0x2318828C00F00000, .kand 4 5 6),
    (0x2320828C00F00000, .kor 4 5 6),
    (0x2328828C00F00000, .kxor 4 5 6),
    (0x2330828000F00000, .knot 4 5),
    (0x2338828000F00000, .kmov 4 5),
    (0x2341428000F00000, .kpop .untyped 10 5),
    (0x2349428000C00000, .kfirst .e5m2 10 5),
    (0x2350858000E00000, .kset .e8m0 4 11),
    (0x2359429800F00000, .kget 10 5 12)]
theorem test_words_masks : wordsMasks.all reads = true := by decide +kernel
theorem witness_issue_masks : wordsMasks.all (fun p => mayRun m0 th p.2) = true := by decide +kernel

/-- Major 0x24. -/
def wordsConvert : List (Word × Instr) := [
    (0x2400611000A50000, .vcvt .bf16 .f32 .rs false 0 0 3 2),
    (0x2400611059B00000, .vcvt .e4m3 .f32 .rne true 3 1 3 2),
    (0x2408611891D50000, .vcvtq .e2m1 .s1 .rs false 2 1 3 2 12),
    (0x2410611939820000, .vcvtd .f32 .s2 .rp 7 1 3 2 12),
    (0x2418610801000000, .vpack .i8 1 3 2 4),
    (0x2420610009700000, .vunpack .n64 1 1 3 2)]
theorem test_words_convert : wordsConvert.all reads = true := by decide +kernel
theorem witness_issue_convert : wordsConvert.all (fun p => mayRun m0 th p.2) = true := by decide +kernel

/-- Majors 0x40 to 0x42. -/
def wordsMemory : List (Word × Instr) := [
    (0x4000E08030070020, .ld .n64 ⟨1, 0, 32, .rlx, .dev, 0, .glob⟩ 7),
    (0x4000E084D600FFF8, .ld .i8 ⟨1, 2, 0xFFF8, .acq, .sys, 3, .glob⟩ 7),
    (0x4008E0854E080004, .st .f32 ⟨1, 2, 4, .rel, .grp, 7, .glob⟩ 7),
    (0x4008E08010320004, .st .i32 ⟨1, 0, 4, .rlx, .gang, 0, .cx⟩ 7),
    (0x4104060030880100, .vld .f32 ⟨12, 0, 0x100, .rlx, .dev, 0, .glob⟩ 2 32),
    (0x410C261200930100, .vst .i64 ⟨12, 9, 0x100, .rlx, .thr, 0, .sp⟩ 2 33),
    (0x4110A612204E0000, .vlds .e8m0 ⟨12, 9, 0, .rlx, .die, 0, .glob⟩ 1 5),
    (0x4118A61220410000, .vsts .i16 ⟨12, 9, 0, .rlx, .die, 0, .glob⟩ 1 5),
    (0x4120A61220460000, .vgat .n32 ⟨12, 9, 0, .rlx, .die, 0, .glob⟩ 1 5),
    (0x4128A61220480000, .vsca .f32 ⟨12, 9, 0, .rlx, .die, 0, .glob⟩ 1 5),
    (0x4130A60020600000, .vldb .i8 ⟨12, 0, 0, .rlx, .die, 0, .cw⟩ 1 5),
    (0x420006060A0F0008, .pf ⟨12, 3, 8, .rlx, .thr, 5, .glob⟩),
    (0x42088600000F0008, .cwb ⟨12, 0, 8, .rlx, .thr, 0, .glob⟩ 4),
    (0x42108600000F0100, .cinv ⟨12, 0, 0x100, .rlx, .thr, 0, .glob⟩ 4),
    (0x42188600022F0100, .czero ⟨12, 0, 0x100, .rlx, .thr, 1, .cw⟩ 4),
    (0x4220800000F00000, .qstat 4)]
theorem test_words_memory : wordsMemory.all reads = true := by decide +kernel
theorem witness_issue_memory : wordsMemory.all (fun p => mayRun m0 th p.2) = true := by decide +kernel

/-- Major 0x50. -/
def wordsAtomics : List (Word × Instr) := [
    (0x5001459810130000, .aadd ⟨.i64, 10, 11, 12, .rlx, .gang, 0, .sp, false⟩),
    (0x5008059954030200, .aand ⟨.i64, 0, 11, 12, .rel, .sys, 2, .glob, true⟩),
    (0x5011459810130000, .aor ⟨.i64, 10, 11, 12, .rlx, .gang, 0, .sp, false⟩),
    (0x5018059954030200, .axor ⟨.i64, 0, 11, 12, .rel, .sys, 2, .glob, true⟩),
    (0x5021459810130000, .amin ⟨.i64, 10, 11, 12, .rlx, .gang, 0, .sp, false⟩),
    (0x5028059954030200, .amax ⟨.i64, 0, 11, 12, .rel, .sys, 2, .glob, true⟩),
    (0x5031459810160000, .aminn ⟨.n32, 10, 11, 12, .rlx, .gang, 0, .sp, false⟩),
    (0x5038059954060200, .amaxn ⟨.n32, 0, 11, 12, .rel, .sys, 2, .glob, true⟩),
    (0x5041459810170000, .aswp ⟨.n64, 10, 11, 12, .rlx, .gang, 0, .sp, false⟩),
    (0x50494599B0073800, .acas ⟨.n64, 10, 11, 12, .sc, .dev, 0, .glob, false⟩ 14),
    (0x5051459810160000, .ainc ⟨.n32, 10, 11, 12, .rlx, .gang, 0, .sp, false⟩),
    (0x5058059954060200, .adec ⟨.n32, 0, 11, 12, .rel, .sys, 2, .glob, true⟩),
    (0x5061459810180000, .afadd ⟨.f32, 10, 11, 12, .rlx, .gang, 0, .sp, false⟩),
    (0x5068059954080200, .afmin ⟨.f32, 0, 11, 12, .rel, .sys, 2, .glob, true⟩),
    (0x5071459810180000, .afmax ⟨.f32, 10, 11, 12, .rlx, .gang, 0, .sp, false⟩)]
theorem test_words_atomics : wordsAtomics.all reads = true := by decide +kernel
theorem witness_issue_atomics : wordsAtomics.all (fun p => mayRun m0 th p.2) = true := by decide +kernel

/-- Major 0x51. -/
def wordsBarriers : List (Word × Instr) := [
    (0x51000000D00F0000, .fence .acq .sys),
    (0x51000001500F0000, .fence .rel .sys),
    (0x51000001D00F0000, .fence .sc .sys),
    (0x51088607300F0008, .binit ⟨12, 3, 8, .rel, .dev, 0, .glob⟩ 4),
    (0x51108600101F0008, .bar ⟨12, 0, 8, .rlx, .gang, 0, .sp⟩ 4),
    (0x51188600101F0008, .bara ⟨12, 0, 8, .rlx, .gang, 0, .sp⟩ 4),
    (0x51208600101F0008, .barw ⟨12, 0, 8, .rlx, .gang, 0, .sp⟩ 4),
    (0x51288600B00F0008, .bstat ⟨12, 0, 8, .acq, .dev, 0, .glob⟩ 4)]
theorem test_words_barriers : wordsBarriers.all reads = true := by decide +kernel
theorem witness_issue_barriers : wordsBarriers.all (fun p => mayRun m0 th p.2) = true := by decide +kernel

/-- Major 0x60. -/
def wordsControl : List (Word × Instr) := [
    (0x60000001FFFFFFFF, .bra 0x1FFFFFFFF),
    (0x6008059000000002, .br .eqz 11 2),
    (0x600805A000000002, .br .nez 11 2),
    (0x600805B000000002, .br .ltz 11 2),
    (0x600805C000000002, .br .gez 11 2),
    (0x600805D000000002, .br .gtz 11 2),
    (0x600805E000000002, .br .lez 11 2),
    (0x6010028000000002, .brany 5 2),
    (0x6018028000000002, .brall 5 2),
    (0x6020058000F00000, .jr 11),
    (0x602FC00100000000, .call 62 0x100000000),
    (0x6037C58000F00000, .callr 62 11),
    (0x60381F0000F00000, .ret 62),
    (0x6040007800000007, .brk 7),
    (0x60480078FFFFFFFF, .trap 0xFFFFFFFF)]
theorem test_words_control : wordsControl.all reads = true := by decide +kernel
theorem witness_issue_control : wordsControl.all (fun p => mayRun m0 th p.2) = true := by decide +kernel

/-- Major 0x70. -/
def wordsThreads : List (Word × Instr) := [
    (0x700145800000003F, .spawn 10 11 63),
    (0x7008000000F00000, .yield),
    (0x7010000000F00000, .retire),
    (0x7019431800F40000, .wait false 4 10 6 12),
    (0x7019431800FA0000, .wait true 2 10 6 12),
    (0x7020000000F00000, .gbar),
    (0x7028007800000005, .dbar 5),
    (0x7031400000F00000, .elect 10),
    (0x703945E000F00000, .gget 10 11 48),
    (0x7046E59800F00000, .gput 55 11 12),
    (0x7049400000F00000, .tnow 10)]
theorem test_words_threads : wordsThreads.all reads = true := by decide +kernel
theorem witness_issue_threads : wordsThreads.all (fun p => mayRun m0 th p.2) = true := by decide +kernel

/-- Major 0xB0. -/
def wordsSystem : List (Word × Instr) := [
    (0xB000A07800000001, .mfsr 5 1),
    (0xB008037800000023, .mtsr 6 0x23),
    (0xB010032200F00000, .tlbi .range 6 17),
    (0xB010032200F10000, .tlbi .asid 6 17),
    (0xB010032200F20000, .tlbi .all 6 17),
    (0xB018000000F00000, .tlbsync),
    (0xB022820A00000000, .pgmig 20 4 5),
    (0xB028020000F00000, .spsplit 4),
    (0xB032820000F00000, .thalt 20 4),
    (0xB03A820000F00000, .tresume 20 4),
    (0xB040000000F00000, .trapret),
    (0xB04A800000F00000, .snap 20),
    (0xB0508600000F0008, .bset ⟨12, 0, 8, .rlx, .thr, 0, .glob⟩ 4),
    (0xB05A820A00F00000, .agset 20 4 5)]
theorem test_words_system : wordsSystem.all reads = true := by decide +kernel
theorem witness_issue_system : wordsSystem.all (fun p => mayRun m0 th p.2) = true := by decide +kernel

/-- Hints. -/
def wordsPrefixes : List (Word × Instr) := [
    (0xE000000000000000, .nop 0),
    (0xEFFFFFFFFFFFFFFF, .nop 0xFFFFFFFFFFFFFFF)]
theorem test_words_prefixes : wordsPrefixes.all reads = true := by decide +kernel
theorem witness_issue_prefixes : wordsPrefixes.all (fun p => mayRun m0 th p.2) = true := by decide +kernel

/-- Majors 0x80, 0x88, 0x90 and 0xA0. -/
def wordsEngines : List (Word × Instr) := [
    (0x8002808000000000, .mxcmd 20 1),
    (0x8008020A30F00000, .mxgeom 4 5 6),
    (0x8010A00000F00000, .mxsub 5),
    (0x8019400000F00000, .mxstat 10),
    (0x8021400000F00000, .mxflag 10),
    (0x8802820A300000D9, .cpy 20 4 5 6 .sp .cw 5 true),
    (0x880A820A30000000, .cpy2d 20 4 5 6 .glob .glob 0 false),
    (0x8812C40000000064, .cpyc 22 8 100),
    (0x881B05060000070F, .cmcast 24 10 3 0x0F 7),
    (0x8822820A300000AD, .cfill 20 4 5 6 .sp .n64 2 true),
    (0x882A820028000004, .stash 20 4 0 5 4),
    (0x8832A20030010004, .resto 21 4 0 6 4 true),
    (0x883AE48000000001, .xpand 23 9 true),
    (0x9002820A300009C7, .gcopy 20 4 5 6 9 ⟨7, true, true⟩),
    (0x900A820A30000040, .gsend 20 4 5 6 ⟨0, true, false⟩),
    (0x9012E20A300000C7, .gcmp 23 4 5 6 ⟨7, true, true⟩),
    (0x901A820C08000000, .ghash 20 4 6 1 ⟨0, false, false⟩),
    (0x9022820A30003F00, .gfree 20 4 5 6 63 ⟨0, false, false⟩),
    (0x902A820A00000087, .gcount 20 4 5 0 ⟨7, false, true⟩),
    (0x9032E58000000085, .gintake 23 11 5 2),
    (0x903AE59800000000, .gtype 23 11 12),
    (0xA002800000F00000, .rfence 20),
    (0xA00A828000F00000, .rstat 20 5),
    (0xA0128284180000FF, .mldr 20 5 2 3 255),
    (0xA01B028C1800FF01, .mst 24 5 6 3 1 127 true),
    (0xA022828C00F00000, .agrd 20 5 6)]
theorem test_words_engines : wordsEngines.all reads = true := by decide +kernel
theorem witness_issue_engines : wordsEngines.all (fun p => mayRun m0 th p.2) = true := by decide +kernel

/-! ## Witnesses: register instructions

`witness_issue_…` above show a state and thread that meet `MayRun` for each form of ScalarArithmetic, ScalarBits, ScalarCompare,
ShortImmediate, HintsAndSoftwareTraps, VectorInteger, VectorSaturating, VectorFloat, FusedMultiplyAdd, VectorMovement,
VectorSingle, Reductions, Scan, VectorCompare, MaskOperations, MaskLanes, Conversions and BlockQuantisation. Where a statement
has further premises or cases, they follow here, under the statement's name. -/

/-- A thread with scalar registers set. -/
def regs (t : Thread) (l : List (SReg × Word)) : Thread := l.foldl (fun t p => t.setS p.1 p.2) t
def th.with (l : List (SReg × Word)) : Thread := regs th l
def runs (t : Thread) (l : List Instr) : Bool := l.all (mayRun (on t) t)

theorem runs_ok {t : Thread} {l : List Instr} (h : runs t l = true) : ∀ i ∈ l, MayRun (on t) t i :=
  fun i hi => mayRun_ok (List.all_eq_true.1 h i hi)

def divs (w : SWidth) : List Instr := [.div w 1 2 3, .divn w 1 2 3, .rem w 1 2 3, .remn w 1 2 3]

theorem witness_ScalarDivision :
    (runs (th.with [(3, 1)]) (divs .w32) = true ∧ ((th.with [(3, 1)]).s 3).toNat % 2 ^ SWidth.w32.bits ≠ 0)
    ∧ runs (th.with [(3, 0x100000000)]) (divs .w32) = true ∧ ((th.with [(3, 0x100000000)]).s 3).toNat % 2 ^ SWidth.w32.bits = 0
    ∧ runs (th.with [(3, 0x100000000)]) (divs .w64) = true ∧ ((th.with [(3, 0x100000000)]).s 3).toNat % 2 ^ SWidth.w64.bits ≠ 0 := by
  decide +kernel

/-- `clz` and `ctz` with k = W (every bit zero) and k = 0 (the first one looked at is one). -/
theorem witness_ScalarBits :
    runs th [.clz .w64 1 9, .ctz .w64 1 9, .clz .w32 1 9] = true ∧ (∀ j < 64, (th.s 9).getLsbD (63 - j) = false)
    ∧ (∀ j < 64, (th.s 9).getLsbD j = false)
    ∧ runs (th.with [(9, 0x8000000000000001)]) [.clz .w64 1 9, .ctz .w64 1 9] = true
    ∧ ((th.with [(9, 0x8000000000000001)]).s 9).getLsbD 63 = true ∧ ((th.with [(9, 0x8000000000000001)]).s 9).getLsbD 0 = true := by
  decide +kernel

theorem witness_ScalarImmediate :
    let l : List Instr := [.li .i64 1 7, .lih 1 2 7, .addi .w64 1 2 7, .andi .w32 1 2 7, .ori .w64 1 2 7, .xori .w64 1 2 7, .adr 1 8,
      .cmpi .w64 .lt 1 2 7]
    runs th l = true ∧ l.all (·.imxOk) = true := by decide +kernel

theorem witness_Branches :
    runs th [.bra 0, .bra (-0x4000), .br .eqz 9 4, .br .nez 9 4, .br .ltz 9 4, .br .gez 9 4, .br .gtz 9 4, .br .lez 9 4, .brany 1 4,
      .brall 1 4, .brany 0 4, .brall 0 4] = true
    ∧ (th.s 9 == 0) = true ∧ (th.s 9 != 0) = false ∧ (th.pc + (0#33).signExtend 64 * 8).toNat < 2 ^ 57
    ∧ 2 ^ 57 ≤ (th.pc + (-0x4000#33).signExtend 64 * 8).toNat := by decide +kernel

theorem witness_Jumps :
    runs (th.with [(9, 0x1FFFFFFFFFFFFF8)]) [.jr 9, .ret 9, .call 5 0, .callr 5 9] = true
    ∧ ((th.with [(9, 0x1FFFFFFFFFFFFF8)]).s 9).toNat % 8 = 0 ∧ ((th.with [(9, 0x1FFFFFFFFFFFFF8)]).s 9).toNat < 2 ^ 57
    ∧ runs (th.with [(9, 4)]) [.jr 9, .ret 9, .callr 5 9] = true ∧ ((th.with [(9, 4)]).s 9).toNat % 8 ≠ 0
    ∧ runs (th.with [(9, 0x200000000000000)]) [.jr 9, .ret 9, .callr 5 9, .call 5 (-0x4000)] = true
    ∧ ((th.with [(9, 0x200000000000000)]).s 9).toNat % 8 = 0 ∧ 2 ^ 57 ≤ ((th.with [(9, 0x200000000000000)]).s 9).toNat
    ∧ 2 ^ 57 ≤ (th.pc + (-0x4000#33).signExtend 64 * 8).toNat := by decide +kernel

/-- Two vector registers and one scalar, of one lane's part each: the destinations of `vcvtq` do not overlap. -/
theorem witness_BlockQuantisation :
    runs th [.vcvtq .e4m3 .s0 .rne true 0 0 5 6 10] = true ∧ th.granules (.v 5) &&& th.granules (.s 10) = 0 := by decide +kernel

theorem witness_LaneRule : 63 < ElemType.f32.lanes ∧ 255 < ElemType.i8.lanes := by decide

theorem witness_TranslationFrame : m0.softLines = [] ∧ m0.badLines = [] ∧
    (match m0.translate (some 0) 1 0x10100 ⟨true, true, false, false⟩ with | .ok .. => true | _ => false) = true := by decide +kernel

/-! ## Witnesses: accesses -/

/-- Premises of `Reaches`, and a test of the state and elements that come of the check. -/
def reachB (s : State) (t : Thread) (i : Instr) (a : Acc) (space : Space) (n : Nat) (lanes : List (Nat × Nat))
    (value : Nat → Option (Nat × Nat)) (f : State → List Elem → Bool) : Bool :=
  match State.checkElems (t.begunImx none) a space n (s.begun t i) lanes with
  | .ok s₁ es => decide ((t.begunImx none).watchHit a space n (lanes.map (fun l => (l.1, l.2, value l.1))) = none)
      && decide ((t.begunImx none).ctxMissing n es = 0) && !es.any ((t.begunImx none).elemHeld a space n) && f s₁ es
  | _ => false

theorem reachB_ok {s : State} {t : Thread} {i : Instr} {a : Acc} {space : Space} {n : Nat} {lanes : List (Nat × Nat)}
    {value : Nat → Option (Nat × Nat)} {f : State → List Elem → Bool} (h : reachB s t i a space n lanes value f = true) :
    ∃ s₁ es, Reaches s t i none a space n lanes value s₁ es ∧ f s₁ es = true := by
  unfold reachB at h
  split at h
  · rename_i s₁ es he
    simp only [Bool.and_eq_true, Bool.not_eq_true', decide_eq_true_eq] at h
    exact ⟨s₁, es, ⟨he, h.1.1.1, h.1.1.2, h.1.2⟩, h.2⟩
  · exact absurd h (by simp)

/-- Premises of `MayLoad`. -/
def loadB (t : Thread) (n : Nat) (ord : MemOrd) (sc : Scope) (s₁ : State) (es : List Elem) : Bool :=
  (match s₁.outside (.thread t.id) t (s₁.asidOf t) (ordAcquires ord && wideScope sc) 1 es with | .ready => true | _ => false)
    && decide (s₁.firstBad t.begun n es = none) && s₁.mayRelease t true sc

theorem loadB_ok {t : Thread} {n : Nat} {ord : MemOrd} {sc : Scope} {s₁ : State} {es : List Elem}
    (h : loadB t n ord sc s₁ es = true) : MayLoad s₁ t n ord sc es := by
  unfold loadB at h
  simp only [Bool.and_eq_true, decide_eq_true_eq] at h
  refine ⟨?_, h.1.2, fun _ => h.2⟩
  have := h.1.1
  split at this
  · assumption
  · exact absurd this (by simp)

/-- Premises of `MayStore`. -/
def storeB (t : Thread) (ord : MemOrd) (sc : Scope) (s₁ : State) (es : List Elem) : Bool :=
  es.all (fun e => match e.place with
    | .hbm pa _ => s₁.resident pa
    | .peer .. => false
    | _ => true) && s₁.mayRelease t (ordReleases ord) sc && s₁.threads.all (fun u => decide (u.block = .bar → u.ss = false))

theorem storeB_ok {t : Thread} {ord : MemOrd} {sc : Scope} {s₁ : State} {es : List Elem}
    (h : storeB t ord sc s₁ es = true) : MayStore s₁ t ord sc es := by
  unfold storeB at h
  simp only [Bool.and_eq_true, List.all_eq_true, decide_eq_true_eq] at h
  refine ⟨fun e he => ?_, h.1.2, h.2⟩
  have := h.1.1 e he
  revert this
  cases e.place <;> simp

/-- Base register s4 in the mapped page of the program, s5 an operand; or offset 0x100 of the scratchpad. -/
def thM : Thread := th.with [(4, 0x10100), (5, 0x100), (6, 0x10101), (8, 0x10000)]
def mG : MemOp := ⟨4, 0, 0, .sc, .sys, 0, .glob⟩
def mR : MemOp := { mG with ord := .rlx }
def mP : MemOp := ⟨5, 0, 0, .rlx, .gang, 0, .sp⟩
def mC : MemOp := ⟨5, 0, 0, .rlx, .thr, 0, .cx⟩

/-- An access of an instruction: its kind and space, bytes of an element, lanes with their addresses, values stored. -/
structure Case where
  i : Instr
  a : Acc
  space : Space
  n : Nat
  lanes : List (Nat × Nat)
  value : Nat → Option (Nat × Nat) := fun _ => none

def Case.reached (c : Case) (s : State) (t : Thread) (f : State → List Elem → Bool) : Bool :=
  mayRun s t c.i && reachB s t c.i c.a c.space c.n c.lanes c.value f

def Meets (c : Case) (s : State) (t : Thread) (P : State → List Elem → Prop) : Prop :=
  ∃ s₁ es, MayRun s t c.i ∧ Reaches s t c.i none c.a c.space c.n c.lanes c.value s₁ es ∧ P s₁ es

theorem reached_ok {c : Case} {s : State} {t : Thread} {f : State → List Elem → Bool} {P : State → List Elem → Prop}
    (h : c.reached s t f = true) (hp : ∀ s₁ es, f s₁ es = true → P s₁ es) : Meets c s t P := by
  simp only [Case.reached, Bool.and_eq_true] at h
  obtain ⟨s₁, es, hr, hf⟩ := reachB_ok h.2
  exact ⟨s₁, es, mayRun_ok h.1, hr, hp s₁ es hf⟩

theorem all_ok {α : Type} {l : List α} {f : α → Bool} {P : α → Prop} (h : l.all f = true) (hp : ∀ x, f x = true → P x) :
    ∀ x ∈ l, P x := fun x hx => hp x (List.all_eq_true.1 h x hx)

def oneLoad (m : MemOp) : Case := { i := .ld .i32 m 7, a := .load, space := m.space, n := 4, lanes := [(0, (effAddr thM m none).toNat)] }

/-- In memory, in the scratchpad and in the register space. -/
theorem witness_ScalarLoad : ∀ m ∈ [mG, mP, mC], Meets (oneLoad m) (on thM) thM
    (fun s₁ es => es.length = 1 ∧ MayLoad s₁ (thM.begunImx none) 4 m.ord m.scope es) :=
  all_ok (f := fun m => (oneLoad m).reached (on thM) thM
    (fun s₁ es => decide (es.length = 1) && loadB (thM.begunImx none) 4 m.ord m.scope s₁ es)) (by decide +kernel)
    (fun m h => reached_ok h (fun s₁ es h => by
      simp only [Bool.and_eq_true, decide_eq_true_eq] at h
      exact ⟨h.1, loadB_ok h.2⟩))

/-- Two lanes enabled by k1. -/
def thK : Thread := thM.setK 1 0x11
def manyLoads : List Case := [
  ⟨.vld .f32 mR 1 32, .load, .glob, 4, laneAddrs .f32 (thK.k 1) (unitAddr thK mR none .f32), fun _ => none⟩,
  ⟨.vlds .n8 mR 1 5, .load, .glob, 1, laneAddrs .n8 (thK.k 1) (strideAddr thK mR none), fun _ => none⟩,
  ⟨.vgat .i32 mR 1 5, .load, .glob, 4, laneAddrs .i32 (thK.k 1) (indexAddr thK mR none), fun _ => none⟩,
  ⟨.vldb .f32 mR 1 5, .load, .glob, 4, (laneAddrs .f32 (thK.k 1) (fun _ => effAddr thK mR none)).take 1, fun _ => none⟩]

theorem witness_VectorLoads : ∀ c ∈ manyLoads, Meets c (on thK) thK (fun s₁ es => MayLoad s₁ (thK.begunImx none) c.n .rlx .sys es) :=
  all_ok (f := fun c => c.reached (on thK) thK (fun s₁ es => loadB (thK.begunImx none) c.n .rlx .sys s₁ es)) (by decide +kernel)
    (fun c h => reached_ok h (fun _ _ h => loadB_ok h))

def oneStore (m : MemOp) : Case := { i := .st .i32 m 1, a := .store, space := m.space, n := 4
                                     lanes := [(0, (effAddr thM m none).toNat)], value := fun _ => some ((thM.s 1).toNat % 2 ^ 32, 32) }

theorem witness_ScalarStore : ∀ m ∈ [mG, mP, mC], Meets (oneStore m) (on thM) thM
    (fun s₁ es => es.length = 1 ∧ MayStore s₁ (thM.begunImx none) m.ord m.scope es) :=
  all_ok (f := fun m => (oneStore m).reached (on thM) thM
    (fun s₁ es => decide (es.length = 1) && storeB (thM.begunImx none) m.ord m.scope s₁ es)) (by decide +kernel)
    (fun m h => reached_ok h (fun s₁ es h => by
      simp only [Bool.and_eq_true, decide_eq_true_eq] at h
      exact ⟨h.1, storeB_ok h.2⟩))

/-- A store from `sq`, and one whose lanes all name one address. -/
def manyStores : List Case := [
  ⟨.vst .f32 mR 1 33, .store, .glob, 4, laneAddrs .f32 (thK.k 1) (unitAddr thK mR none .f32), fun n => some (lane (3 : VecBits) 32 n, 32)⟩,
  ⟨.vsts .n8 mR 1 5, .store, .glob, 1, laneAddrs .n8 (thK.k 1) (strideAddr thK mR none), fun n => some (lane (thK.v 5) 8 n, 8)⟩,
  ⟨.vsca .i32 mR 1 5, .store, .glob, 4, laneAddrs .i32 (thK.k 1) (indexAddr thK mR none), fun n => some (lane (thK.v 5) 32 n, 32)⟩]

theorem witness_VectorStores : ∀ c ∈ manyStores, Meets c (on thK) thK (fun s₁ es => MayStore s₁ (thK.begunImx none) .rlx .sys es) :=
  all_ok (f := fun c => c.reached (on thK) thK (fun s₁ es => storeB (thK.begunImx none) .rlx .sys s₁ es)) (by decide +kernel)
    (fun c h => reached_ok h (fun _ _ h => storeB_ok h))

/-- A misaligned address, the first offset past the scratchpad, and the first and last words of the control area. -/
theorem witness_AccessChecks :
    let past : Thread := th.with [(5, BitVec.ofNat 64 (m0.padBytes th))]
    let ctl (a : Word) : Thread := th.with [(5, a)]
    runs (th.with [(4, 0x10102)]) [.ld .i32 mR 7, .st .i32 mR 7] = true ∧ (effAddr (th.with [(4, 0x10102)]) mR none).toNat % 4 ≠ 0
    ∧ runs past [.ld .i32 mP 7, .st .i32 mP 7] = true ∧ (effAddr past mP none).toNat % 4 = 0
    ∧ (on past).padBytes past < (effAddr past mP none).toNat + 4
    ∧ [0x3000#64, 0x3FFC#64].all (fun a => decide (runs (ctl a) [.st .i32 mC 7] = true ∧ (effAddr (ctl a) mC none).toNat % 4 = 0
      ∧ 0x3000 ≤ (effAddr (ctl a) mC none).toNat ∧ (effAddr (ctl a) mC none).toNat + 4 ≤ 0x4000 ∧ (ctl a).trapRec.handler = false)) = true := by
  decide +kernel

def aop (ty : ElemType) (space : Space) (nr : Bool) : AtomOp :=
  ⟨ty, if nr then 0 else 7, if space = .sp then 5 else 4, 1, if space = .sp then .rlx else .sc, if space = .sp then .gang else .sys, 0, space, nr⟩
def atomics (space : Space) (nr : Bool) : List Instr :=
  let i := aop .i32 space nr
  let n := aop .n32 space nr
  let f := aop .f32 space nr
  [.aadd i, .aand n, .aor n, .axor n, .amin i, .amax i, .aminn n, .amaxn n, .aswp n, .ainc n, .adec n, .afadd f, .afmin f, .afmax f] ++ if nr then [] else [.acas n 2]

def atomicCase (space : Space) (i : Instr) : Case := { i := i, a := .atomic, space := space, n := 4
                                                       lanes := [(0, (thM.s (if space = .sp then 5 else 4)).toNat)]
                                                       value := fun _ => some ((thM.s 1).toNat, 32) }

def atomicB (s₁ : State) (es : List Elem) : Bool :=
  decide (es.length = 1) && storeB thM.begun .sc .sys s₁ es && decide (s₁.firstBad thM.begun 4 es = none)
    && es.all (fun e => match e.place with | .ctx _ => false | _ => true)

/-- In memory and in the scratchpad, with and without a result; `acas` always has one. -/
theorem witness_Atomics : ∀ q ∈ [(Space.glob, false), (.sp, false), (.glob, true)],
    ((atomics q.1 q.2).map (atomicCase q.1)).all (fun c => c.reached (on thM) thM atomicB) = true := by decide +kernel

theorem witness_Fences :
    ([.acq, .rel, .sc] : List MemOrd).all (fun o => mayRun m0 th (.fence o .sys)
      && (m0.begun th (.fence o .sys)).mayRelease th.begun (ordReleases o) .sys) = true := by decide +kernel

/-! ## Witnesses: barrier words -/

/-- The machine with a word at s4's address. -/
def onWord (t : Thread) (w : Word) : State := (on t).writePA (32 * 4096 + 0x100) (bytesOfWord w)
def barCase (i : Instr) (a : Acc) : Case := { i := i, a := a, space := .glob, n := 8, lanes := [(0, 0x10100)], value := fun _ => some (0, 32) }
def barB (t : Thread) (s₁ : State) (es : List Elem) : Bool :=
  decide (es.length = 1) && storeB t.begun .rel .sys s₁ es && decide (s₁.firstBad t.begun 8 es = none)
    && es.all (fun e => match e.place with | .ctx _ => false | _ => true)

/-- A watchpoint of four bytes in memory, of every kind; the last byte it covers and the first it does not; without a value, and with one. -/
def watchW (ctl : Word) : Thread := { thM with watches := [⟨0x10100, ctl⟩, ⟨0x10100, ctl⟩] }
theorem witness_AccessChecks_watch :
    let on' (t : Thread) (i : Instr) (a : Acc) (n : Nat) : Bool := mayRun (on t) t i && !t.begun.skipsWatches
      && (match State.checkElems t.begun a .glob n ((on t).begun t i) [(0, 0x10100)] with | .ok .. => true | _ => false)
    [0x400F#64, 0xFFFFFFFF0000408F#64].all (fun ctl => let t := watchW ctl
      on' t (.ld .i32 mR 7) .load 4 && on' t (.st .i32 mR 7) .store 4 && on' t (.aadd (aop .i32 .glob false)) .atomic 4
        && t.watches[0]? == some ⟨0x10100, ctl⟩ && ctl.getLsbD 0 && ctl.getLsbD 1 && ctl.getLsbD 2 && ctl.getLsbD 3
        && getBits ctl 8 4 == 0 && !ctl.getLsbD 6 && (getBits ctl 4 2).toNat == spaceCode .glob && (getBits ctl 12 20).toNat == 4) = true
    ∧ (0x10103 < 0x10100 + 4 ∧ ¬0x10104 < 0x10100 + 4) ∧ (0x400F#64).getLsbD 7 = false ∧ (0xFFFFFFFF0000408F#64).getLsbD 7 = true := by
  decide +kernel

/-- `binit` with EXPECT 1 and 2^20 - 1; `bara` at an arrival that leaves the phase open, and at its last. -/
theorem witness_BarrierArrival :
    [1#64, 0xFFFFF#64].all (fun x => (barCase (.binit mR 5) .atomic).reached (on (thM.setS 5 x)) (thM.setS 5 x) (barB (thM.setS 5 x))
      && decide (1 ≤ ((thM.setS 5 x).s 5).toNat) && decide (((thM.setS 5 x).s 5).toNat < 2 ^ 20)) = true
    ∧ [0x200000#64, 0x200001#64].all (fun w => (barCase (.bara mR 5) .atomic).reached (onWord thM w) thM (barB thM)
      && decide (barExpect w ≠ 0) && (onWord thM w).readWordPA (32 * 4096 + 0x100) == w) = true
    ∧ barArrived 0x200000 + 1 < barExpect 0x200000 ∧ ¬barArrived 0x200001 + 1 < barExpect 0x200001 := by decide +kernel

/-- `bar` at the last arrival and before it; `barw` for a phase complete and not; `bstat`. -/
theorem witness_BarrierWait :
    [0x200000#64, 0x200001#64].all (fun w => (barCase (.bar mR 5) .atomic).reached (onWord thM w) thM (barB thM)) = true
    ∧ [0#64, 1#64].all (fun p => (barCase (.barw mR 5) .barRead).reached (onWord (thM.setS 5 p) (1#64 <<< 40)) (thM.setS 5 p)
        (barB (thM.setS 5 p))) = true
    ∧ barCompleted (1#64 <<< 40) 0 = true ∧ barCompleted (1#64 <<< 40) 1 = false
    ∧ (barCase (.bstat mR 5) .barRead).reached (onWord thM 7) thM (fun s₁ es => barB thM s₁ es
        && decide (s₁.gbarGang 1 0x10100 = none)) = true
    ∧ (let t := thM.setS 4 0x20000
      let c : Case := { barCase (.bstat mR 5) .barRead with lanes := [(0, 0x20000)] }
      c.reached { on t with tasks := [{ fetchTask with arena := 0x1C000 }] } t (fun s₁ es => barB t s₁ es
        && (s₁.gbarGang 1 0x20000).any (fun g => g.cluster.isSome))) = true := by decide +kernel

/-! ## Witnesses: cache operations -/

def rangeB (t : Thread) (i : Instr) (a : Acc) (value : Option (Nat × Nat)) (va n : Nat) : Bool :=
  match ((on t).begun t i).checkRange (t.begunImx none) a .glob va n with
  | .ok s₁ ps => decide ((t.begunImx none).watchHit a .glob n [(0, va, value)] = none)
      && !ps.any (fun q => (t.begunImx none).elemHeld a .glob q.n ⟨0, q.va, q.place⟩)
      && storeB (t.begunImx none) .rlx .sys s₁ (ps.map (fun q => ⟨0, q.va, q.place⟩)) && decide (t.zeroed = 0)
  | _ => false

/-- The empty range, and one of 256 bytes. -/
theorem witness_CacheOperations :
    runs (thM.setS 5 0) [.cwb mR 5, .cinv mR 5, .czero mR 5] = true ∧ (effAddr thM mR none).toNat % 256 = 0
    ∧ runs thM [.cwb mR 5, .cinv mR 5, .czero mR 5] = true ∧ (thM.s 5).toNat = 256
    ∧ rangeB thM (.cwb mR 5) .writeBack none 0x10100 256 = true ∧ rangeB thM (.cinv mR 5) .invalidate none 0x10100 256 = true
    ∧ rangeB thM (.czero mR 5) .zero (some (0, 32)) 0x10100 256 = true := by decide +kernel

/-- The page under ceiling 2, and a line of it that a store has made dirty: a `cinv` of the line, one of another line, and a
`cwb` meet their premises, and each memory copy has 256 bytes. -/
def dirtyM : State :=
  ((on thM).writePA (20 * 4096 + 8 * 16) (bytesOfWord ((32#64 <<< 32) ||| 0x80020F#64))).storeHome (.back 1 0x10100) (32 * 4096 + 0x100) [9] none
def cachedB (i : Instr) (a : Acc) (va : Nat) (f : State → Bool) : Bool :=
  match (dirtyM.begun thM i).checkRange (thM.begunImx none) a .glob va 256 with
  | .ok s₁ ps => cachedParts 1 ps == [(1, va, 0x10000 + va, 256)] && f s₁
  | _ => false
/-- The mapping alone holds sector 4104 beside memory, the first of the line. -/
def aloneB (s : State) : Bool := (sectorsOn 0x20100 256).contains 4104 && (match s.copies.lines.filter (·.sector == 4104) with
  | [e] => e.latest.length == 32 && e.only 1 (tagAt 0x10100 0x20100 4104) == some (s.readPA (32 * 4104) 32) && s.copies.held? 4104 == some e
  | _ => false)
theorem witness_CacheOperations_dirty : mayRun dirtyM thM (.cinv mR 5) = true ∧ mayRun dirtyM thM (.cwb mR 5) = true
    ∧ cachedB (.cinv mR 5) .invalidate 0x10100 aloneB = true ∧ cachedB (.cwb mR 5) .writeBack 0x10100 aloneB = true
    ∧ cachedB (.cinv mR 5) .invalidate 0x10200 (fun s => (sectorsOn 0x20200 256).all (fun k => s.copies.held? k == none)) = true := by
  decide +kernel

theorem witness_Prefetch : runs thM [.pf mR] = true ∧ (Instr.pf mR).imxOk = true ∧ (on thM).softLines = [] ∧ (on thM).badLines = [] := by decide +kernel

/-! ## Witnesses: the whole machine -/

/-- The premises of `wordsAt`, checked. -/
def wordsB (core : Option Nat) (asid : Nat) : State → Word → List Word → Bool
  | _, _, [] => true
  | s, va, w :: ws => va.toNat % 8 == 0 && (match s.translate core asid va.toNat ⟨false, false, true, !s.asidPriv asid⟩ with
    | .ok s₁ page _ leaf => pteMode leaf == 0 && !s₁.badAt (leafPA page leaf va.toNat) 8 && s₁.resident (leafPA page leaf va.toNat)
        && s₁.copies.code.all (fun o => !(o.asid == asid && o.word == leafPA page leaf va.toNat / 8))
        && s₁.readWordPA (leafPA page leaf va.toNat) == w && wordsB core asid (s₁.corrected (leafPA page leaf va.toNat) 8) (va + 8) ws
    | _ => false)

theorem wordsB_ok {core : Option Nat} {asid : Nat} : ∀ {ws : List Word} {s : State} {va : Word}, wordsB core asid s va ws = true →
    ∃ s', State.wordsAt core asid s va ws s'
  | [], s, va, _ => ⟨s, rfl⟩
  | w :: ws, s, va, h => by
    simp only [wordsB, Bool.and_eq_true, beq_iff_eq] at h
    obtain ⟨hv, h⟩ := h
    split at h
    · rename_i s₁ page size leaf ht
      simp only [Bool.and_eq_true, beq_iff_eq, Bool.not_eq_true'] at h
      obtain ⟨s', hs⟩ := wordsB_ok h.2
      exact ⟨s', hv, s₁, page, size, leaf, ht, h.1.1.1.1.1, h.1.1.1.1.2, h.1.1.1.2, h.1.1.2, h.1.2, hs⟩
    · exact absurd h (by simp)

/-- The machine of `m0`, with a group of two words at the PC: `imx 1` and a load. -/
def mGroup : State :=
  ((m0.writePA (32 * 4096) (bytesOfWord 0xF200000000000001)).writePA (32 * 4096 + 8) (bytesOfWord 0x4000808030070000))

theorem witness_StepRunsDecoded :
    (mGroup.mayIssue th = true ∧ mGroup.thread? th.id = some th ∧ mGroup.deferred = [] ∧ mGroup.afterDeposits th.id = mGroup
      ∧ mGroup.acquired th.fencing .sys = mGroup ∧ mGroup.repCleared { th with fencing := false } = th
      ∧ mGroup.fenceWaits th = false ∧ th.hasControl = true ∧ th.breakHit = none
      ∧ wordsB (mGroup.coreOf th) (mGroup.asidOf th) mGroup th.pc [0xF200000000000001, 0x4000808030070000] = true
      ∧ decodeGroup [0xF200000000000001, 0x4000808030070000] = .ok (.imx 1 (.ld .n64 ⟨1, 0, 0, .rlx, .dev, 0, .glob⟩ 4))
      ∧ decodeGroup [] = .more ∧ decodeGroup [0xF200000000000001] = .more)
    ∧ (let s₀ := { mGroup with agenda := [⟨0, .thread th.id⟩] }
      s₀.agenda = ⟨0, .thread th.id⟩ :: [] ∧ { s₀ with agenda := [] } = mGroup)
    ∧ mGroup.agenda = [] ∧ mGroup.due = none ∧ (mGroup.pick.map (·.2)) = some th := by decide +kernel

/-- A breakpoint at the PC, the second of two of which the first is off; a thread that is not in a `rep`. -/
theorem witness_StepRunsDecoded_break :
    let t : Thread := { th with breaks := [⟨0x10000, 0⟩, ⟨0x10000, 1⟩] }
    let s := on t
    s.mayIssue t = true ∧ s.deferred = [] ∧ s.afterDeposits t.id = s ∧ s.acquired t.fencing .sys = s ∧ s.fenceWaits t = false ∧ t.hasControl = true
    ∧ s.repCleared { t with fencing := false } = t ∧ t.skipsBreaks = false ∧ t.repLeft = 0 ∧ t.breaks[1]? = some ⟨0x10000, 1⟩ ∧ t.pc = 0x10000
    ∧ t.pc.toNat % 8 = 0 ∧ (⟨0x10000, 0⟩ : DebugEntry).ctl ≠ 1
    ∧ (let s₀ := { s with agenda := [⟨0, .thread t.id⟩] }; s₀.thread? t.id = some t ∧ { s₀ with agenda := [] } = s)
    ∧ s.agenda = [] ∧ s.due = none ∧ (s.pick.map (·.2)) = some t := by decide +kernel

theorem witness_NeverStops : ((on thM).thread? (on thM).cur).isSome = true ∧ (Instr.pf mR).wf = true := by decide +kernel

theorem witness_MemoryCanonical :
    Memory.wf mGroup.mem = true ∧ (match step mGroup with | .next s' => Memory.wf s'.mem | _ => false) = true := by decide +kernel

theorem witness_DecodeEncode : (Instr.rep 4 8 0 0 0 (.vadd .i32 false 0 24 0 1)).wf = true ∧ (Instr.uni (.imx 1 (.addi .w64 1 2 3))).wf = true := by
  decide +kernel

theorem witness_DecodedGroups :
    decodeGroup [0xF100042000000000, 0x2003000200200000, 7] = .ok (.rep 4 8 0 0 0 (.vadd .i32 false 0 24 0 1)) := by decide +kernel

/-! ## Witnesses: issue checks, traps and returns -/

/-- A user thread with a privileged instruction; a register without write access; a pending register; an invalid source, the first
of two; a queue without entries. -/
theorem witness_IssueChecks :
    let i : Instr := .add .w64 10 11 12
    let p := th.setPending (.s 12)
    (on th false).thread? (on th false).cur = some th
      ∧ (Instr.tlbsync.needsPriv && !(on th false).asidPriv ((on th false).asidOf th)) = true
      ∧ (Instr.mtsr 1 0).wordWf = true ∧ (Instr.mtsr 1 0).noWriteAccess = true
      ∧ (on p).thread? (on p).cur = some p ∧ i.wordWf = true ∧ (i.needsPriv && !(on p).asidPriv ((on p).asidOf p)) = false
      ∧ i.noWriteAccess = false ∧ p.touches i &&& ~~~p.resident = 0 ∧ (i.reads ++ i.writes).any p.isPending = true
      ∧ (i.reads ++ i.writes).any fetchThread.isPending = false
      ∧ i.reads.find? (fun r => !fetchThread.isValid r) = some (.s 11)
      ∧ (let q : Thread := { th with lq := [] }
        let j : Instr := .vadd .i32 false 0 5 32 7
        j.reads.all q.isValid = true ∧ (q.queueFault j).isSome = true) := by decide +kernel

/-- A register line with an error, of a valid source. -/
theorem witness_IssueChecks_damaged :
    let i : Instr := .add .w64 10 11 12
    let b : Thread := { th with badRegs := th.granules (.s 11) }
    (on b).thread? (on b).cur = some b ∧ i.wordWf = true ∧ b.touches i &&& ~~~b.resident = 0 ∧ (i.reads ++ i.writes).any b.isPending = false
      ∧ i.reads.all b.isValid = true ∧ b.queueFault i = none ∧ (b.badRead i).isSome = true := by decide +kernel

/-- A trap that enters; one that halts; and a context with nothing cached in an ASID whose trap gang is served. -/
theorem witness_TrapEntry :
    let t : Thread := { th with tvec := 0x10080, trapen := BitVec.allOnes 32 }
    ((on t).thread? t.id).isSome = true ∧ t.trapen.getLsbD (Cause.num .arith) = true ∧ t.tvec ≠ 0 ∧ t.trapRec.info.getLsbD 8 = false
      ∧ th.trapen.getLsbD (Cause.num .arith) = false
      ∧ ({ th with resident := 0 } : Thread).resident = 0 ∧ (m0.setDirWord 1 0x20 0x20008).trapServed 1 = true := by decide +kernel

/-- A thread that single-steps, before each group shown, and before a `rep` of two iterations and of the most. -/
theorem witness_TrapEntry_step :
    let t : Thread := { th with ss := true }
    (on t).thread? (on t).cur = some t ∧ t.ss = true ∧ t.run = .active ∧ th.repLeft = 0 ∧ t.block ≠ .bar ∧ t.barPassed = false
    ∧ [Instr.add .w64 10 11 12, .nop 0, .bra 0].all (mayRun ((on t).setThread th) th) = true ∧ (t.pc + (0#33).signExtend 64 * 8).toNat < 2 ^ 57
    ∧ [2#16, 0xFFFF#16].all (fun n => (Instr.rep n 0 0 0 0 (.add .w64 10 11 12)).wf && decide (2 ≤ n.toNat)) = true := by decide +kernel

/-- In a handler, and outside one. -/
theorem witness_TrapReturn :
    let t : Thread := { th with trapRec := { th.trapRec with info := 0x100 } }
    runs t [.trapret] = true ∧ t.trapRec.info.getLsbD 8 = true ∧ runs th [.trapret] = true ∧ th.trapRec.info.getLsbD 8 = false := by
  decide +kernel

/-! ## Witnesses: prefix groups -/

def gOpen (n : Word) (pc : Word) : Gang := { fetchGang with uniOpen := true, uniN := n, uniPC := pc, uniExec := 1 }
def withGang (g : Gang) : State := { m0 with gangs := [g] }
def posted : Gang := { gOpen 1 0x10000 with uniDone := true, uniPost := [(0, 10)], uniArrived := 1, uniExec := 0, uniWords := 2 }

theorem witness_Uniform :
    let i : Instr := .add .w64 10 11 12
    let u (g : Gang) : Bool := mayRun (withGang g) th i && decide ((withGang g).gangOf th = some g)
    (u fetchGang = true ∧ fetchGang.uniOpen = false ∧ th.uniCount + 1 = fetchGang.uniClosed + 1 ∧ th.block ≠ .bar ∧ th.barPassed = false ∧ th.id.rank < 32)
    ∧ (u (gOpen 1 0x10000) = true ∧ th.uniCount + 1 = (gOpen 1 0x10000).uniN ∧ th.pc = (gOpen 1 0x10000).uniPC
      ∧ (gOpen 1 0x10000).uniExec.toNat ≠ th.id.rank)
    ∧ (u (gOpen 2 0x10000) = true ∧ th.uniCount + 1 ≠ (gOpen 2 0x10000).uniN)
    ∧ (u (gOpen 1 0x10008) = true ∧ th.pc ≠ (gOpen 1 0x10008).uniPC)
    ∧ (u { fetchGang with uniClosed := 1 } = true ∧ th.uniCount + 1 ≠ ({ fetchGang with uniClosed := 1 } : Gang).uniClosed + 1)
    ∧ (withGang posted).gang? 0 0 = some posted ∧ posted.uniOpen = true ∧ posted.uniDone = true ∧ posted.cluster.isSome = true
    ∧ posted.uniPost = [(0, (10 : SReg).toNat)] ∧ (withGang posted).thread? ⟨0, 0, posted.uniExec.toNat⟩ = some th
    ∧ ((withGang posted).mates 0 0).all (fun t => (t.run == .retired || posted.uniArrived.getLsbD t.id.rank) && t.resident == allLines
        && !t.ss && viewsOk t.vwS.toNat t.vwK.toNat t.vwV.toNat) = true := by decide +kernel

/-- COUNT 0; a first iteration, which is the last with COUNT 1 and not with COUNT 2; a second one; and one whose D leaves its class
by one. -/
theorem witness_Repeats :
    let rep (n : BitVec 16) (d : SReg) : Instr := .rep n 1 0 0 0 (.add .w64 d 11 12)
    let t₁ : Thread := { th with repLeft := 1, repIter := 1 }
    (rep 0 10).wf = true ∧ (rep 1 10).wf = true ∧ (rep 2 63).wf = true ∧ th.block ≠ .bar ∧ th.barPassed = false
      ∧ runs th [.add .w64 10 11 12] = true ∧ th.repLeft = 0 ∧ ((10 : SReg).toNat : Int) + (0 : Nat) * (1 : BitVec 6).toInt = (10 : SReg).toNat
      ∧ runs t₁ [.add .w64 11 11 12] = true ∧ ((10 : SReg).toNat : Int) + t₁.repIter.toNat * (1 : BitVec 6).toInt = (11 : SReg).toNat
      ∧ runs t₁ [.add .w64 63 11 12] = true
      ∧ ¬(((63 : SReg).toNat : Int) + t₁.repIter.toNat * (1 : BitVec 6).toInt < 64) := by decide +kernel

/-! ## Witnesses: threads and domains -/

/-- Another thread of the gang, on the next core or, as rank 8, on the same one (R25). -/
def pair (t u : Thread) (rank : Nat := 1) : State :=
  { on t with tasks := [{ fetchTask with size := 16 }], threads := [t, { u with id := ⟨0, 0, rank⟩, cbase := 0x24000 }] }

theorem witness_Reports :
    let t (x : Word) := th.with [(11, x)]
    runs th [.tnow 10, .qstat 10, .mxstat 10] = true
    ∧ [65534#64, 65535#64, 65536#64].all (fun x => runs (t x) [.rstat 10 11]) = true
    ∧ [255#64, 256#64].all (fun x => runs (t x) [.agrd 10 11 12]) = true
    ∧ [0#64, 1#64].all (fun x => runs (t x) [.gget 10 11 48, .gget 10 11 55, .gget 10 11 47, .gget 10 11 56]) = true
    ∧ ((t 0).s 11).toNat < (on (t 0)).gangSize (t 0) ∧ (on (t 0)).thread? ⟨0, 0, 0⟩ = some (t 0) ∧ (t 0).resident = allLines
    ∧ (on (t 1)).gangSize (t 1) ≤ ((t 1).s 11).toNat := by decide +kernel

def withPort (x : Port) : State := { m0 with ports := m0.ports.set 3 x }

theorem witness_ThreadControl :
    let x : Port := { m0.port 3 with asid := 1 }
    let sp : Instr := .spawn 10 9 3
    let t₁ := th.with [(11, 1)]
    let ret : Thread := { th with run := .retired }
    (mayRun m0 th sp = true ∧ (m0.port 3).asid ≠ m0.asidOf th)
    ∧ (mayRun (withPort { x with state := .busy }) th sp = true ∧ ({ x with state := .busy } : Port).takesHead = false
      ∧ ({ x with state := .busy } : Port).asid = m0.asidOf th)
    ∧ (mayRun (withPort x) th sp = true ∧ (withPort x).port 3 = x ∧ x.takesHead = true
      ∧ ((withPort x).begun th sp).mayRelease th.begun true .sys = true ∧ (th.s 9).toNat % 256 = 0 ∧ (th.s 9).toNat < 2 ^ 57)
    ∧ (runs th [.yield, .retire, .elect 10] = true ∧ m0.threads.any (fun u => m0.readyResident u && u.id != th.id) = false)
    ∧ (let s := pair th { th with run := .resident, slot := none } 8
      mayRun s th .yield = true ∧ s.threads.any (fun u => s.readyResident u && u.id != th.id && s.coreOf u == s.coreOf th) = true)
    ∧ m0.gangOf th = some fetchGang
    ∧ (let s := pair t₁ th
      mayRun s t₁ (.gput 48 11 12) = true ∧ mayRun s t₁ (.gput 55 11 12) = true ∧ (t₁.s 11).toNat < s.gangSize t₁
      ∧ (s.thread? ⟨0, 0, 1⟩).any (fun u => u.run == .active && u.resident == allLines && !u.isPending (.s 48)) = true)
    ∧ (mayRun (pair th th) th (.gput 48 9 12) = true ∧ th.s 9 = 0 ∧ (pair th th).thread? ⟨0, 0, 0⟩ = some th)
    ∧ (mayRun (pair t₁ ret) t₁ (.gput 48 11 12) = true
      ∧ ((pair t₁ ret).thread? ⟨0, 0, 1⟩).any (fun u => u.run == .retired) = true) := by decide +kernel

/-- A condition that holds (kind 0 on s0), one that does not (kind 0 on an invalid s10), and one on a word of memory that holds. -/
def waitV (c : Word) : Thread := { fetchThread.setS 9 0 |>.setV 5 (c.setWidth 2048) with lq := [] }
def waitI (n : BitVec 3) : Instr := .wait false n 10 5 9

def waitB (t : Thread) (n : Nat) : Bool :=
  let s := on t
  let i := waitI (BitVec.ofNat 3 n)
  let cs := tabulate n (fun k => getBits (t.v 5) (64 * k) 64)
  mayRun s t i && cs.all (fun c => !condBad c && (!condReads c || (t.isValid (.s (condReg c)) && !t.isPending (.s (condReg c)))))
    && (match State.checkWords t.begun (s.begun t i) ((List.range n).zip cs) with
      | .ok s₁ es => decide (t.begun.watchHit .waitWord .glob 8 (es.map (fun e => (e.lane, e.addr, none))) = none)
          && es.all (fun e => match e.place with | .hbm pa _ => !s₁.dataBad pa 8 | _ => false)
          && (List.range n).all (fun k => !condReads (cs.getD k 0) || es.any (fun e => e.lane == k))
      | _ => false)

/-- Words for kind 0 on s10, and kind 1, equal, with s9 at 0x10200. -/
def onS10 : Word := 10#64 <<< 54
def onMem : Word := (1#64 <<< 62) ||| (9#64 <<< 54) ||| 0x2040#64

theorem witness_WaitsAndBarriers :
    (waitB (waitV 0) 1 = true ∧ condKind 0 = 0 ∧ condReg 0 = 0)
    ∧ (waitB (waitV onS10) 1 = true ∧ condReg onS10 = 10 ∧ (waitV onS10).isValid (.s 10) = false)
    ∧ (waitB (waitV onMem) 1 = true ∧ condReads onMem = true ∧ condOp onMem = 0)
    ∧ (waitB (waitV 0) 0 = true ∧ (waitV 0).s 9 = 0)
    ∧ (runs th [.gbar, .dbar 1] = true ∧ m0.gangOf th = some fetchGang ∧ (m0.mates 0 0).all (fun u => u.run == .retired || u.id.rank == 0) = true)
    ∧ (mayRun (pair th th) th .gbar = true ∧ mayRun (pair th th) th (.dbar 1) = true ∧ (pair th th).gangOf th = some fetchGang
      ∧ ((pair th th).mates 0 0).all (fun u => u.run == .retired || u.id.rank == 0) = false)
    ∧ (runs th [.dbar 0, .dbar 2, .dbar 3, .dbar 4] = true ∧ (m0.dmem th).toNat % 8 = 3) := by decide +kernel

/-! ## Witnesses: the system family -/

def sregNumbers : List (BitVec 32) :=
  [0x00, 0x01, 0x02, 0x03, 0x04, 0x05, 0x06, 0x07, 0x08, 0x09, 0x0A, 0x0B, 0x0C, 0x0D, 0x0E, 0x0F, 0x10, 0x20, 0x21, 0x22, 0x23]

/-- Every register read; those that may be written; and values at the edges of what TVEC, TSTAT and VIEWS take. -/
theorem witness_SpecialRegisters :
    let t (x : Word) := th.with [(9, x)]
    m0.taskOf th = some fetchTask ∧ runs th (sregNumbers.map (.mfsr 10)) = true
    ∧ [0#64, 8#64, 4#64, 0x3FFF0000#64, 0x10000#64, 0x0000100000000000#64, 0x0000000000002E00#64, 0x0000000000002E08#64,
        0x0001000000000000#64].all
      (fun x => runs (t x) ([0x08, 0x09, 0x0A, 0x0B, 0x0C, 0x20, 0x21, 0x22, 0x23, 0x06].map (.mtsr 9))) = true
    ∧ (0#64).toNat % 8 = 0 ∧ (4#64).toNat % 8 ≠ 0 ∧ 0x10000#64 &&& 0xFFC0000100000000#64 = 0
    ∧ 0x0001000100000000#64 &&& 0xFFC0000100000000#64 ≠ 0 ∧ viewsFault (0x0000040002000000 : Word) = none
    ∧ getBits (0x0001000000000000 : Word) 48 16 ≠ 0
    ∧ (getBits (4#64) 48 16 = 0 ∧ (getBits (4#64) 0 16).toNat % 8 ≠ 0)
    ∧ (getBits (0x2E08#64) 48 16 = 0 ∧ (getBits (0x2E08#64) 0 16).toNat % 8 = 0 ∧ (getBits (0x2E08#64) 16 16).toNat % 32 = 0
      ∧ (getBits (0x2E08#64) 32 16).toNat % 256 = 0 ∧ 0x3000 < (getBits (0x2E08#64) 0 16).toNat + 512) := by decide +kernel

/-- The page of the program, remapped by its leaf. -/
def remapped (s : State) (leaf : Word) : State := s.writePA (20 * 4096 + 8 * 16) (bytesOfWord leaf)
def isLeaf (s : State) (va : Nat) (f : Nat → Word → Bool) : Bool := match s.walk 1 va with
  | .leaf _ size leaf _ => f size leaf
  | _ => false
def waits (s : State) (va : Nat) : Bool := match s.walk 1 va with
  | .wait => true
  | _ => false

/-- What `pgmig` meets: an unmapped page; a frame number of 2^32; a page of this device; a page of device 5, with the fabric and
without; a page of the host. -/
theorem witness_Management_pgmig :
    let t (f : Word) := th.with [(9, 0x10000), (10, f)]
    runs th [.pgmig 11 9 10] = true ∧ m0.underMigration 1 0 = false ∧ waits m0 0 = false ∧ isLeaf m0 0 (fun _ _ => true) = false
    ∧ [60#64, 0x100000000#64].all (fun f => runs (t f) [.pgmig 11 9 10]) = true ∧ waits m0 0x10000 = false
    ∧ isLeaf m0 0x10000 (fun size leaf => size == 4096 && pteMode leaf == 0) = true
    ∧ isLeaf (remapped m0 ((5#64 <<< 32) ||| 0x80004F#64)) 0x10000 (fun _ leaf => pteMode leaf != 0 && ptePeer leaf != 0xFFFF) = true
    ∧ isLeaf (remapped m0 ((0xFFFF#64 <<< 32) ||| 0x80004F#64)) 0x10000 (fun _ leaf => pteMode leaf != 0 && ptePeer leaf == 0xFFFF) = true
    ∧ m0.hasFabric = false ∧ ({ m0 with featAcc0 := 2, featLock := true } : State).hasFabric = true := by decide +kernel

theorem witness_Management_tlbi :
    let t := th.with [(9, 0x1FFFFFFFFFFFFFF), (10, 1)]
    let u := th.with [(9, 0x1FFFFFFFFFFFFFF), (10, 2)]
    runs t [.tlbi .range 9 10, .tlbi .asid 9 10, .tlbi .all 9 10] = true ∧ (t.s 9).toNat + (t.s 10).toNat ≤ 2 ^ 57
    ∧ runs u [.tlbi .range 9 10] = true ∧ 2 ^ 57 < (u.s 9).toNat + (u.s 10).toNat
    ∧ runs th [.tlbsync] = true ∧ (m0.begun th .tlbsync).inFlight th.id = false := by decide +kernel

/-- Another thread of the ASID, by its CBASE: halted, retired, parked, running; no thread; and the thread itself. A context in memory
whose PC is a multiple of 8, and one whose PC is not. -/
theorem witness_Management_threads :
    let t (c : Word) := th.with [(9, c)]
    let s (u : Thread) := pair (t 0x24000) u
    let both : List Instr := [.thalt 10 9, .tresume 10 9]
    let at' (u : Thread) : Bool := both.all (mayRun (s u) (t 0x24000)) && ((s u).target (t 0x24000) 0x24000).any (fun v => v.id.rank == 1 && v.run == u.run)
    at' th = true ∧ at' { th with run := .halted } = true ∧ at' { th with run := .retired } = true ∧ at' { th with run := .parked } = true
    ∧ (s th).midAtomic ⟨0, 0, 1⟩ = false
    ∧ ((s th).begun (t 0x24000) (.thalt 10 9)).linesHeldUp (t 0x24000).begun (t 0x24000).resident = false
    ∧ ((s th).target (t 0x24000) 0x24000).any (fun v => !((s th).begun (t 0x24000) (.tresume 10 9)).linesHeldUp v allLines) = true
    ∧ both.all (mayRun (s th) (t 0x24000)) = true ∧ (on (t 0)).target (t 0) 0 = none ∧ runs (t 0) both = true
    ∧ runs (t 0x20000) both = true ∧ ((on (t 0x20000)).target (t 0x20000) 0x20000).any (fun v => v.id == th.id) = true
    ∧ m0.resumeOk { th with run := .halted, resident := 0, id := ⟨0, 0, 1⟩, cbase := 0xD000 } = true
    ∧ (m0.writePA (32 * 4096) (bytesOfWord 4)).resumeOk { th with run := .halted, resident := 0, id := ⟨0, 0, 1⟩, cbase := 0xD000 } = false := by
  decide +kernel

/-- The ceilings of a cluster's scratchpads at their greatest, past it, and off its grain. -/
theorem witness_Management_spsplit :
    let t (x : Word) := th.with [(9, x)]
    [0#64, 0x70000#64, 0x80000#64, 0x10001#64].all (fun x => runs (t x) [.spsplit 9]) = true
    ∧ m0.gangOf th = some fetchGang ∧ fetchGang.cluster = some 0
    ∧ ((0x70000#64).toNat % 65536 = 0 ∧ (0x70000#64).toNat ≤ 448 * 1024) ∧ 448 * 1024 < (0x80000#64).toNat ∧ (0x10001#64).toNat % 65536 ≠ 0
    ∧ runs th [.snap 10] = true := by decide +kernel

/-- A barrier word in memory, and the one of a placed gang, whose image lies on a mapped page. -/
theorem witness_Management_bset :
    let i : Instr := .bset { mR with scope := .thr } 5
    let ok (s : State) (t : Thread) (va : Nat) (placed : Bool) : Bool := mayRun s t i && (effAddr t mR none).toNat == va
      && (match (s.begun t i).bsetPlace t.begun va with
        | .ok s₁ (.hbm pa leaf) => !s₁.dataBad pa 8 && decide (t.begun.watchHit .atomic .glob 8 [(0, va, some (0, 32))] = none)
            && !t.begun.elemHeld .atomic .glob 8 ⟨0, va, .hbm pa leaf⟩ && (s₁.gbarGang 1 va).isSome == placed
        | _ => false)
    let t := thM.setS 4 0x20000
    ok (on thM) thM 0x10100 false = true ∧ ok { on t with tasks := [{ fetchTask with arena := 0x1C000 }] } t 0x20000 true = true := by
  decide +kernel

/-- A list of members at s5: the machine with its words in memory. -/
def onList (t : Thread) (base : Word) (words : Word) : State := { onWord t words with agbase := base, agAsid := 1 }
def listT (g : Word) : Thread := regs thM [(9, g), (10, 0x10100)]
def listed (g : Word) (base words : Word) (h : Nat) (f : State → Bool) : Bool :=
  let s := onList (listT g) base words
  mayRun s (listT g) (.agset 11 9 10) && (match (s.begun (listT g) (.agset 11 9 10)).readListed (listT g).begun 8 0x10100 with
    | .got s₁ k => k == h && f s₁
    | _ => false)
def members (h : Nat) (s : State) (f : Option (List (BitVec 16)) → Bool) : Bool :=
  match State.readMembers (listT 3).begun h 0x10108 [] s with
  | .ok (_, m) => f m
  | _ => false

/-- AGBASE 0; a group number past the last; counts of 65536, 1025 and 1024; a member of 0xFFFF; and a group that is taken. -/
theorem witness_Management_agset :
    let bad (s : State) : State := s.writePA (32 * 4096 + 0x108) [0xFF, 0xFF]
    runs (listT 3) [.agset 11 9 10] = true ∧ m0.agbase = 0
    ∧ mayRun (onList (listT 256) 0x20000 0) (listT 256) (.agset 11 9 10) = true ∧ ((listT 256).s 9).toNat = 256
    ∧ ((listT 3).s 9).toNat < 256
    ∧ [65536, 1025, 1024].all (fun h => listed 3 0x20000 (BitVec.ofNat 64 h) h (fun _ => true)) = true
    ∧ listed 3 0x20000 2 2 (fun s₁ => members 2 (bad s₁) (·.isNone)) = true
    ∧ listed 3 0x20000 2 2 (fun s₁ => members 2 s₁ (fun ms => ms == some [0, 0])
        && (match s₁.takeGroup (listT 3).begun 3 [0, 0] with | .ok .. => true | _ => false)) = true := by decide +kernel

/-! ## Witnesses: engines -/

def mxE : MxEntry := MxEntry.pushed 0 10 m0.stamp
def ceE : CeEntry := ⟨(Instr.gtype 10 11 12).word, List.replicate 6 0, 0, false, true⟩

/-- Each way in which the two entries of the matrix queue can stand. -/
theorem witness_MatrixInstructions :
    let q (a b : Option MxEntry) : Thread := { th with mx0 := a, mx1 := b }
    let t (m n k : Word) := th.with [(9, m), (10, n), (11, k)]
    [q none none, q none (some mxE), q (some mxE) none, q (some mxE) (some mxE)].all (fun u => runs u [.mxcmd 12 5] && u.ceEntries.isEmpty) = true
    ∧ runs (t 1 0xFFFFFFFF 32) [.mxgeom 9 10 11] = true ∧ ((t 1 0xFFFFFFFF 32).s 10).toNat < 2 ^ 32 ∧ ((t 1 0xFFFFFFFF 32).s 11).toNat % 32 = 0
    ∧ [t 0 1 32, t 1 0x100000000 32, t 1 1 33].all (fun u => runs u [.mxgeom 9 10 11]) = true
    ∧ runs th [.mxsub 5, .mxflag 10, .rfence 10] = true ∧ fetchThread.geomM = 0
    ∧ runs { th with geomM := 65, geomN := 1 } [.mxsub 5] = true
    ∧ m0.unackedBy (.thread th.id) = false ∧ th.wroteHost = false := by decide +kernel

/-- The words of every engine instruction, with room in the queue, with one entry in each place, and with none. -/
theorem witness_EngineQueues :
    let q (a b : Option CeEntry) : Thread := { th with ce0 := a, ce1 := b }
    [q none none, q none (some ceE), q (some ceE) none, q (some ceE) (some ceE)].all
      (fun u => u.mxEntries.isEmpty && (wordsEngines.map (·.2)).all (fun i => mayRun (on u) u i)) = true := by decide +kernel

/-- The descriptor of `stash` and `resto`, off its grain and on a mapped page. -/
theorem witness_EngineQueues_descriptor :
    let t (a : Word) := th.with [(9, a)]
    let is : List Instr := [.stash 10 9 11 12 0, .resto 10 9 11 12 0 false]
    [0x10101#64, 0x10100#64].all (fun a => runs (t a) is) = true
    ∧ ((t 0x10101).s 9).toNat % 32 ≠ 0 ∧ ((t 0x10100).s 9).toNat % 32 = 0 ∧ (t 0x10100).begun.engineHolds false .va 0x10100 32 = false
    ∧ is.all (fun i => let s := (on (t 0x10100)).begun (t 0x10100) i
        match engTry (engRead (pushCtx s (t 0x10100).begun) 0x10100 32) { s := s } with | .ok .. => true | _ => false) = true := by decide +kernel

/-! ## Witnesses: steps of the hardware, of the host and of the fabric -/

def outcome (i : Instr) (s : State) (f : State → Bool) : Bool := match exec i s with
  | .next s' => f s'
  | _ => false

/-- A request for a completion that has not come. -/
def asked (o : Owner) : Pending := ⟨7, o, .bytes 0x10100 32, 0, 0, 0, false, none⟩

/-- Heads of chains at the edges of what SPHEAD takes; a placed gang of the port's ASID; stage one; an access at the top of the
device's memory; completions for a thread and for a `.nr` atomic. -/
theorem witness_HostRegisters :
    (m0.port 3).state = .idle ∧ ((withPort { m0.port 3 with state := .waiting }).port 3).state = .waiting
    ∧ ((0x1FFFFFFFFFFFF00#64).toNat % 256 = 0 ∧ (0x1FFFFFFFFFFFF00#64).toNat < 2 ^ 57)
    ∧ (0x10080#64).toNat % 256 ≠ 0 ∧ 2 ^ 57 ≤ (0x200000000000000#64).toNat
    ∧ m0.gang? 0 0 = some fetchGang ∧ m0.task? 0 = some fetchTask ∧ fetchGang.cluster.isSome = true
    ∧ State.reset.boot = ⟨0, 0, 1, 0⟩ ∧ m0.featLock = false ∧ ({ m0 with featLock := true } : State).featLock = true
    ∧ Config.hbmBytes - 1 + [(1 : Byte)].length ≤ Config.hbmBytes ∧ m0.resident (Config.hbmBytes - 1) = true
    ∧ m0.badAt (Config.hbmBytes - 1) 1 = false ∧ m0.threads.all (fun u => u.damaged == 0 && u.block != .bar) = true
    ∧ [Owner.thread th.id, .hostNr 0 th.id].all (fun o => let s : State := { m0 with pends := [asked o] }
        s.pends.find? (fun q => q.tag == 7 && q.answer.isNone) == some (asked o) && !s.hostRefuses 7) = true := by
  decide +kernel

def unit (n : Nat) (st : FenceState) : State := { State.reset with featAcc0 := 0x20, featLock := true, fences := [(n, st)] }
def fwAs (st : FwState) : State := { State.reset with fw := { State.reset.fw with state := st } }

/-- The first and last unit of each kind in each state; a firmware update in each state; a latch that is due and one that is not;
a damaged line with spares left. -/
theorem witness_ServiceSteps :
    m0.feature 5 = false ∧ (unit 0 .draining).feature 5 = true
    ∧ [0, 7, 8, 23, 24, 119].all (fun n => [FenceState.inService, .draining, .fenced, .recalibrating].all (fun st =>
        (unit n st).unitState n == st)) = true
    ∧ State.reset.unitState 119 = .inService ∧ fetchGang.cluster = some 0 ∧ m0.gang? 0 0 = some fetchGang
    ∧ ((0x1000000#32).toNat ≤ 2 ^ 24 ∧ 2 ^ 24 < (0x1000001#32).toNat)
    ∧ (fwAs .verifying).fw.state = .verifying ∧ (fwAs .swapping).fw.state = .swapping ∧ (fwAs .swapping).events.held = []
    ∧ (let s : State := { State.reset with snap := { State.reset.snap with armed := [(0, 2)] }, cycle := 29 }
      s.snap.armed = (0, 2) :: [] ∧ s.tick < 0 + 2 ∧ 0 + 2 ≤ ({ s with cycle := 30 } : State).tick)
    ∧ 5 ∈ ({ m0 with badLines := [5] } : State).badLines ∧ m0.sparesUsed (stackOf (5 * 256)) < Config.sparesPerStack
    ∧ Config.sparesPerStack ≤ ({ m0 with retired := List.replicate Config.sparesPerStack 0 } : State).sparesUsed (stackOf 0)
    ∧ 5 ∈ ({ m0 with softLines := [5] } : State).softLines ∧ ¬5 ∈ m0.badLines := by decide +kernel

/-- The start: without a valid image and with one; each step of stage two begun and run, with the PCI Express link good and not; and
its end. -/
theorem witness_HostRegisters_start :
    let at' (step : BitVec 4) (status : BitVec 2) : State := { State.reset with boot := ⟨0, status, 2, step⟩ }
    let hot : State := { State.reset with site := { State.reset.site with coolOk := false } }
    hot.boot = ⟨0, 0, 1, 0⟩ ∧ hot.site.coolOk = false ∧ State.reset.boot = ⟨0, 0, 1, 0⟩ ∧ State.reset.site.coolOk = true
    ∧ [4#4, 5#4].all (fun step => (at' step 0).boot.stage == 2 && (at' step 0).boot.status == 0 && (at' step 0).boot.step == step) = true
    ∧ ({ at' 5 0 with site := { State.reset.site with linkOk := false } } : State).site.linkOk = false
    ∧ ((at' 4 1).boot.stage = 2 ∧ (at' 4 1).boot.status ≠ 0 ∧ (at' 4 1).boot.step.toNat < 5)
    ∧ (5 ≤ (at' 5 1).boot.step.toNat ∧ (at' 5 1).boot.status ≠ 0) := by decide +kernel

/-- Registers frozen by a swap. -/
theorem witness_ServiceSteps_frozen : m0.freeze.frozen.isSome = true ∧ (0x1018 : Nat) < 0x1000000 := by decide +kernel

/-! ### Ports -/

/-- A card at 0x10100: an entry, a grid of one gang of one thread, its arena; and its ownership word. -/
def cardWords (own : Word) : List (Nat × Word) := [(0, 0x10000), (0x10, 0x0000000100000001), (0x18, 0x0000000100000001), (0x28, 0x20000), (0xC0, own)]
def atCard (own : Word) (st : PortState) : State :=
  let s := (cardWords own).foldl (fun s p => s.writePA (32 * 4096 + 0x100 + p.1) (bytesOfWord p.2)) m0
  { s with featLock := true, ports := s.ports.set 0 { s.port 0 with asid := 1, next := 0x10100, state := st } }

def cardAt (s : State) (f : State → List Byte → Bool) : Bool := match s.cardPA 1 0x10100 false with
  | some (s₂, pa, via) => f (s₂.corrected pa 256) ((s₂.corrected pa 256).readVia via pa 256)
  | none => false

/-- A port that waits for a card's ownership, on a page that translates and on one that does not; a port that reads a card owned by
the host, one with a fault (no gang), one that asks for more than the device holds, and one that is admitted. -/
theorem witness_SchedulerSteps_ports :
    ((atCard 0 .waiting).port 0).state = .waiting ∧ (atCard 0 .waiting).cardWaits 0 = false ∧ ((atCard 0 .waiting).ownership 0).isSome = true
    ∧ (let s := (atCard 0 .waiting).setPort 0 { (atCard 0 .waiting).port 0 with next := 0 }; (s.ownership 0).isNone = true ∧ s.cardWaits 0 = false)
    ∧ [0#64, 1#64].all (fun own => let s := atCard own .busy
        s.nextPort == some 0 && s.asidValid 1 && cardAt s (fun _ card => cardField card 0xC0 8 == own.toNat && cardFault card == none)) = true
    ∧ cardAt ((atCard 1 .busy).writePA (32 * 4096 + 0x110) [0]) (fun _ card => cardFault card == some 2) = true
    ∧ cardAt ((atCard 1 .busy).writePA (32 * 4096 + 0x11E) [2]) (fun s₂ card =>
        let k := cardTask card 1 0x10100
        cardFault card == none && k.cores && s₂.fitsDevice k && !s₂.fitsDevice { k with gx := 2 ^ 20 }) = true
    ∧ (let s := atCard 1 .busy; match s.cardPA 1 0x10100 false with
      | some (s₂, _, _) => match s₂.cardPA 1 0x10100 true with
        | some (s₃, pa, via) => let c := (s₃.atHome (pa + 0xC0) localStoreRank).storeHome via (pa + 0xC0) (bytesOfNat 8 0) none; c.ports.length == 64 && (c.port 0).spawner == none
            && (c.port 0).state == .busy
        | none => false
      | none => false) = true
    ∧ m0.nextPort ≠ some 0 := by decide +kernel

/-! ### The scheduler -/

/-- A second task, ready; its gang at the head of the order for 20,000 ticks; every cluster but 0 without room. -/
def k1 : Task := { fetchTask with num := 1, formed := 0, prio := 7, prioEff := 7 }
def queued : State := { m0 with tasks := [fetchTask, k1] }
def crowded : State :=
  { queued with ceilings := tabulate Config.clusters (fun c => (c, if c = 0 then 0x10000 else 0)), cycle := 15 * 20000, headGang := some (1, 0, 0) }
def now (s : State) : State := s.refreshReady.noteHead
def idler : Thread := { th with block := .wait }

theorem witness_SchedulerSteps_place :
    (now m0).matched = [] ∧ (now m0).order = []
    ∧ (now queued).order.head?.any (fun h => h.task == 1 && ((now queued).findCluster k1 h.index).isSome) = true
    ∧ (now queued).task? 1 = some k1 ∧ k1.cores = false
    ∧ m0.gang? 0 0 = some fetchGang ∧ queued.gang? 1 0 = none ∧ queued.task? 1 = some k1 := by decide +kernel

theorem witness_SchedulerSteps_reserve :
    let s := now crowded
    s.order.head?.any (fun h => s.headGang == some (h.task, h.index, 0) && (s.tryPlace h).isNone && h.index == 0) = true
    ∧ s.reserved = none ∧ s.roomiest.isSome = true ∧ s.tick = 20000 ∧ ({ crowded with reserved := some (0, 1, 0) } : State).reserved ≠ none := by
  decide +kernel

theorem witness_SchedulerSteps_preempt :
    let s := now crowded
    s.preemptPlan k1 [0] [] = some [(0, 0, [(0, 0)])] ∧ s.task? 1 = some k1 ∧ 0 + 2000 ≤ s.tick
    ∧ (let e := now { crowded with cycle := 15 * 1999 }; e.tick < 0 + 2000) := by decide +kernel

theorem witness_SchedulerSteps_idle :
    let s := now { crowded with threads := [idler] }
    (now m0).idleGangs = [] ∧ s.idleGangs.head? = some fetchGang ∧ fetchGang.cluster = some 0
    ∧ s.order.head?.any (fun h => h.task == 1 && !s.keptCluster 0 1 h.index && s.fits k1 0 ((0, 0) :: s.leavingOf 0) (s.comingTo 0)) = true := by decide +kernel

/-- Four gangs of four threads on core 0, and a fifth gang's thread that has been ready for 4,096 cycles. -/
def full : State :=
  let t (g r : Nat) : Thread := { th with id := ⟨0, g, 8 * r⟩, slot := some (4 * g + r) }
  { m0 with
    tasks := [{ fetchTask with size := 32, gx := 5, spad := 0, bstore := 0 }]
    gangs := tabulate 5 (fun g => { fetchGang with index := g })
    threads := (tabulate 4 (fun g => tabulate 4 (t g))).flatten ++ [{ th with id := ⟨0, 4, 0⟩, slot := none, run := .resident }]
    cycle := 4096 }

theorem witness_SchedulerSteps_slice :
    m0.waiting 0 = none ∧ (full.waiting 0).map (·.id) = some ⟨0, 4, 0⟩ ∧ (full.waiting 0).any (fun t => t.readyAt + 4096 ≤ full.cycle) = true
    ∧ (full.makeSlot 0 none).isNone = true
    ∧ (earliest (·.seatedAt) ((full.activeOn 0).filter (fun u => !u.isBlocked && !full.isStalled u))).map (·.id) = some ⟨0, 0, 0⟩
    ∧ ((full.demote ⟨0, 0, 0⟩).freeSlot 0).isSome = true := by decide +kernel

def pieces (s : State) (k : Task) : Bool := match s.imagePieces k 0 k.imageBytes with
  | .ok _ => true
  | _ => false

/-- A gang that is not parking; one that is, with its image on mapped pages and not; one with work under way. -/
theorem witness_SchedulerSteps_park :
    let g : Gang := { fetchGang with parking := some 1 }
    let k : Task := { fetchTask with spad := 0, bstore := 0, arena := 0x1C000 }
    let s : State := { m0 with gangs := [g], tasks := [k] }
    let far : State := { m0 with gangs := [g] }
    fetchGang.parking = none ∧ m0.gang? 0 0 = some fetchGang ∧ s.gang? 0 0 = some g ∧ s.task? 0 = some k
    ∧ (s.mates 0 0).any (fun t => s.midWork t || s.midTile t || (s.suspendXpand t.id).isNone) = false ∧ pieces s k = true
    ∧ (far.mates 0 0).any far.midWork = false ∧ far.imageAbsent fetchTask 0 = true
    ∧ (let w : State := { s with pends := [{ asked (.thread th.id) with asked := .atomic 0x10100 }] }
      (w.mates 0 0).any w.midWork = true) := by decide +kernel

/-- A co-resident task of two placed gangs that park, the image of one on no mapped page. -/
theorem witness_SchedulerSteps_parkCores :
    let k : Task := { fetchTask with spad := 0, bstore := 0, cores := true, gx := 2 }
    let g (i : Nat) : Gang := { fetchGang with index := i, parking := some 1 }
    let s : State := { m0 with tasks := [k], gangs := [g 0, g 1] }
    s.gang? 0 0 = some (g 0) ∧ s.task? 0 = some k ∧ (s.parksWith k (g 0)).length = 2
    ∧ (s.parksWith k (g 0)).any (s.parkWaits k) = false ∧ (s.parksWith k (g 0)).any (fun h => s.imageAbsent k h.index) = true
    ∧ (s.gangs.map (fun h => (h.task, h.index))).Nodup := by decide +kernel

/-- A thread that has not retired; the last thread of a task, its completion word on a mapped page; and one that is not the last. -/
theorem witness_SchedulerSteps_retire :
    let t : Thread := { th with run := .retired, slot := none }
    let k : Task := { fetchTask with done := 0x10100 }
    let s : State := { on t with tasks := [k] }
    m0.settled th = false ∧ s.thread? t.id = some t ∧ s.settled t = true ∧ s.taskOf t = some k ∧ k.retired + 1 = k.gangs * k.size
    ∧ (let k' := { k with retired := 1 }
      match ((s.retireThread t).setTask k').translate none 1 0x10100 ⟨false, true, false, false⟩ with
      | .ok s₂ page _ leaf => pteMode leaf == 0 && !s₂.dataBad (leafPA page leaf 0x10100) 8
      | _ => false) = true
    ∧ ({ k with gx := 2 } : Task).retired + 1 ≠ ({ k with gx := 2 } : Task).gangs * ({ k with gx := 2 } : Task).size := by decide +kernel

/-- A `wait` whose deadline has come, of a resident, a parked and an active thread. -/
theorem witness_SchedulerSteps_wait :
    let w : Thread := { waitV 0 with block := .wait, deadline := some 0, blockWord := (waitI 1).word }
    m0.waitExpired th = false ∧ m0.thread? th.id = some th
    ∧ [Run.resident, .parked, .active].all (fun r => let t := { w with run := r }
        (on t).thread? t.id == some t && (on t).waitExpired t) = true
    ∧ (on w).mayIssue w = true ∧ (on w).cur = w.id ∧ (match decodeWord w.blockWord with
      | .ok i => decide (i = waitI 1)
      | .error _ => false) = true := by decide +kernel

/-- No notice held; one held without a trap gang that is served; with one whose receiver is absent, or present, or has not written
the mailbox of the notice before. -/
theorem witness_SchedulerSteps_notice :
    let q : NoticeQueue := ⟨1, [(0x20001, none)], none⟩
    let s : State := { m0 with notices := [q] }
    let served (w : Word) : State := { s.setDirWord 1 0x20 w with trapBy := [(1, 1)] }
    let some' := served 0x20008
    (m0.noticeQueue 1).held = [] ∧ s.noticeQueue 1 = q ∧ s.trapServed 1 = false
    ∧ some'.trapServed 1 = true ∧ some'.noticeFree q = true ∧ some'.receiver 1 = some th
    ∧ (match some'.deposit th.id (trapMbox (some'.trapGang 1)) 0x20001 with | .done _ => true | _ => false) = true
    ∧ s.unsaved none = false ∧ (on { th with run := .halted }).unsaved (some th.id) = true
    ∧ (served 0x24008).trapServed 1 = true ∧ (served 0x24008).receiver 1 = none
    ∧ some'.noticeFree { q with last := some (th.id, 0) } = false := by decide +kernel

/-! ### Engines -/

/-- A matrix command: kind, formats and mode, K, strides of 0x4000 and the VA 0x10100, one row and one column. -/
def mxCmd (kind a b acc k va : Nat) : BitVec 512 :=
  (BitVec.ofNat 512 kind) ||| (BitVec.ofNat 512 a <<< 8) ||| (BitVec.ofNat 512 b <<< 16) ||| (BitVec.ofNat 512 acc <<< 24)
    ||| (BitVec.ofNat 512 k <<< 48) ||| ((if kind = 5 then 0#512 else 0x1000#512) <<< 96) ||| (0x400#512 <<< 224) ||| (BitVec.ofNat 512 va <<< 256)
    ||| (1#512 <<< 320) ||| (1#512 <<< 384)

def mxRun (c : BitVec 512) : Thread := { th with mx0 := some { MxEntry.pushed c 10 0 with started := true } }

/-- A command that passes the checks and one that fails the first of them; a running command of each kind, and none. -/
theorem witness_EngineSteps_matrix :
    let q (c : BitVec 512) : Thread := { th with mx0 := some (MxEntry.pushed c 10 0) }
    m0.mxNext 0 = none
    ∧ [(mxCmd 1 0 0 2 32 0, none), (mxCmd 6 0 0 2 32 0, some (12, 1))].all (fun p =>
        (on (q p.1)).mxNext 0 == some (q p.1, false, MxEntry.pushed p.1 10 0)
          && mxCheck p.1 ((on (q p.1)).padBytes (q p.1)) ((on (q p.1)).bankBytes (q p.1)) == p.2) = true
    ∧ (List.range 6).all (fun k => (m0.mxCommand 0 k).isNone
        && ((on (mxRun (mxCmd k 0 0 0 0 0))).mxCommand 0 k).any (fun p => decide (p.1 = mxRun (mxCmd k 0 0 0 0 0)))) = true
    ∧ mxAcc (mxCmd 0 0 0 2 32 0) = 2 ∧ (List.replicate 32 (0x80 : Nat)).length = 32 := by decide +kernel

/-- A row of `bload` and of `cstore` that can be done, and one whose page is not mapped; rows past the last. -/
theorem witness_EngineSteps_rows :
    let x (s : State) (t : Thread) : EngCtx := { t := t, owner := .matrix t.id, asid := s.asidOf t, core := 0, user := s.isUser t, mine := none }
    let row (c : BitVec 512) (unit : EngCtx → Nat → E (BitVec 3)) : Option Bool :=
      let t := mxRun c
      let s := on t
      if s.unackedBy (x s t).owner || (s.engFailure (x s t).owner).isSome then none
      else match unit (x s t) 0 { s := s } with
        | .ok _ z => some (!(z.commit (x s t)).unackedBy (x s t).owner)
        | .error (.fail ..) _ => some false
        | _ => none
    row (mxCmd 3 0 0 0 32 0x10100) (fun x => bloadRow x (mxCmd 3 0 0 0 32 0x10100)) = some true
    ∧ row (mxCmd 3 0 0 0 32 0) (fun x => bloadRow x (mxCmd 3 0 0 0 32 0)) = some false
    ∧ row (mxCmd 4 0 9 0 0 0x10100) (fun x => cstoreRow x (mxCmd 4 0 9 0 0 0x10100) [0]) = some true
    ∧ row (mxCmd 4 0 9 0 0 0) (fun x => cstoreRow x (mxCmd 4 0 9 0 0 0) [0]) = some false
    ∧ 0 < mxK (mxCmd 3 0 0 0 32 0) ∧ (mxRows (mxCmd 4 0 9 0 0 0)).length = 1
    ∧ mxK (mxCmd 3 0 0 0 32 0) ≤ ({ MxEntry.pushed (mxCmd 3 0 0 0 32 0) 10 0 with started := true, row := 32 } : MxEntry).row
    ∧ (let s : State := { on (mxRun (mxCmd 3 0 0 0 32 0)) with pends := [⟨1, .matrix th.id, engFailed, 0, 0, 0, false, some (.fail ⟨.page, 1⟩)⟩] }
      (s.engFailure (.matrix th.id)).isSome = true ∧ s.unackedBy (.matrix th.id) = false) := by decide +kernel

/-- A row of `bload` whose page lies on another device waits for its answer. -/
theorem witness_EngineSteps_asks :
    let c := mxCmd 3 0 0 0 32 0x10100
    let t := mxRun c
    let s := remapped { on t with featAcc0 := 2, featLock := true } ((5#64 <<< 32) ||| 0x80004F#64)
    let x : EngCtx := { t := t, owner := .matrix t.id, asid := s.asidOf t, core := 0, user := s.isUser t, mine := none }
    (match bloadRow x c 0 { s := s } with | .error (.wait asks) _ => !asks.isEmpty | _ => false) = true := by decide +kernel

/-- Errors in what a command reads: in C, in A and in B; and none. -/
theorem witness_EngineSteps_damaged :
    let t := mxRun (mxCmd 0 0 0 2 32 0)
    let c := mxCmd 0 0 0 2 32 0
    let s (pad b : List Nat) : State := { on t with gangs := [{ fetchGang with badPad := pad, badB := b }] }
    (List.range 3).all (fun k => ((on (mxRun (mxCmd k 0 0 2 32 0))).mxCommand 0 k).isSome) = true
    ∧ ((s [t.padKey (mxCOff c) / 8] []).mxLost t (mxCRanges c)).isSome = true ∧ (mxKind c = 0 ∨ mxKind c = 2)
    ∧ ((s [0] []).mxLost t (mxInputRanges c)).isSome = true
    ∧ (s [] [0]).mxLost t (mxInputRanges c) = none ∧ ((s [] [0]).mxBLost t c).isSome = true
    ∧ (s [] []).mxLost t (mxCRanges c) = none ∧ (s [] []).mxBLost t c = none := by decide +kernel

/-- A turn of the copy engine that serves a command. -/
theorem witness_EngineSteps_copy :
    let t : Thread := { th with ce0 := some ceE }
    m0.ceTurns 0 = [] ∧ (on t).ceTurns 0 = [th.id] ∧ ((on t).engineTry th.id).isSome = true ∧ 0 < Config.cores
    ∧ m0.deferred.find? (fun x => x.cbase == 0x20000) = none
    ∧ (let d : Deferred := ⟨th.id, 0x20000, [.scalar 10 7], none⟩
      ({ m0 with deferred := [d] } : State).deferred = [d] ∧ d.posting = none ∧ m0.thread? d.owner = some th ∧ th.resident = allLines
        ∧ th.waitsHere = true ∧ viewsOk th.vwS.toNat th.vwK.toNat th.vwV.toNat = true) := by decide +kernel

/-- The leaf of the program's page, before and after an access. -/
def leaf0 : Word := (32#64 <<< 32) ||| 0x80000F#64

/-- A walk in flight in the present epoch; one behind it whose page has gone, and one whose leaf has ACCESSED. -/
theorem witness_EngineSteps_walks :
    let w : Walk := ⟨0, 1, 0x10000, m0.epoch, 0x10000, 4096, leaf0, 20 * 4096 + 8 * 16, false⟩
    m0.walkWord w.leafPA = w.leaf ∧ (Need.mk true false false w.user).granted leaf0 = true ∧ (Need.mk true false false true).granted (1#64) = false ∧
    let old : Walk := { w with epoch := m0.epoch + 1 }
    ({ m0 with walks := [w] } : State).walks[0]? = some w ∧ w.epoch = m0.epoch ∧ m0.walks[0]? = none
    ∧ ({ m0 with walks := [old] } : State).walks[0]? = some old ∧ old.epoch ≠ m0.epoch
    ∧ isLeaf m0 0 (fun _ _ => true) = false ∧ m0.underMigration w.asid w.va.toNat = false ∧ w.size ≠ 0
    ∧ ({ m0 with migs := [⟨1, 0x10000, 4096, 60, 0, leaf0, none, none, 0⟩] } : State).underMigration w.asid w.va.toNat = true
    ∧ isLeaf (remapped m0 (pteTouch leaf0 false)) 0x10000 (fun _ leaf => pteTouch leaf false == leaf) = true := by decide +kernel

def mig (leaf : Word) : Migration := ⟨1, 0x10000, 4096, 60, 20 * 4096 + 8 * 16, leaf, none, none, 0⟩

/-- A page of this device whose leaf stands as it was read, and one whose leaf has changed; a page of device 5 with the peer's answer,
without it before its time is over, and after. -/
theorem witness_EngineSteps_migrations :
    m0.heldBySegment (mig leaf0) = false
    ∧ ({ m0 with segs := [⟨th.id, 0x10000, 4096, leaf0, true, 0⟩] } : State).heldBySegment (mig leaf0) = true
    ∧ m0.walkWord (mig leaf0).leafPA = leaf0 ∧ m0.migs[0]? = none ∧ ({ m0 with migs := [mig leaf0] } : State).migs[0]? = some (mig leaf0)
    ∧ m0.framesResident ((mig leaf0).frame * 4096) (mig leaf0).size = true ∧ (mig leaf0).asker = none
    ∧ m0.threads.all (fun u => u.block != .bar) = true ∧ pteMode leaf0 = 0 ∧ m0.badAt (pteFrame leaf0 * 4096) 4096 = false
    ∧ m0.framesResident (pteFrame leaf0 * 4096) 4096 = true ∧ m0.readWordPA (mig leaf0).leafPA = leaf0
    ∧ m0.readWordPA (mig (leaf0 ||| 0x1000000)).leafPA ≠ leaf0 ||| 0x1000000
    ∧ pteMode ((5#64 <<< 32) ||| 0x80004F#64) ≠ 0
    ∧ ({ mig ((5#64 <<< 32) ||| 0x80004F#64) with data := some [] } : Migration).data = some [] ∧ (mig leaf0).data = none
    ∧ 0 + 100000 ≤ ({ m0 with cycle := 15 * 100000 } : State).tick ∧ ¬0 + 100000 ≤ ({ m0 with cycle := 15 * 99999 } : State).tick := by
  decide +kernel

/-! ### Frames -/

def job5 : State := { m0.setDirWord 1 8 5 with featAcc0 := 2, featLock := true, devnum := 1 }
def frame (op : Nat) (p : Payload) : Frame :=
  { lane := 0, hops := 0, body := 1, dst := 1, src := 9, op := op, core := 3, seq := 0, job := 5, gen := 0, rsv := 0, forwarded := false, payload := p }
def homedB (va : Nat) (r w : Bool) (f : State → Nat → Bool) : Bool :=
  job5.asidOfJob 5 == some 1 && (match job5.translate none 1 va ⟨r, w, false, !job5.asidPriv 1⟩ with
    | .ok s₁ page _ leaf => pteMode leaf == 0 && f s₁ (leafPA page leaf va)
    | _ => false)

/-- Hand-overs: a job that no ASID has; a page under migration; a page that is handed over, and one of another size. -/
theorem witness_EngineSteps_handOver :
    m0.asidOfJob 0 = none ∧ job5.asidOfJob 5 = some 1
    ∧ ({ job5 with migs := [mig leaf0] } : State).underMigration 1 0x10000 = true ∧ job5.underMigration 1 0x10000 = false
    ∧ isLeaf job5 0x10000 (fun size leaf => size == 4096 && pteMode leaf == 0) = true
    ∧ job5.badAt (32 * 4096) 4096 = false ∧ job5.framesResident (32 * 4096) 4096 = true
    ∧ job5.readNodes 1 0x10000 = job5 ∧ ({ job5 with badLines := [512] } : State).badAt (32 * 4096) 4096 = true
    ∧ job5.segmentOn 1 0x10000 4096 leaf0 = false ∧ ({ job5 with segs := [⟨th.id, 0x10000, 4096, leaf0, true, 0⟩] } : State).segmentOn 1 0x10000 4096 leaf0 = true
    ∧ isLeaf job5 0 (fun _ _ => true) = false ∧ waits job5 0 = false
    ∧ (let s : State := { job5 with migs := [{ mig leaf0 with page := 20 * 4096, size := 4096 }] }; s.underMigration 1 0x10000 = false)
    ∧ (let s : State := { job5 with migs := [{ mig ((9#64 <<< 32) ||| 0x80004F#64) with asker := none }] }
      s.awaiting (frame 10 (.handOverRefused 1 0x10000)) 1 0x10000 = some 0)
    ∧ job5.awaiting (frame 10 (.handOverRefused 1 0x10000)) 1 0x10000 = none := by decide +kernel

/-- A load request of a job that no ASID has, of a page that is not mapped, and of one that is; the same for `mldr`, a store and an
atomic. -/
theorem witness_FrameSteps_requests :
    m0.asidOfJob 0 = none ∧ m0.hasFabric = false ∧ job5.hasFabric = true
    ∧ (match job5.translate none 1 0 ⟨true, false, false, !job5.asidPriv 1⟩ with | .fault _ _ false _ => true | _ => false) = true
    ∧ homedB 0x10100 true false (fun s₁ pa => !s₁.dataBad pa 255 && !s₁.dataBad pa 128) = true
    ∧ homedB 0x10100 false true (fun s₁ pa => s₁.resident pa) = true ∧ homedB 0x10100 true true (fun s₁ pa => !s₁.dataBad pa 4) = true := by
  decide +kernel

/-- Answers for a thread's load: data, a failure, an encoded line of zeros; and for a rank of an `mldr`. -/
theorem witness_FrameSteps_answers :
    let s : State := { m0 with pends := [asked (.thread th.id)] }
    let c : RankCmd := ⟨7, th.id, [9], [.waiting], 0⟩
    s.pends.find? (fun p => p.tag == 7) = some (asked (.thread th.id)) ∧ (asked (.thread th.id)).owner ≠ .fill 1
    ∧ (expandLine 1 []).isSome = true ∧ s.pendOver (asked (.thread th.id)) = false
    ∧ ({ s with cycle := 15 * 100000 } : State).pendOver (asked (.thread th.id)) = true
    ∧ ({ m0 with rankCmds := [c] } : State).rankCmd? 7 = some c := by decide +kernel

def rx (next : BitVec 16) (gen : BitVec 8) : RxStream := { src := 9, core := 3, next := next, gen := gen, window := [], since := 0, last := 0, fails := [] }
def stF (seq : BitVec 16) (gen : BitVec 8) : Frame := { frame 2 (.store 0x10100 [1] false) with seq := seq, gen := gen }

/-- A stream at number 0: a frame of a generation that is not the next, a duplicate, a gap at its two ends, one held, and the one
expected, which is applied; a returning atomic has a result. -/
theorem witness_FrameSteps_stream :
    let s : State := { job5 with rx := [rx 0 0] }
    s.rxOf 9 3 = rx 0 0 ∧ (stF 0 128).gen ≠ (rx 0 0).gen ∧ 128 ≤ ((stF 0 128).gen - (rx 0 0).gen).toNat
    ∧ 32768 ≤ ((stF 0xFFFF 0).seq - (rx 0 0).next).toNat
    ∧ 64 ≤ ((stF 64 0).seq - (rx 0 0).next).toNat ∧ ((stF 32767 0).seq - (rx 0 0).next).toNat < 32768
    ∧ ((stF 63 0).seq - (rx 0 0).next).toNat < 64 ∧ (rx 0 0).src = (stF 63 0).src ∧ (rx 0 0).core = (stF 63 0).core
    ∧ ((stF 0 0).seq - (rx 0 0).next).toNat = 0
    ∧ (match s.applyOp (stF 0 0) with | .done _ none => true | _ => false) = true
    ∧ (match s.applyOp (frame 3 (.atomic 4 .add .i32 0x10100 1 0 false false)) with | .result _ 4 (.ok 0) => true | _ => false) = true := by
  decide +kernel

/-- Transfers of graphs: an answer; an open without the feature, with no intake bound, at a free intake and at one that is taken; a close
that belongs to none, lapsed and not; a sender's time-out, and an intake's pause. -/
theorem witness_FrameSteps_graph :
    let d : SendState := { tag := 7, owner := th.id, dev := 9, intake := 0, sent := 0, closed := true, answer := none }
    let r : Receive := { src := 9, core := 3, tag := 8, taken := [], points := [], opened := [], wrote := [], last := 0, paused := some 0 }
    let k : Intake := { asid := 1, desc := 0x10100, open' := some r, queue := [] }
    m0.hasIntake = false ∧ (List.range 64).any (fun b => ({ m0 with featAcc0 := 1#64 <<< b, featLock := true } : State).hasIntake) = true
    ∧ m0.intakes.getD 63 none = none
    ∧ (k.heard 0).open' ≠ none ∧ ({ k with open' := none }.heard 0).queue = []
    ∧ m0.intakeOf (frame 9 (.graphClose 8 0)) = none ∧ (9, 8) ∈ ({ m0 with lapsed := [(9, 8)] } : State).lapsed ∧ ¬(9, 8) ∈ m0.lapsed
    ∧ ({ m0 with sends := [d] } : State).sendOf 7 = some d ∧ d.sent + 100000 ≤ ({ m0 with cycle := 15 * 100000 } : State).tick
    ∧ ({ m0 with intakes := m0.intakes.set 0 (some k) } : State).intakes.getD 0 none = some k ∧ r.tag ≠ 7
    ∧ 0 + 10000000 ≤ ({ m0 with cycle := 15 * 10000000 } : State).tick := by decide +kernel

def op (seq : BitVec 16) : TxOp := ⟨stF seq 0, .thread th.id, 0, 0, 0⟩
def tx : TxStream := { TxStream.fresh 3 9 with sent := 2, unacked := [op 0, op 1] }

/-- Two operations that await their acknowledgement: of both, of one, of more than there are; the times of resending and of loss. -/
theorem witness_FrameSteps_sender :
    let s (ticks : Nat) : State := { m0 with tx := [tx], cycle := 15 * ticks }
    (s 0).tx? (3#16).toNat 9 = some tx ∧ m0.rankCmds = [] ∧ m0.domains = []
    ∧ (2#16 - tx.acked).toNat ≤ tx.unacked.length ∧ (1#16 - tx.acked).toNat ≤ tx.unacked.length ∧ tx.unacked.length < (3#16 - tx.acked).toNat
    ∧ tx.unacked.all (fun u => u.owner == .thread th.id && ([] : List (BitVec 16 × RemoteFail)).lookup u.frame.seq == none) = true
    ∧ tx.unacked.any (fun u => decide (u.last + 10000 ≤ (s 10000).tick)) = true
    ∧ tx.unacked.all (fun u => decide ((s 99999).tick < u.first + 100000)) = true
    ∧ tx.unacked.any (fun u => decide (u.first + 100000 ≤ (s 100000).tick)) = true
    ∧ (let r := { rx 1 0 with since := 1 }; ({ m0 with rx := [r] } : State).rx? 9 3 = some r ∧ r.since ≠ 0 ∧ r.last + 1000 ≤ (s 1000).tick) := by
  decide +kernel

/-- A report of a device for the phase that is open. -/
theorem witness_FrameSteps_report :
    let d := m0.domain 4 5
    d.reports.contains (9, d.phase) = false ∧ d.phase = 0 ∧ phasePassed (d.phase + 1) d.phase = true := by decide +kernel

/-! ### Links -/

def up : Link := { Link.reset 2 with state := .up, peer := some ⟨2, 1, 0, 1⟩ }
def wired (l : Link) : State := { job5 with links := [l], devnum := 1 }
def fr (dst : BitVec 16) : Frame := { frame 2 (.store 0x10100 [1] false) with dst := dst }
def atBuf (f : Frame) (lane : Nat) : State := { wired up with bufs := [⟨128, lane, [f], none, false⟩] }

/-- A frame for this device, sound and not, and one that the endpoint has no room for; one for device 2 with its link up, and
with the STOP bit of its lane set. -/
theorem witness_LinkSteps_route :
    m0.buf? 128 0 = none ∧ (atBuf (fr 1) 0).buf? 128 0 = some ⟨128, 0, [fr 1], none, false⟩
    ∧ (fr 1).dst = (atBuf (fr 1) 0).devnum ∧ frameSound (fr 1) = true ∧ (atBuf (fr 1) 0).endpointTakes (fr 1) = true
    ∧ frameSound { fr 1 with op := 1 } = false
    ∧ ({ atBuf { fr 1 with lane := 2 } 2 with inbox := List.replicate 64 { fr 1 with lane := 2 } } : State).endpointTakes { fr 1 with lane := 2 } = false
    ∧ (fr 2).dst ≠ (1 : BitVec 16) ∧ ((atBuf (fr 2) 0).chooseOutput (fr 2)).isSome = true ∧ (wired { up with stopped := 1 }).chooseOutput (fr 2) = none := by
  decide +kernel

/-- A flit with a frame's head or the `i`-th of its body, its control word made as the sender's (R385); one whose CRC a bit spoils. -/
def arr (kind : BitVec 2) (seq : BitVec 12) (f : Frame) (ok : Bool := true) : Arrival :=
  let rest : List Byte := List.replicate (if kind = 1 then 40 else 56) 7
  let payload := if kind = 1 then headBytes f ++ rest else rest
  ⟨⟨controlWord payload seq 3 0x15 kind ^^^ (if ok then 0#64 else 0x10000000000#64), rest, 15⟩, f⟩
def readsB (l : Link) (a : Arrival) : Bool :=
  l.reads (if getBits a.flit.word 0 2 = 1 then headBytes a.frame ++ a.flit.rest else a.flit.rest) a.flit
def long (n : Nat) : Frame := { fr 1 with body := n }

/-- A link that does not run; one that runs, with an idle flit, the flit expected, one out of order and one with a bad CRC; a head of a
frame of one flit and of two, its last flit, one of a longer frame, and one of no frame; a braid dealt otherwise than its receiver is aligned. -/
theorem witness_LinkSteps_arrive :
    m0.linkRuns (m0.linkOf 2) = false ∧ (wired up).linkRuns ((wired up).linkOf 2) = true
    ∧ [arr 0 9 (fr 1), arr 1 0 (long 0), arr 1 0 (long 2), arr 2 0 (fr 1), arr 1 1 (fr 1), arr 3 9 (fr 1)].all (readsB up) = true
    ∧ readsB up (arr 1 0 (fr 1) false) = false
    ∧ (getBits (arr 1 0 (fr 1)).flit.word 20 12 = up.rxNext ∧ getBits (arr 1 1 (fr 1)).flit.word 20 12 ≠ up.rxNext)
    ∧ (getBits (arr 1 0 (fr 1)).flit.word 0 2 = 1 ∧ getBits (arr 2 0 (fr 1)).flit.word 0 2 = 2 ∧ (long 0).body = 0 ∧ (long 2).body ≠ 0)
    ∧ (let l (x : Option (Frame × Nat)) : Link := { up with inFrame := x }
      [none, some (fr 1, 1), some (fr 1, 2)].all (fun x => (wired (l x)).linkOf 2 == l x && readsB (l x) (arr 2 0 (fr 1))) = true)
    ∧ frameSound (long 0) = true ∧ frameSound { long 0 with op := 12 } = false
    ∧ (let b : Link := { Link.reset 32 with rxFeeds := some 7 }
      readsB b (arr 0 0 (fr 1)) = false ∧ readsB { b with rxFeeds := none } (arr 0 0 (fr 1)) = true) := by decide +kernel

/-- A braid that is up, with and without a restripe in progress, and nothing queued. -/
theorem witness_LinkSteps_control :
    let l (x : List Nat) : Link := { Link.reset 32 with state := .up, feeds := 14, striping := x, replay := [(5, fr 2, 0)] }
    (wired (l [])).linkOf 32 = l [] ∧ (wired (l [0])).linkOf 32 = l [0] ∧ (l [0]).queue = [] ∧ (wired (l [0])).unitState (32 - 8) ≠ .draining
    ∧ (l []).restriping = false ∧ (l [0]).restriping = true ∧ (8#4) ≠ 0 := by decide +kernel

/-- A NAK for a flit of the replay buffer that has been resent 15 and 16 times, and for one that is not there; a NAK to repeat; a link
that may retrain, for the third time. -/
theorem witness_LinkSteps_replay :
    let l (n : Nat) : Link := { up with replay := [(5, fr 2, 0)], resends := n }
    (∀ n ∈ [15, 16], (wired (l n)).linkRuns ((wired (l n)).linkOf 2) = true ∧ (wired (l n)).linkOf 2 = l n)
    ∧ (l 15).resends + 1 ≤ 16 ∧ 16 < (l 16).resends + 1 ∧ (l 15).replay.any (fun e => e.1 == 5) = true ∧ (l 15).replay.all (fun e => e.1 != 6) = true
    ∧ (wired { up with nakAt := some 0 }).linkOf 2 = { up with nakAt := some 0 }
    ∧ ({ wired { up with state := .down, tries := 2 } with cycle := 15 * 1000 } : State).mayRetry { up with state := .down, tries := 2 } = true
    ∧ m0.mayRetry (m0.linkOf 2) = false ∧ (l 15).restriping = false ∧ ({ up with striping := [1] } : Link).restriping = true := by decide +kernel

/-- Join records that fit and that do not; the last feed of a braid and one of four; a suspect; tokens. -/
theorem witness_LinkSteps_join :
    let down : Link := { up with state := .down }
    let s := wired down
    (s.linkOf 2).state = .down ∧ s.mayTrain (s.linkOf 2) = true ∧ m0.mayTrain (m0.linkOf 2) = false
    ∧ [true, false].all (fun b => let d : Link := { down with trained := b }
        let u := if b then wired d else ((wired d).setLink { d.restart with trained := true, retryAt := some (wired d).tick }).putControl 2
          (.join ((wired d).joinOf 2))
        (wired d).linkOf 2 == d && u.joinOk 2 ⟨2, 1, 0, 1⟩ && !u.joinOk 2 ⟨3, 1, 0, 1⟩) = true
    ∧ (wired up).linkOf 2 = up ∧ up.state = .up ∧ s.token = false
    ∧ (let b : Link := { Link.reset 32 with state := .up, feeds := 1 }
      (wired b).linkOf 32 = b ∧ b.feeds &&& ~~~(1#4 <<< 0) = 0 ∧ (15#4 &&& ~~~(1#4 <<< 0)) ≠ 0 ∧ b.feeds.getLsbD 1 = false)
    ∧ s.bufs.all (fun b => !b.suspect) = true ∧ s.hasFabric = true ∧ s.devnum ≠ 0xFFFF ∧ s.tokenGen ≤ 1
    ∧ (wired up).nextPosition.isSome = true ∧ (wired down).nextPosition = none
    ∧ ({ wired up with cycle := 15 * 100000000 } : State).tokenLate = true ∧ s.tokenLate = false
    ∧ (wired up).livePositions.headD 1 = posOf 1 ∧ (wired { up with num := 0 }).livePositions.headD 1 ≠ posOf 1 := by decide +kernel

/-- A report of a lost token: at the lowest live position, and at one that is not. -/
theorem witness_LinkSteps_report :
    let c : FlitControl := ⟨(arr 3 9 (fr 1)).flit, none, true⟩
    let u (l : Link) : State := ((wired l).aligned l.num c.flit).takeControl l.num c.flit.word c.realigned
    up.reads c.flit.rest c.flit = true ∧ (u up).hasFabric = true ∧ (u up).devnum ≠ 0xFFFF ∧ c.tokenLost = true
    ∧ (u up).livePositions.headD (posOf (u up).devnum) = posOf (u up).devnum
    ∧ (u { up with num := 0 }).livePositions.headD (posOf (u { up with num := 0 }).devnum) ≠ posOf (u { up with num := 0 }).devnum := by decide +kernel

/-! ## Well-formedness: a term that each check refuses -/

theorem test_smoke_event : (Instr.featlock).wf = false := by decide
theorem test_smoke_codes : (Instr.vadd .f32 false 0 1 2 3).wf = false ∧ (Instr.fence .rlx .sys).wf = false ∧ (Instr.vld .i32 ⟨1, 0, 0, .sc, .sys, 0, .glob⟩ 0 5).wf = false
    ∧ (Instr.aadd ⟨.i32, 1, 2, 3, .rlx, .thr, 0, .cx, false⟩).wf = false := by decide
theorem test_smoke_classes : (Instr.vadd .i32 false 0 34 1 2).wf = false ∧ (Instr.vadd .i32 false 0 32 1 2).wf = false
    ∧ (Instr.vadd .i32 false 0 1 33 2).wf = false := by decide
theorem test_smoke_rules : (Instr.shli .w32 1 2 32).wf = false ∧ (Instr.mfsr 1 0x11).wf = false ∧ (Instr.dbar 6).wf = false
    ∧ (Instr.mldr 1 2 3 3 0).wf = false := by decide
theorem test_smoke_imx : (Instr.imx 1 (.add .w64 1 2 3)).wf = false ∧ (Instr.imx 1 (.imx 1 (.addi .w64 1 2 3))).wf = false
    ∧ (Instr.imx 1 (.li .f32 1 0)).wf = false := by decide
theorem test_smoke_uni : (Instr.uni (.jr 1)).wf = false ∧ (Instr.uni (.vadd .i32 false 0 1 32 2)).wf = false
    ∧ (Instr.uni (.uni (.add .w64 1 2 3))).wf = false := by decide
theorem test_smoke_rep : (Instr.rep 4 0 0 0 0 .yield).wf = false ∧ (Instr.rep 4 0 1 0 0 (.vadd .i32 false 0 1 32 2)).wf = false
    ∧ (Instr.rep 4 0 0 0 1 (.add .w64 1 2 3)).wf = false := by decide

/-- Groups: `uni` and `rep` before a word and before `imx`; prefixes without their word; reserved bits of a prefix. -/
theorem test_groups : ([([0xF000000000000000, 0x1001459800300000], .ok (.uni (.add .w64 10 11 12))),
    ([0xF000000000000000, 0xF200000000000001, 0x1110E41800000002], .ok (.uni (.imx 1 (.addi .w64 7 8 2)))),
    ([0xF1000307FF800000, 0x1001459800300000], .ok (.rep 3 1 63 62 0 (.add .w64 10 11 12))),
    ([0xF000000000000000], .more), ([0xF200000000000001], .more), ([], .more),
    ([0xF000000000000001, 0x1001459800300000], .bad .groupRule), ([0x0000000000000000], .bad .unassignedMajor)] :
    List (List Word × GroupDecode)).all (fun p => decide (decodeGroup p.1 = p.2)) = true := by decide +kernel

/-! ## Single steps -/

/-- The issuing thread after an instruction, tested. -/
def leaves (t : Thread) (i : Instr) (f : Thread → Bool) : Bool := outcome i (on t) (fun s => (s.thread? t.id).any f)
/-- A thread with a trap handler. -/
def hd (t : Thread) : Thread := { t with tvec := 0x10080, trapen := BitVec.allOnes 32 }
/-- A trap with a cause and a detail has taken the thread to its handler (R329). -/
def trapped (c : Cause) (detail : Nat) (u : Thread) : Bool :=
  u.pc == 0x10080 && getBits u.trapRec.info 0 8 == BitVec.ofNat 8 (Cause.num c) && getBits u.trapRec.info 16 16 == BitVec.ofNat 16 detail
def traps (t : Thread) (i : Instr) (c : Cause) (detail : Nat) : Bool := leaves (hd t) i (trapped c detail)

theorem test_step_hint : (match step (State.reset.withFetchWord 64 0xE000000000000000) with
    | .next s => (s.thread? fetchId).any (·.pc == 0x10008)
    | _ => false) = true := by decide +kernel
theorem test_step_illegal : (match step (State.reset.withFetchWord 64 0) with
    | .next s => (s.thread? fetchId).any (fun t => t.run == .halted && t.hcause == BitVec.ofNat 8 (Cause.num .illegal))
    | _ => false) = true := by decide +kernel

/-- R120: 32-bit results are sign-extended; the most negative number over −1; division by 0. -/
theorem test_add32 : leaves (th.with [(11, 0x7FFFFFFF), (12, 1)]) (.add .w32 10 11 12) (fun t => t.s 10 == 0xFFFFFFFF80000000) = true := by
  decide +kernel
theorem test_sub_same : leaves (th.with [(10, 5)]) (.sub .w64 10 10 10) (fun t => t.s 10 == 0 && t.pc == 0x10008) = true := by decide +kernel
theorem test_mulh : leaves (th.with [(11, -1), (12, 2)]) (.mulh .w64 10 11 12) (fun t => t.s 10 == -1) = true
    ∧ leaves (th.with [(11, -1), (12, 2)]) (.mulhn .w64 10 11 12) (fun t => t.s 10 == 1) = true := by decide +kernel
theorem test_div_edge : leaves (th.with [(11, 0x8000000000000000), (12, -1)]) (.div .w64 10 11 12) (fun t => t.s 10 == 0x8000000000000000) = true
    ∧ leaves (th.with [(11, 0x8000000000000000), (12, -1)]) (.rem .w64 10 11 12) (fun t => t.s 10 == 0) = true := by decide +kernel
theorem test_div_zero : traps (th.with [(11, 1)]) (.div .w64 10 11 12) .arith 1 = true := by decide +kernel
theorem test_s0 : leaves (th.with [(11, 7)]) (.add .w64 0 11 11) (fun t => t.s 0 == 0) = true := by decide +kernel
theorem test_cmpi : leaves (th.with [(8, -1)]) (.cmpi .w64 .ltn 7 8 0xFFFFFFFF) (fun t => t.s 7 == 0) = true
    ∧ leaves (th.with [(8, 0)]) (.cmpi .w64 .ltn 7 8 0xFFFFFFFF) (fun t => t.s 7 == 1) = true := by decide +kernel
theorem test_lih : leaves (th.with [(8, 0x1122334455667788)]) (.lih 7 8 0xAABBCCDD) (fun t => t.s 7 == 0xAABBCCDD55667788) = true := by
  decide +kernel
theorem test_callr_same : leaves (th.with [(9, 0x20000)]) (.callr 9 9) (fun t => t.pc == 0x20000 && t.s 9 == 0x10008) = true := by decide +kernel
theorem test_brk : leaves (hd th) (.brk 7) (fun t => trapped .brk 0 t && t.trapRec.addr == 7 && t.trapRec.rpc == 0x10008) = true := by decide +kernel

/-- A vector register whose 32-bit lane 0 is given. -/
def lanes (l : List (VReg × VecBits)) : Thread := l.foldl (fun t p => t.setV p.1 p.2) th

theorem test_vadds : leaves (lanes [(6, 0x7FFFFFFF), (7, 1)]) (.vadds .i32 false 0 5 6 7)
    (fun t => lane (t.v 5) 32 0 == 0x7FFFFFFF && t.flags == Flags.sat) = true := by decide +kernel
/-- 1 + 2 is 3 in f32; 1 over 0 is an infinity and raises the flag of a division by zero (R216). -/
theorem test_vfadd : leaves (lanes [(6, 0x3F800000), (7, 0x40000000)]) (.vfadd .f32 .rne 0 5 6 7) (fun t => lane (t.v 5) 32 0 == 0x40400000) = true := by
  decide +kernel
theorem test_vfdiv : leaves (lanes [(6, 0x3F800000)] |>.setK 1 1) (.vfdiv .f32 .rne 1 5 6 7)
    (fun t => lane (t.v 5) 32 0 == 0x7F800000 && t.flags == Flags.dz) = true := by decide +kernel
/-- 2^23 + 0.5 rounds to even, and is inexact. -/
theorem test_vfma_once : leaves (lanes [(6, 0x4B000000), (7, 0x3F800000), (8, 0x3F000000)] |>.setK 1 1) (.vfma .f32 .rne 1 5 6 7 8)
    (fun t => lane (t.v 5) 32 0 == 0x4B000000 && t.flags == Flags.nx) = true := by decide +kernel
theorem test_lq_pops : leaves th (.vmov false 0 5 32) (fun t => t.v 5 == 1 && t.lq == [2]) = true := by decide +kernel
theorem test_sq_pushes : leaves (lanes [(6, 9)]) (.vmov false 0 33 6) (fun t => t.sq == [3, 9]) = true := by decide +kernel
theorem test_mask_z : leaves (lanes [(5, 0xFFFFFFFFFFFFFFFF), (6, 7)] |>.setK 1 0x10) (.vadd .i32 true 1 5 6 6)
    (fun t => lane (t.v 5) 32 0 == 0 && lane (t.v 5) 32 1 == 0) = true := by decide +kernel
theorem test_kset : leaves (th.with [(11, 2)]) (.kset .i32 4 11) (fun t => t.k 4 == 0xFF) = true := by decide +kernel

theorem test_ld_sign : outcome (.ld .i8 mG 7) (onWord thM 0x80) (fun s => (s.thread? thM.id).any (fun t => t.s 7 == 0xFFFFFFFFFFFFFF80)) = true := by
  decide +kernel
/-- The low bytes, least significant first (R57); the byte after them stays. -/
theorem test_st_bytes : outcome (.st .i16 mG 9) (onWord (regs thM [(9, 0x1234)]) 0xAAAAAAAA)
    (fun s => s.readPA (32 * 4096 + 0x100) 4 == [0x34, 0x12, 0xAA, 0xAA]) = true := by decide +kernel
theorem test_ld_align : traps (th.with [(4, 0x10102)]) (.ld .i32 mG 7) .align 1 = true := by decide +kernel
theorem test_acas : outcome (.acas ⟨.i32, 7, 4, 9, .rlx, .sys, 0, .glob, false⟩ 10) (onWord (regs thM [(9, 5), (10, 3)]) 3)
    (fun s => s.readWordPA (32 * 4096 + 0x100) == 5 && (s.thread? thM.id).any (fun t => t.s 7 == 3)) = true := by decide +kernel
/-- The last of two arrivals: the phase advances and the thread goes on (R185). -/
theorem test_bar_last : outcome (.bar mR 7) (onWord thM 0x200001)
    (fun s => s.readWordPA (32 * 4096 + 0x100) == 0x0000010000200000 && (s.thread? thM.id).any (fun t => t.block == .none && t.s 7 == 0)) = true := by
  decide +kernel
/-- The last arrival releases a thread that waits for the phase (R187). -/
theorem test_bar_releases :
    let u : Thread := { th with id := ⟨0, 0, 1⟩, cbase := 0x24000, block := .bar, saved := savedBarWait .glob 0x10100 0 }
    outcome (.bara mR 7) { onWord thM 0x200001 with threads := [thM, u] } (fun s => (s.thread? u.id).any (fun v => v.block == .none)) = true := by
  decide +kernel
theorem test_bar_first : outcome (.bar mR 7) (onWord thM 0x200000)
    (fun s => s.readWordPA (32 * 4096 + 0x100) == 0x200001 && (s.thread? thM.id).any (fun t => t.block == .bar && t.pc == 0x10008)) = true := by
  decide +kernel

/-- A store notes the word that a fetch may still find (R129), and the task's end forgets it. -/
theorem test_store_notes_code : outcome (.st .n64 mR 5) (on thM) (fun s => s.copies.code.map (fun o => (o.asid, o.word, o.task, o.old))
      == [(1, (32 * 4096 + 0x100) / 8, 0, 0)] && (s.codeSettled 0).copies.code.isEmpty) = true := by decide +kernel
/-- A fetch of such a word draws what it finds, and of another does not (the first draw is that of ACCESSED). -/
theorem witness_StepRunsDecoded_fetch : (let s : State := { m0 with copies := { m0.copies with code := [⟨1, 32 * 512, 0, 7⟩] } }
    (match s.fetchWord (s.coreOf th) 1 0x10000 with | .ok s' _ => s'.copies.drawn == 2 | _ => false)
      && (match s.fetchWord (s.coreOf th) 1 0x10008 with | .ok s' w => s'.copies.drawn == 1 && w == 0 | _ => false)) = true := by
  decide +kernel

/-- A sector that a store has dirtied: after `cwb` memory has the store's bytes and the mapping holds nothing beside it; after a discard
the mapping holds nothing of it (R178). -/
def sector9 : HeldSector := ⟨4104, List.replicate 32 0, [], [⟨1, 2056, 0, some (9 :: List.replicate 31 0), true, 0⟩], []⟩
theorem test_cwb_cleans : ∀ now, let e := sector9.cleaned now 1 2056
    e.latest.take 1 = [9] ∧ e.copies.all (fun c => c.data.isNone) = true := by
  intro now
  by_cases h : Config.backAt 0 ≤ now <;>
    simp [HeldSector.cleaned, HeldSector.settle, HeldSector.settleBy, HeldSector.nextBack, HeldSector.leave, HeldSector.setCopy, HeldSector.copy?,
      HeldSector.latest, VaCopy.tagged, sector9, h]
theorem test_cinv_discards : ∀ now, (sector9.discarded now 1 2056).copies.all (fun c => c.data.isNone) = true := by
  intro now
  by_cases h : Config.backAt 0 ≤ now <;>
    simp [HeldSector.discarded, HeldSector.settle, HeldSector.settleBy, HeldSector.nextBack, HeldSector.leave, HeldSector.setCopy,
      HeldSector.latest, VaCopy.tagged, sector9, h]

/-- Entering a handler and returning (R329, R330). -/
theorem test_trap_enter : leaves (hd (th.with [(11, 1)])) (.div .w64 10 11 12)
    (fun t => t.pc == 0x10080 && t.run == .active && t.trapRec.fpc == 0x10000 && t.trapRec.info.getLsbD 8) = true := by decide +kernel
theorem test_trapret : leaves { th with trapRec := { th.trapRec with info := 0x100, rpc := 0x10040, ss := 0x10000 } } .trapret
    (fun t => t.pc == 0x10040 && t.ss && !t.trapRec.info.getLsbD 8) = true := by decide +kernel
/-- A stepped thread traps after its group; one in a `rep` before its next iteration, with DETAIL 1 (R338). -/
theorem test_step : leaves { hd th with ss := true } (.add .w64 10 11 12) (fun t => trapped .step 0 t && t.trapRec.rpc == 0x10008) = true
    ∧ leaves { hd th with ss := true } (.rep 2 1 0 0 0 (.add .w64 10 11 12)) (fun t => trapped .step 1 t && t.trapRec.rpc == 0x10000) = true := by
  decide +kernel
theorem test_watch : leaves { hd thM with watches := [⟨0x10100, 0x400F⟩] } (.ld .i32 mR 7)
    (fun t => trapped .watch 1 t && t.trapRec.addr == 0x10100 && t.trapRec.fpc == 0x10000) = true := by decide +kernel
/-- A halted thread whose control area translates is resumed (R151). -/
theorem test_tresume :
    let t := th.with [(9, 0xD000)]
    outcome (.tresume 10 9) { pair t th with threads := [t, { th with id := ⟨0, 0, 1⟩, cbase := 0xD000, run := .halted, slot := none }] }
      (fun s => (s.thread? ⟨0, 0, 1⟩).any (fun u => u.run == .active || u.run == .resident)) = true := by decide +kernel
theorem test_priv : outcome .tlbsync (on (hd th) false) (fun s => (s.thread? th.id).any (trapped .priv 0)) = true := by decide +kernel

/-- Two iterations of a `rep` that steps D and A (R113). -/
theorem test_rep : leaves { th.with [(11, 4), (12, 6)] with repLeft := 1, repIter := 1 } (.rep 2 1 1 0 0 (.add .w64 9 11 12))
    (fun t => t.s 10 == 12 && t.pc == 0x10010 && t.repLeft == 0) = true := by decide +kernel

/-! ## Steps of the hardware -/

theorem test_sphead_bad : outcome (.sphead 3 0x80) m0 (fun s => (s.port 3).state == .stopped && (s.port 3).code == 7 && (s.port 3).fail == 0x80) = true := by
  decide +kernel
/-- A card is admitted: the ownership word is 0, and the task has the grid's gangs (R66). -/
theorem test_card : outcome (.portCardConsume 0) (atCard 1 .busy) (fun s => s.tasks.length == 2 && (s.port 0).state == .idle
    && s.readWordPA (32 * 4096 + 0x1C0) == 0) = true := by decide +kernel
theorem test_place : outcome .gangPlace queued (fun s => s.gangs.any (fun g => g.task == 1 && g.cluster.isSome) && s.threads.length == 2) = true := by
  decide +kernel
theorem test_host_write : outcome (.hostWrite 0x5000 [1, 2]) State.reset (fun s => s.readPA 0x5000 3 == [1, 2, 0]) = true := by decide +kernel
/-- A group of 32 ones against ones: an INT32 element grows by 32 (R232). -/
theorem test_mx_element : (m0.mxElement th (mxCmd 0 0 0 2 32 0) 0 0 (List.replicate 32 1) (List.replicate 32 1) 5).1 = 37 := by decide +kernel
theorem test_retire_done : outcome (.retirementEffect th.id)
    { on { th with run := .retired, slot := none, resident := 0 } with tasks := [{ fetchTask with done := 0x10100, value := 77 }] }
    (fun s => s.readWordPA (32 * 4096 + 0x100) == 77 && s.tasks.isEmpty) = true := by decide +kernel
theorem test_nak_down : outcome (.nak 2 5) (wired { up with replay := [(5, fr 2, 0)], resends := 16 }) (fun s => (s.linkOf 2).state == .down) = true := by
  decide +kernel
theorem test_token_report : outcome (.idleFlit 2 ⟨(arr 3 9 (fr 1)).flit, none, true⟩) (wired up) (fun s => s.tokenGen == 1) = true := by decide +kernel
theorem test_stream_applies : outcome (.storeFrame (stF 0 0)) { job5 with rx := [rx 0 0] }
    (fun s => s.readPA (32 * 4096 + 0x100) 1 == [1] && (s.rxOf 9 3).next == 1) = true := by decide +kernel
theorem test_snaptrig_due : outcome .snapshotLatch { State.reset with snap := { State.reset.snap with armed := [(0, 2)] }, cycle := 30 }
    (fun s => s.snap.seq == 1 && s.snap.tick == 2 && s.snap.trigger == 2) = true := by decide +kernel

end Sys2Proof.Tests
end

section
/-! SUPPORT. The host's side of the device (R6, R65, R202, R346 to R350, R373): what records, units of FENCECTL, parkings
and writes of memory change, said once for each shared operation; then the host's register writes, the features, the
start, the host's accesses to memory and the completions, from which O55 is assembled. -/

namespace Sys2Proof.Machine

/-! ## Event records (R347, R348) -/

theorem State.trigger_only (s : State) (which : Nat) : s.trigger which = { s with snap := (s.trigger which).snap } := by
  unfold State.trigger
  split <;> rfl

/-- A record changes the ring, what left over PCI Express, and the snapshot that it may trigger. -/
theorem State.event_only (s : State) (kind asid : Nat) (w1 w2 : Word) : s.event kind asid w1 w2 = { s with
    events := (s.event kind asid w1 w2).events, pcie := (s.event kind asid w1 w2).pcie, snap := (s.event kind asid w1 w2).snap } := by
  unfold State.event
  cases s.fw.state <;> dsimp only <;> split
  any_goals rfl
  all_goals rw [State.trigger_only]

/-! ## BOOTSTAT (R349) -/

/-- A change of BOOTSTAT changes nothing else than its record does. -/
theorem State.bootStep_only (s : State) (b : Boot) : s.bootStep b = { s with
    boot := b, events := (s.bootStep b).events, pcie := (s.bootStep b).pcie, snap := (s.bootStep b).snap } := by
  unfold State.bootStep
  dsimp only
  split
  · rw [State.event_only]
  · rfl

@[simp] theorem State.bootStep_boot (s : State) (b : Boot) : (s.bootStep b).boot = b := by rw [s.bootStep_only]
@[simp] theorem State.bootStep_mem (s : State) (b : Boot) : (s.bootStep b).mem = s.mem := by rw [s.bootStep_only]
@[simp] theorem State.bootStep_cycle (s : State) (b : Boot) : (s.bootStep b).cycle = s.cycle := by rw [s.bootStep_only]
@[simp] theorem State.bootStep_fw (s : State) (b : Boot) : (s.bootStep b).fw = s.fw := by rw [s.bootStep_only]
@[simp] theorem State.bootStep_devnum (s : State) (b : Boot) : (s.bootStep b).devnum = s.devnum := by rw [s.bootStep_only]
@[simp] theorem State.bootStep_featOff0 (s : State) (b : Boot) : (s.bootStep b).featOff0 = s.featOff0 := by rw [s.bootStep_only]

theorem State.setLink_only (s : State) (l : Link) : s.setLink l = { s with links := (s.setLink l).links } := by
  unfold State.setLink
  split <;> rfl

theorem State.trainLinks_only (s : State) : s.trainLinks = { s with links := s.trainLinks.links } := by
  unfold State.trainLinks
  split
  · rfl
  · refine List.foldlRecOn (motive := fun u : State => u = { s with links := u.links }) (List.range 128) _ rfl ?_
    intro u hu n _
    split
    · rw [State.setLink_only, hu]
    · exact hu

theorem stepStatus_ne_zero (units mask : Word) : stepStatus units mask ≠ 0 := by
  unfold stepStatus
  split <;> decide

/-- How a step of stage two leaves BOOTSTAT: it keeps the step, says how it went, and memory stays. -/
theorem State.bootStep_ends (s : State) (code : BitVec 8) (status : BitVec 2) (step : BitVec 4) (h : status ≠ 0) :
    let u := s.bootStep ⟨code, status, 2, step⟩
    u.mem = s.mem ∧ u.boot.stage = 2 ∧ u.boot.step = step ∧ u.boot.status ≠ 0 := by
  dsimp only
  rw [State.bootStep_mem, State.bootStep_boot]
  exact ⟨rfl, rfl, rfl, h⟩

theorem State.runStep_ends (s : State) (step : BitVec 4) : (s.runStep step).mem = s.mem ∧ (s.runStep step).boot.stage = 2
    ∧ (s.runStep step).boot.step = step ∧ (s.runStep step).boot.status ≠ 0 := by
  have done (u : State) (mask : Word) := u.bootStep_ends 0 (stepStatus s.site.units mask) step (stepStatus_ne_zero _ _)
  unfold State.runStep
  split
  case h_4 =>
    rw [State.trainLinks_only]
    exact done _ _
  case h_5 =>
    dsimp only
    split
    · exact done _ _
    · exact State.bootStep_ends _ 2 2 step (by decide)
  all_goals exact done _ _

/-- Step 4 takes the number that the board gives (R384). -/
theorem State.runStep_four_devnum (s : State) : (s.runStep 4).devnum = s.site.devnum := by
  show (State.bootStep (State.trainLinks { s with devnum := s.site.devnum }) _).devnum = _
  rw [State.bootStep_devnum, State.trainLinks_only]

theorem State.runStep_five_featOff0 (s : State) : (s.runStep 5).featOff0 = s.site.offer &&& 0x7F := by
  show State.featOff0 (if s.site.linkOk then _ else _) = _
  split <;> simp

theorem State.runStep_five_linkBad (s : State) (h : s.site.linkOk = false) : (s.runStep 5).boot = ⟨2, 2, 2, 5⟩ := by
  show State.boot (if s.site.linkOk then _ else _) = _
  simp [h]

theorem State.stageTwo_runs (s : State) (h2 : s.boot.stage = 2) (h0 : s.boot.status = 0) : s.stageTwo = some (s.runStep s.boot.step) := by
  simp [State.stageTwo, h2, h0]

theorem State.stageTwo_begins (s : State) (h2 : s.boot.stage = 2) (h0 : s.boot.status ≠ 0) (h5 : s.boot.step.toNat < 5) :
    s.stageTwo = some (s.bootStep ⟨0, 0, 2, s.boot.step + 1⟩) := by
  have less : s.boot.step < 5 := h5
  unfold State.stageTwo
  dsimp only
  rw [if_neg (fun h => h h2), if_neg h0, if_pos less]

theorem State.stageTwo_done (s : State) (h0 : s.boot.status ≠ 0) (h5 : 5 ≤ s.boot.step.toNat) : s.stageTwo = none := by
  have notLess : ¬ s.boot.step < 5 := Nat.not_lt.2 h5
  unfold State.stageTwo
  dsimp only
  rw [if_neg h0, if_neg notLess, ite_self]

/-- Whatever stage one decides, the cycle count starts at 0 and memory stays (log 62). -/
theorem State.stageOne_starts (s : State) : s.stageOne.cycle = 0 ∧ s.stageOne.mem = s.mem := by
  unfold State.stageOne
  dsimp only
  split
  · simp
  · split <;> simp

theorem State.stageOne_hot (s : State) (h : s.site.coolOk = false) : s.stageOne.boot = ⟨3, 3, 1, 0⟩ := by
  simp [State.stageOne, h]

/-- Where the part is cool enough, the image to boot decides (R351). -/
theorem State.stageOne_cool (s : State) (h : s.site.coolOk = true) : match s.fw.bootSlot with
    | none => s.stageOne.boot = ⟨1, 3, 1, 0⟩
    | some b => s.stageOne.boot = ⟨0, 0, 2, 1⟩ ∧ s.stageOne.fw.slot = b := by
  cases hb : s.fw.bootSlot <;> simp [State.stageOne, h, hb]

theorem exec_powerGood_first (s : State) (h : s.boot = ⟨0, 0, 1, 0⟩) : exec .powerGood s = .next s.stageOne := by
  show execPowerGood s = _
  simp [execPowerGood, h]

/-! ## Units of FENCECTL (R354) and FEATLOCK (R350) -/

theorem State.setUnit_only (s : State) (unit : Nat) (f : FenceState) : s.setUnit unit f = { s with
    fences := (s.setUnit unit f).fences, events := (s.setUnit unit f).events, pcie := (s.setUnit unit f).pcie
    snap := (s.setUnit unit f).snap } := by
  unfold State.setUnit
  dsimp only
  rw [State.event_only]

theorem State.setUnit_fences (s : State) (unit : Nat) : (s.setUnit unit .fenced).fences
    = s.fences.filter (fun p => p.1 != unit) ++ [(unit, .fenced)] := by
  unfold State.setUnit
  dsimp only
  rw [State.event_only]
  rfl

/-- Dropping the entries of another key from an association list keeps what a key finds. -/
theorem lookup_filter_ne {β : Type} (l : List (Nat × β)) (k n : Nat) (h : n ≠ k) :
    (l.filter (fun p => p.1 != k)).lookup n = l.lookup n := by
  induction l with
  | nil => rfl
  | cons p ps ih =>
    by_cases hp : p.1 = k
    · have hn : (n == p.1) = false := by simpa [hp] using h
      rw [List.filter_cons_of_neg (by simp [hp]), ih, List.lookup_cons, hn]
    · rw [List.filter_cons_of_pos (by simp [hp]), List.lookup_cons, List.lookup_cons, ih]

/-- A unit just fenced is fenced, and every other unit stands as it did. -/
theorem State.unitState_setUnit_fenced (s : State) (unit n : Nat) :
    (s.setUnit unit .fenced).unitState n = if n = unit then .fenced else s.unitState n := by
  unfold State.unitState
  rw [State.setUnit_fences, List.lookup_append]
  by_cases h : n = unit
  · subst h
    have gone : (s.fences.filter (fun p => p.1 != n)).lookup n = none :=
      List.lookup_eq_none_iff.2 (fun p hp => bne_comm.trans (List.mem_filter.1 hp).2)
    simp [gone]
  · have out : [(unit, FenceState.fenced)].lookup n = none := List.lookup_eq_none_iff.2 (by simpa using h)
    rw [lookup_filter_ne _ _ _ h, out, Option.or_none, if_neg h]

/-- FEATLOCK and one die or stack: fenced unless it was accepted (R350). -/
def State.fenceUnaccepted (s : State) (unit : Nat) : State := if s.featAcc1.getLsbD unit then s else s.setUnit unit .fenced

theorem State.fenceUnaccepted_only (s : State) (unit : Nat) : s.fenceUnaccepted unit = { s with
    fences := (s.fenceUnaccepted unit).fences, events := (s.fenceUnaccepted unit).events, pcie := (s.fenceUnaccepted unit).pcie
    snap := (s.fenceUnaccepted unit).snap } := by
  unfold State.fenceUnaccepted
  split
  · rfl
  · rw [State.setUnit_only]

theorem State.foldl_fenceUnaccepted_only (us : List Nat) (s : State) : us.foldl State.fenceUnaccepted s = { s with
    fences := (us.foldl State.fenceUnaccepted s).fences, events := (us.foldl State.fenceUnaccepted s).events
    pcie := (us.foldl State.fenceUnaccepted s).pcie, snap := (us.foldl State.fenceUnaccepted s).snap } := by
  refine List.foldlRecOn (motive := fun u : State => u = { s with
    fences := u.fences, events := u.events, pcie := u.pcie, snap := u.snap }) us _ rfl ?_
  intro u hu unit _
  rw [State.fenceUnaccepted_only, hu]

theorem State.foldl_fenceUnaccepted_unitState (us : List Nat) (s : State) (n : Nat) (hn : s.featAcc1.getLsbD n = false)
    (h : n ∈ us ∨ s.unitState n = .fenced) : (us.foldl State.fenceUnaccepted s).unitState n = .fenced := by
  induction us generalizing s with
  | nil => simpa using h
  | cons unit us ih =>
    rw [List.foldl_cons]
    refine ih _ (by rw [State.fenceUnaccepted_only]; exact hn) ?_
    unfold State.fenceUnaccepted
    by_cases hu : n = unit
    · right
      simp [← hu, hn, State.unitState_setUnit_fenced]
    · refine h.imp (fun h => by simpa [hu] using h) (fun h => ?_)
      split
      · exact h
      · rw [State.unitState_setUnit_fenced, if_neg hu, h]

/-- The words that FEATLOCK accepts, fixed. -/
def State.acceptFeatures (s : State) : State :=
  { s with featAcc0 := s.featAcc0 &&& s.featOff0, featAcc1 := s.featAcc1 &&& s.featOff1, featLock := true }

/-- FEATLOCK where nothing is fixed yet: the words accepted, the units not accepted fenced, the links that may not be lit dark. -/
theorem execFeatlock_open (s : State) (h : s.featLock = false) :
    let u := (List.range 24).foldl State.fenceUnaccepted s.acceptFeatures
    execFeatlock s = .next { u with
      links := u.links.map (fun l => if u.mayLight l.num then l else { l with state := .dark, peer := none }) } := by
  unfold execFeatlock
  rw [h]
  rfl

theorem execFeatlock_locked (s : State) (h : s.featLock = true) : execFeatlock s = .next s := by
  simp [execFeatlock, h]

/-- Without FABRIC no link may be lit after FEATLOCK (R350). -/
theorem State.mayLight_noFabric (s : State) (n : Nat) (h : s.featLock = true) (h1 : s.featAcc0.getLsbD 1 = false) :
    s.mayLight n = false := by
  unfold State.mayLight State.hasFabric State.feature
  rw [h, h1]
  simp

theorem featlock_accepts (s : State) : ∃ s', exec .featlock s = .next s' ∧ s'.featLock = true
    ∧ (s.featLock = true → s' = s)
    ∧ (s.featLock = false → s'.featAcc0 = s.featAcc0 &&& s.featOff0 ∧ s'.featAcc1 = s.featAcc1 &&& s.featOff1
      ∧ s' = { s with featAcc0 := s'.featAcc0, featAcc1 := s'.featAcc1, featLock := true, fences := s'.fences, links := s'.links
                      events := s'.events, pcie := s'.pcie, snap := s'.snap }
      ∧ (∀ unit < 24, s'.featAcc1.getLsbD unit = false → s'.unitState unit = .fenced)
      ∧ (s'.featAcc0.getLsbD 1 = false → ∀ l ∈ s'.links, l.state = .dark)) := by
  cases h : s.featLock with
  | true => exact ⟨s, execFeatlock_locked s h, h, fun _ => rfl, nofun⟩
  | false =>
    have only := State.foldl_fenceUnaccepted_only (List.range 24) s.acceptFeatures
    have fenced := State.foldl_fenceUnaccepted_unitState (List.range 24) s.acceptFeatures
    have runs := execFeatlock_open s h
    dsimp only at runs
    generalize (List.range 24).foldl State.fenceUnaccepted _ = u at only fenced runs
    have acc0 : u.featAcc0 = s.featAcc0 &&& s.featOff0 := by rw [only]; rfl
    have acc1 : u.featAcc1 = s.featAcc1 &&& s.featOff1 := by rw [only]; rfl
    have lock : u.featLock = true := by rw [only]; rfl
    refine ⟨_, runs, lock, nofun, fun _ => ⟨acc0, acc1, ?_, ?_, ?_⟩⟩
    · rw [only]
      rfl
    · intro unit hunit hacc
      rw [acc1] at hacc
      exact fenced unit hacc (.inl (List.mem_range.2 hunit))
    · intro hfab l hl
      obtain ⟨m, -, rfl⟩ := List.mem_map.1 hl
      rw [if_neg (by simp [u.mayLight_noFabric m.num lock hfab])]

/-! ## Parking every placed gang of an ASID (R65, R83) -/

/-- The gang once its parking has begun: only a placed gang parks, and a parking under way is joined. -/
def Gang.parks (g : Gang) (why : Nat) : Gang := if g.cluster.isSome && g.parking.isNone then { g with parking := some why } else g

theorem Gang.parks_eq (g : Gang) (why : Nat) :
    g.parks why = if g.cluster.isSome = true then { g with parking := some (g.parking.getD why) } else g := by
  unfold Gang.parks
  by_cases hc : g.cluster.isSome = true
  · cases hp : g.parking with
    | none => simp [hc]
    | some w =>
      simp only [hc, Option.isNone_some, Bool.and_false, Option.getD_some, if_true, Bool.false_eq_true, if_false]
      rw [← hp]
  · simp [hc]

@[simp] theorem Gang.parks_task (g : Gang) (why : Nat) : (g.parks why).task = g.task := by unfold Gang.parks; split <;> rfl
@[simp] theorem Gang.parks_index (g : Gang) (why : Nat) : (g.parks why).index = g.index := by unfold Gang.parks; split <;> rfl

/-- A parking that has begun begins no more. -/
@[simp] theorem Gang.parks_parks (g : Gang) (why : Nat) : (g.parks why).parks why = g.parks why := by
  unfold Gang.parks
  split <;> simp_all

theorem gang?_key {s : State} {task index : Nat} {g : Gang} (h : s.gang? task index = some g) : g.task = task ∧ g.index = index := by
  simpa using List.find?_some h

/-- A gang put back in its place is read back, and every other gang stands as it did. -/
theorem State.gang?_setGang (s : State) (g : Gang) (task index : Nat) :
    (s.setGang g).gang? task index = (s.gang? task index).map (fun h => if h.task = g.task ∧ h.index = g.index then g else h) := by
  unfold State.gang? State.setGang
  rw [List.find?_map]
  congr 2
  funext h
  by_cases hk : h.task = g.task ∧ h.index = g.index <;> simp [hk]

theorem State.beginPark_only (s : State) (why : Nat) (key : Nat × Nat) :
    s.beginPark why key = { s with gangs := (s.beginPark why key).gangs } := by
  unfold State.beginPark State.onGang
  split <;> rfl

/-- One gang changed where it stands, seen from any gang. -/
theorem State.gang?_onGang (s : State) (k i : Nat) (f : Gang → Gang) (hf : ∀ g, (f g).task = g.task ∧ (f g).index = g.index)
    (task index : Nat) : (s.onGang k i f).gang? task index
      = (s.gang? task index).map (fun g => if (task, index) = (k, i) then f g else g) := by
  unfold State.onGang
  by_cases h : (task, index) = (k, i)
  · obtain ⟨rfl, rfl⟩ := Prod.mk.inj h
    cases hg : s.gang? task index with
    | none => simp [hg]
    | some g => simp [State.gang?_setGang, hg, hf g]
  · simp only [h, if_false, Option.map_id']
    cases hg : s.gang? k i with
    | none => rfl
    | some g =>
      dsimp only
      rw [State.gang?_setGang, (hf g).1, (hf g).2, (gang?_key hg).1, (gang?_key hg).2]
      cases hu : s.gang? task index with
      | none => rfl
      | some u =>
        have other : ¬(u.task = k ∧ u.index = i) := by simpa [gang?_key hu] using h
        rw [Option.map_some, if_neg other]

theorem State.gang?_beginPark (s : State) (why : Nat) (key : Nat × Nat) (task index : Nat) :
    (s.beginPark why key).gang? task index = (s.gang? task index).map (fun g => if (task, index) = key then g.parks why else g) :=
  s.gang?_onGang key.1 key.2 (fun g => g.parks why) (fun g => ⟨g.parks_task why, g.parks_index why⟩) task index

/-- Parkings of a list of gangs begin: those named leave, the others stand as they did. -/
theorem State.gang?_foldl_beginPark (why : Nat) (keys : List (Nat × Nat)) (s : State) (task index : Nat) :
    (keys.foldl (fun s key => s.beginPark why key) s).gang? task index
      = (s.gang? task index).map (fun g => if (task, index) ∈ keys then g.parks why else g) := by
  induction keys generalizing s with
  | nil => simp
  | cons key keys ih =>
    rw [List.foldl_cons, ih, State.gang?_beginPark, Option.map_map]
    congr 1
    funext g
    by_cases h1 : (task, index) = key <;> by_cases h2 : (task, index) ∈ keys <;> simp [h1, h2]

theorem State.parkAll_only (s : State) (p : Gang → Bool) : s.parkAll p = { s with gangs := (s.parkAll p).gangs } := by
  unfold State.parkAll
  refine List.foldlRecOn (motive := fun u : State => u = { s with gangs := u.gangs }) _ _ rfl ?_
  intro u hu key _
  rw [State.beginPark_only, hu]

/-- Every gang leaves with itself where it is placed, and none leaves with the gangs of another task. -/
theorem State.mem_leaveWith (s : State) (g : Gang) (hg : g ∈ s.gangs) (hc : g.cluster.isSome = true) :
    (g.task, g.index) ∈ s.leaveWith (g.task, g.index) := by
  unfold State.leaveWith
  dsimp only
  split
  · split
    · exact List.mem_map.2 ⟨g, List.mem_filter.2 ⟨hg, by simp [hc]⟩, rfl⟩
    · simp
  · simp

theorem State.task_of_mem_leaveWith (s : State) (key k : Nat × Nat) (h : k ∈ s.leaveWith key) : k.1 = key.1 := by
  unfold State.leaveWith at h
  split at h
  · split at h
    · obtain ⟨g, hg, rfl⟩ := List.mem_map.1 h
      have mate := (List.mem_filter.1 hg).2
      simp only [Bool.and_eq_true, beq_iff_eq] at mate
      exact mate.1
    · rw [List.mem_singleton.1 h]
  · rw [List.mem_singleton.1 h]

/-- The gangs that `parkAll` parks. -/
def State.parkKeys (s : State) (p : Gang → Bool) : List (Nat × Nat) :=
  ((s.gangs.filter (fun g => g.cluster.isSome && p g)).flatMap (fun g => s.leaveWith (g.task, g.index))).eraseDups

theorem State.mem_parkKeys (s : State) (p : Gang → Bool) (key : Nat × Nat) : key ∈ s.parkKeys p
    ↔ ∃ h ∈ s.gangs, h.cluster.isSome = true ∧ p h = true ∧ key ∈ s.leaveWith (h.task, h.index) := by
  unfold State.parkKeys
  rw [List.mem_eraseDups, List.mem_flatMap]
  simp [and_assoc]

/-- Where the choice is by task, the placed gangs of the tasks chosen begin to be parked. -/
theorem State.gang?_parkAll (s : State) (p : Nat → Bool) (g : Gang) (hg : s.gang? g.task g.index = some g) :
    (s.parkAll (fun h => p h.task)).gang? g.task g.index = some (if p g.task then g.parks 1 else g) := by
  have fold := State.gang?_foldl_beginPark 1 (s.parkKeys (fun h => p h.task)) s g.task g.index
  rw [hg, Option.map_some] at fold
  refine fold.trans (congrArg some ?_)
  by_cases hp : p g.task = true
  · rw [if_pos hp]
    by_cases hc : g.cluster.isSome = true
    · have hm : g ∈ s.gangs := List.mem_of_find?_eq_some hg
      rw [if_pos ((s.mem_parkKeys _ _).2 ⟨g, hm, hc, hp, s.mem_leaveWith g hm hc⟩)]
    · simp [Gang.parks, hc]
  · have out : (g.task, g.index) ∉ s.parkKeys (fun h => p h.task) := by
      rw [State.mem_parkKeys]
      rintro ⟨h, -, -, hh, hk⟩
      have same : g.task = h.task := s.task_of_mem_leaveWith _ _ hk
      exact hp (same ▸ hh)
    rw [if_neg out, if_neg hp]

/-- The task of a number is one of an ASID. -/
def State.taskIn (s : State) (asid num : Nat) : Bool := match s.task? num with
  | some k => k.asid == asid
  | none => false

theorem exec_spctlPark (s : State) (p : Nat) (hp : p < 64) :
    exec (.spctlPark p) s = .next (s.parkAll (fun g => s.taskIn (s.port p).asid g.task)) := by
  show execSpctlPark p s = _
  unfold execSpctlPark
  rw [if_neg (Nat.not_le.2 hp)]
  rfl

theorem spctlPark_parks (s : State) (p : Nat) (hp : p < 64) : ∃ s', exec (.spctlPark p) s = .next s' ∧ s' = { s with gangs := s'.gangs }
    ∧ ∀ g k, s.gang? g.task g.index = some g → s.task? g.task = some k →
      s'.gang? g.task g.index = some (if k.asid = (s.port p).asid ∧ g.cluster.isSome = true then
        { g with parking := some (g.parking.getD 1) } else g) := by
  refine ⟨_, exec_spctlPark s p hp, s.parkAll_only _, fun g k hg hk => ?_⟩
  rw [State.gang?_parkAll s _ g hg, Gang.parks_eq]
  by_cases h : k.asid = (s.port p).asid <;> simp [State.taskIn, hk, h]

/-! ## Ports (R65, R66, R68) -/

theorem Port.takesHead_iff (x : Port) : x.takesHead = true ↔ x.state = .idle ∨ x.state = .stopped := by
  simp [Port.takesHead]

theorem exec_sphead (s : State) (p : Nat) (v : Word) (hp : p < 64) : exec (.sphead p v) s = .next (
    if (s.port p).takesHead then s.startPort p v none else s.setPort p { s.port p with lost := true }) := by
  show execSphead p v s = _
  unfold execSphead
  rw [if_neg (Nat.not_le.2 hp)]

theorem exec_spctlHold (s : State) (p : Nat) (hold : Bool) (hp : p < 64) :
    exec (.spctlHold p hold) s = .next (s.setPort p { s.port p with hold := hold }) := by
  show execSpctlHold p hold s = _
  unfold execSpctlHold
  rw [if_neg (Nat.not_le.2 hp)]

theorem sphead_ignored (s : State) (p : Nat) (v : Word) (hp : p < 64) (h : (s.port p).state = .busy ∨ (s.port p).state = .waiting) :
    exec (.sphead p v) s = .next (s.setPort p { s.port p with lost := true }) := by
  have shut : (s.port p).takesHead = false := by
    rcases h with h | h <;> simp [Port.takesHead, h]
  simp [exec_sphead s p v hp, shut]

theorem sphead_starts (s : State) (p : Nat) (v : Word) (hp : p < 64) (h : (s.port p).state = .idle ∨ (s.port p).state = .stopped)
    (h256 : v.toNat % 256 = 0) (h57 : v.toNat < 2 ^ 57) : exec (.sphead p v) s = .next (s.setPort p { s.port p with
      head := v, next := v, spawner := none, count := 0, state := .busy }) := by
  rw [exec_sphead s p v hp, if_pos ((Port.takesHead_iff _).2 h)]
  unfold State.startPort
  dsimp only
  rw [if_neg (by omega)]

/-- What is put on a port is read back where the device has it; a port that it has not is as at reset. -/
theorem State.port_setPort (s : State) (p : Nat) (x : Port) : (s.setPort p x).port p = if p < s.ports.length then x else Port.reset := by
  unfold State.port State.setPort
  split <;> simp_all

/-- A refused card of a chain that the host submitted (R68). -/
theorem State.refuseCard_setPort (s : State) (p : Nat) (x : Port) (card : Word) (code : Nat) (hx : x.spawner = none)
    (ha : x.asid = (s.port p).asid) : (s.setPort p x).refuseCard p card code
      = (s.setPort p { x with state := .stopped, code := BitVec.ofNat 8 code, fail := card }).event 0x01 x.asid card
          (BitVec.ofNat 64 (p + 256 * code)) := by
  have twice : ∀ y, (s.setPort p x).setPort p y = s.setPort p y := fun y => by simp [State.setPort]
  unfold State.refuseCard
  dsimp only
  rw [State.port_setPort, twice]
  by_cases hp : p < s.ports.length
  · simp [hp, hx]
  · have gone : s.port p = Port.reset := by simp [State.port, Nat.le_of_not_lt hp]
    have keep : ∀ y, s.setPort p y = s := fun y => by simp [State.setPort, List.set_eq_of_length_le (Nat.le_of_not_lt hp)]
    simp [hp, keep, ha, gone, Port.reset]

theorem sphead_stops (s : State) (p : Nat) (v : Word) (hp : p < 64) (h : (s.port p).state = .idle ∨ (s.port p).state = .stopped)
    (hv : v.toNat % 256 ≠ 0 ∨ 2 ^ 57 ≤ v.toNat) : exec (.sphead p v) s = .next ((s.setPort p { s.port p with
      head := v, next := v, spawner := none, count := 0, state := .stopped, code := 7, fail := v }).event 0x01 (s.port p).asid v
        (BitVec.ofNat 64 (p + 0x700))) := by
  rw [exec_sphead s p v hp, if_pos ((Port.takesHead_iff _).2 h)]
  unfold State.startPort
  dsimp only
  rw [if_pos hv, State.refuseCard_setPort s p { s.port p with head := v, next := v, spawner := none, count := 0 } v 7 rfl rfl]
  rfl

/-! ## Registers (R6, R65, R346) -/

theorem getBits_zero_toNat (v : Word) (w : Nat) : (getBits v 0 w).toNat = v.toNat % 2 ^ w := by
  simp [getBits]

/-- The blocks of the ports lie one after the other, 64 bytes each (R65). -/
theorem exec_registerWrite_port (s : State) (p off : Nat) (v : Word) (hp : p < 64) (ho : off < 64) :
    exec (.registerWrite (0x100000 + 64 * p + off) v) s = s.writePort p off v := by
  show execRegisterWrite _ v s = _
  unfold execRegisterWrite
  have hport : (0x100000 + 64 * p + off - 0x100000) / 64 = p := by omega
  have hoff : (0x100000 + 64 * p + off - 0x100000) % 64 = off := by omega
  rw [if_pos (by omega), hport, hoff]

theorem exec_registerWrite_spasid (s : State) (p : Nat) (v : Word) (hp : p < 64) :
    exec (.registerWrite (0x100000 + 64 * p + 0x08) v) s = .next (if (s.port p).state = .idle ∨ (s.port p).state = .stopped then
      s.setPort p { s.port p with asid := v.toNat % 65536 } else s) := by
  have low : (getBits v 0 16).toNat = v.toNat % 65536 := getBits_zero_toNat v 16
  have write : s.writePort p 0x08 v = .next (if (s.port p).takesHead = true then
    s.setPort p { s.port p with asid := (getBits v 0 16).toNat } else s) := rfl
  rw [exec_registerWrite_port s p 0x08 v hp (by decide), write, low]
  simp only [Port.takesHead_iff]

theorem exec_registerWrite_spctl (s : State) (p : Nat) (v : Word) (hp : p < 64) :
    let held := s.setPort p { s.port p with hold := v.getLsbD 0 }
    exec (.registerWrite (0x100000 + 64 * p + 0x18) v) s = if v.getLsbD 1 then exec (.spctlPark p) held else .next held :=
  exec_registerWrite_port s p 0x18 v hp (by decide)

theorem exec_registerWrite_asiddir (s : State) (v : Word) : exec (.registerWrite 0x4000 v) s = .next { s with
    dirBase := getBits v 24 20, dirEn := if s.tasks = [] then v.getLsbD 0 else s.dirEn } := by
  have empty : (if s.tasks.isEmpty then v.getLsbD 0 else s.dirEn) = if s.tasks = [] then v.getLsbD 0 else s.dirEn := by
    simp only [List.isEmpty_iff]
  rw [← empty]
  rfl

theorem exec_registerWrite_evtail (s : State) (v : Word) : exec (.registerWrite 0x1018 v) s = .next { s with
    events := { s.events with tail := v.toNat % 2 ^ 20, sent := false } } := by
  rw [← getBits_zero_toNat]
  rfl

/-- Offsets of read-only registers, and one that is not listed, ignore a write (R6). -/
theorem exec_registerWrite_readOnly (s : State) (v : Word) :
    ∀ off ∈ [0x0000, 0x0008, 0x0010, 0x0030, 0x1010, 0x1020, 0x2008, 0x5008, 0x6000], exec (.registerWrite off v) s = .next s := by
  simp only [List.forall_mem_cons]
  exact ⟨rfl, rfl, rfl, rfl, rfl, rfl, rfl, rfl, rfl, List.forall_mem_nil _⟩

theorem exec_registerWrite_fwctl (s : State) (v : Word) (h : v.getLsbD 1 = true) :
    exec (.registerWrite 0x5000 v) s = exec (.fwctlAct (getBits v 32 32) (v.getLsbD 2)) s := by
  show s.writeFw v = execFwctlAct _ _ s
  simp [State.writeFw, h]

/-- A write of FENCECTL with GO does the action that it names to the unit that it names (R354). -/
theorem exec_registerWrite_fencectl (s : State) (v : Word) (h : v.getLsbD 10 = true) :
    ∀ q ∈ ([(1, .fencectlFence (v.toNat % 256)), (2, .fencectlDrain (v.toNat % 256)), (3, .fencectlReturn (v.toNat % 256))] :
        List (Nat × Instr)),
      (getBits v 8 2).toNat = q.1 → exec (.registerWrite 0x2000 v) s = exec q.2 s := by
  have go : exec (.registerWrite 0x2000 v) s = s.writeFence v := rfl
  have unit : v.toNat % 256 = (getBits v 0 8).toNat := (getBits_zero_toNat v 8).symm
  rw [go, unit]
  simp only [List.forall_mem_cons, State.writeFence, h]
  refine ⟨?_, ?_, ?_, List.forall_mem_nil _⟩ <;> (intro act; rw [act]; rfl)

/-! ## Writes and reads of device memory (R202) -/

theorem Memory.read_write_same (m : Memory) (pa : Nat) (bs : List Byte) : (m.write pa bs).read pa bs.length = bs := by
  rw [Memory.read_eq]
  unfold tabulate
  refine List.ext_getElem (by simp) (fun i h _ => ?_)
  have hi : i < bs.length := by simpa using h
  simp [Memory.byte_write_inside m pa bs i hi, hi]

theorem State.dirtied_only (s : State) (via : Via) (pa : Nat) (bs : List Byte) :
    s.dirtied via pa bs = { s with copies := (s.dirtied via pa bs).copies } := by
  unfold State.dirtied
  cases via
  case all => dsimp only; split <;> rfl
  all_goals rfl

theorem State.touchLines_only (s : State) (pa n : Nat) (by' : Option (Nat × Nat)) :
    s.touchLines pa n by' = { s with watched := (s.touchLines pa n by').watched } := by
  unfold State.touchLines
  split <;> rfl

theorem State.wakeBarriers_noneBlocked (s : State) (h : ∀ u ∈ s.threads, u.block ≠ .bar) : s.wakeBarriers = s := by
  have none : s.threads.any (fun t => t.block == .bar && t.waitsHere) = false := by simpa using fun u hu hb => absurd hb (h u hu)
  unfold State.wakeBarriers
  rw [none]
  rfl

/-- A write at its home, where no thread is blocked on a barrier word. -/
theorem State.storeHome_noneBlocked (s : State) (via : Via) (pa : Nat) (bs : List Byte) (by' : Option (Nat × Nat))
    (h : ∀ u ∈ s.threads, u.block ≠ .bar) : s.storeHome via pa bs by' = { s with
      mem := s.mem.write pa bs, copies := (s.storeHome via pa bs by').copies, watched := (s.storeHome via pa bs by').watched } := by
  unfold State.storeHome
  rw [State.wakeBarriers_noneBlocked]
  · rw [State.touchLines_only, State.dirtied_only]
    rfl
  · rw [State.touchLines_only, State.dirtied_only]
    exact h

theorem hostWrite_stores (s : State) (pa : Nat) (data : List Byte) (hd : data ≠ []) (hpa : pa + data.length ≤ Config.hbmBytes)
    (hr : s.resident pa = true) (hu : ∀ u ∈ s.threads, u.damaged = 0 ∧ u.block ≠ .bar) :
    ∃ s', exec (.hostWrite pa data) s = .next s' ∧ s' = { s with mem := s.mem.write pa data, copies := s'.copies, watched := s'.watched }
      ∧ s'.readPA pa data.length = data := by
  have served : ¬(data.isEmpty = true ∨ Config.hbmBytes < pa + data.length ∨ (!s.resident pa) = true) := by
    simp [hd, hr, hpa]
  have hurt : s.threads.filter (fun t => t.damaged != 0 && s.controlUnder t pa data.length) = [] :=
    List.filter_eq_nil_iff.2 (fun u h => by simp [(hu u h).1])
  have only := s.storeHome_noneBlocked .all pa data none (fun u h => (hu u h).2)
  refine ⟨s.storeHome .all pa data none, ?_, only, ?_⟩
  · show execHostWrite pa data s = _
    unfold execHostWrite
    rw [if_neg served, hurt]
    rfl
  · rw [only]
    exact s.mem.read_write_same pa data

theorem State.retireRange_good (s : State) (pa n : Nat) (h : s.badAt pa n = false) : s.retireRange pa n = s := by
  have none : s.badLines.filter (fun l => decide (l * 256 < pa + n ∧ pa < l * 256 + 256)) = [] :=
    List.filter_eq_nil_iff.2 (List.any_eq_false.1 h)
  unfold State.retireRange
  rw [none, List.foldl_nil]

theorem hostRead_answers (s : State) (pa n : Nat) (hpa : pa + n ≤ Config.hbmBytes) (hr : s.resident pa = true) (hb : s.badAt pa n = false) :
    let u := s.corrected pa n
    exec (.hostRead pa n) s = .next { u with pcie := u.pcie ++ [.completion (u.readPA pa n)] } := by
  have served : ¬(Config.hbmBytes < pa + n ∨ (!s.resident pa) = true) := by simp [hr, hpa]
  show execHostRead pa n s = _
  unfold execHostRead
  rw [if_neg served, s.retireRange_good pa n hb]

/-! ## Completions (R201, R373) -/

section
variable (s : State) (tag : Nat) (q : Pending) (data : List Byte) (hq : s.pends.find? (fun q => q.tag == tag && q.answer.isNone) = some q)
  (hr : s.hostRefuses tag = false)
include hq hr

theorem pcieCompletion_answers (ho : ∀ c id, q.owner ≠ .hostNr c id) : exec (.pcieCompletion tag (.data data)) s
    = .next { s with pends := s.pends.map (fun r => if r.tag = tag then { r with answer := some (.data data) } else r) } := by
  show execPcieCompletion tag (.data data) s = _
  unfold execPcieCompletion
  rw [hq, hr]
  dsimp only
  cases h : q.owner
  case hostNr c id => exact absurd h (ho c id)
  all_goals rfl

/-- A `.nr` atomic waits for nothing but the end of its request. -/
theorem pcieCompletion_drops (c : Nat) (id : ThreadId) (ho : q.owner = .hostNr c id) : exec (.pcieCompletion tag (.data data)) s
    = .next { s with pends := s.pends.filter (fun r => r.tag != tag) } := by
  show execPcieCompletion tag (.data data) s = _
  unfold execPcieCompletion
  rw [hq, hr]
  dsimp only
  rw [ho]
  rfl

end

/-! ## O55 -/

/-- Settles O55: it holds, each clause by the lemma above of its register, its step of the start, its access or its completion. -/
theorem hostRegisters : Obligations.HostRegisters := by
  unfold Obligations.HostRegisters
  intro s p v hold pa n tag data
  refine ⟨fun hp => ⟨sphead_ignored s p v hp, fun h => ⟨sphead_starts s p v hp h, sphead_stops s p v hp h⟩,
      exec_spctlHold s p hold hp, spctlPark_parks s p hp, exec_registerWrite_port s p 0 v hp (by decide),
      exec_registerWrite_spasid s p v hp, exec_registerWrite_port s p 0x10 v hp (by decide), exec_registerWrite_spctl s p v hp,
      exec_registerWrite_port s p 0x20 v hp (by decide)⟩,
    ?_, exec_registerWrite_readOnly s v, rfl, rfl, exec_registerWrite_fwctl s v, exec_registerWrite_fencectl s v,
    featlock_accepts s, ?_, ?_, ?_, ?_, hostWrite_stores s pa data, hostRead_answers s pa n, ?_⟩
  · simp only [List.forall_mem_cons]
    exact ⟨rfl, rfl, rfl, exec_registerWrite_evtail s v, exec_registerWrite_asiddir s v, List.forall_mem_nil _⟩
  · intro hb
    obtain ⟨hcycle, hmem⟩ := s.stageOne_starts
    exact ⟨_, exec_powerGood_first s hb, hcycle, hmem, s.stageOne_hot, s.stageOne_cool⟩
  · intro h2 h0
    obtain ⟨hmem, hstage, hstep, hstatus⟩ := s.runStep_ends s.boot.step
    refine ⟨_, s.stageTwo_runs h2 h0, hmem, hstage, hstep, hstatus, fun h4 => ?_, fun h5 => ?_⟩
    · rw [h4, s.runStep_four_devnum]
    · rw [h5]
      exact ⟨s.runStep_five_featOff0, s.runStep_five_linkBad⟩
  · intro h2 h0 h5
    exact ⟨_, s.stageTwo_begins h2 h0 h5, s.bootStep_mem _, s.bootStep_boot _⟩
  · exact fun h5 h0 => s.stageTwo_done h0 h5
  · exact fun q hq hr => ⟨pcieCompletion_answers s tag q data hq hr, pcieCompletion_drops s tag q data hq hr⟩

end Sys2Proof.Machine
end

section
/-! SUPPORT. Lanes of masks (R19, R169): `kset`, and what `kpop`, `kfirst` and `kget` read of a mask, from which O21 is assembled. -/

namespace Sys2Proof

@[simp] theorem KReg.ofField_field (k : KReg) : KReg.ofField k.field = k := by
  revert k
  decide

end Sys2Proof

namespace Sys2Proof.Machine

/-! ## Instructions that write one mask or read one -/

/-- A body that writes one mask register and reads no vector. -/
theorem writesMask {s : State} {t : Thread} {i : Instr} {body : Body} {d : KReg} {x : MaskBits}
    (h : MayRun s t i) (hx : exec i s = issue i body s) (hi : i ≠ .trapret) (hw : i.writes = [.k d])
    (hb : body { pc0 := t.pc } (s.begun t i) t.begun = .ok (s.begun t i) (t.begun.setK d x)) : WritesMask i s t d x := by
  refine completes_leaves h hx hi hw hb (like_setK _ _ _) (begun_wroteOnly.1 (setK_wroteOnly (by simpa using h.views) d x)) (by simp) ?_ ?_
  · constructor <;> simp
  · intro t' hregs _ _ hvk _
    have read : t'.k d = (t.begun.setK d x).k d := by
      unfold Thread.k
      rw [hregs, hvk, Thread.setK_vwK, Thread.begun_vwK]
    rw [read, k_setK (by simpa using h.views) d x]

theorem clampInt_toNat (x : Int) (n : Nat) : (clampInt x 0 n).toNat = min n x.toNat := by
  unfold clampInt
  split
  · omega
  · split <;> omega

theorem kset_writes_ref (ty : ElemType) (d : KReg) (a : SReg) : (Instr.kset ty d a).writes = [.k d] := by
  show [RegRef.k (KReg.ofField d.field)] = _
  rw [KReg.ofField_field]

section
variable {s : State} {t : Thread} (ty : ElemType) (d a : KReg) (sd sa sb : SReg)

theorem kpop_counts (h : MayRun s t (.kpop ty sd a)) :
    WritesScalar (.kpop ty sd a) s t sd (BitVec.ofNat 64 ((maskLanes ty (t.k a)).countP id)) := by
  refine writesScalar h rfl (by simp) rfl ?_
  unfold bodyKpop
  rw [begun_k, List.countP_eq_length_filter]

theorem kfirst_finds (h : MayRun s t (.kfirst ty sd a)) :
    WritesScalar (.kfirst ty sd a) s t sd (BitVec.ofNat 64 ((maskLanes ty (t.k a)).findIdx id)) := by
  refine writesScalar h rfl (by simp) rfl ?_
  unfold bodyKfirst
  rw [begun_k, List.findIdx_eq_getD_findIdx?]

theorem kget_extracts (h : MayRun s t (.kget sd a sb)) :
    WritesScalar (.kget sd a sb) s t sd ((t.k a).extractLsb' (64 * ((t.s sb).toNat % 4)) 64) := by
  refine writesScalar h rfl (by simp) rfl ?_
  unfold bodyKget getBits
  rw [begun_k, begun_s]

/-- Clamping S(A) to 0 … L is the minimum of R19. -/
theorem kset_setsLowest (h : MayRun s t (.kset ty d sa)) :
    WritesMask (.kset ty d sa) s t d (onesAt 256 0 (ty.bytes * min ty.lanes (t.s sa).toInt.toNat)) := by
  refine writesMask h rfl (by simp) (kset_writes_ref ty d sa) ?_
  unfold bodyKset
  rw [begun_s, clampInt_toNat, Nat.mul_comm]

end

end Sys2Proof.Machine

namespace Sys2Proof

/-! ## O21 -/

/-- Settles O21: it holds, each member by the lemma above of its own. -/
theorem maskLanes : Obligations.MaskLanes := by
  unfold Obligations.MaskLanes
  intro s t ty d a sd sa sb
  simp only [List.forall_mem_cons]
  exact ⟨⟨Machine.kpop_counts ty a sd, Machine.kfirst_finds ty a sd, Machine.kget_extracts a sd sb, List.forall_mem_nil _⟩,
    Machine.kset_setsLowest ty d sa⟩

end Sys2Proof
end

section
/-! SUPPORT. Loads (R170 to R172, R175, R317, R357): what the translation and the checks of an access, the correction of errors and
the taking of answers change, said once for each shared operation; how an instruction alone or behind an `imx` completes; then
vector destinations, from which O26 is assembled. -/

namespace Sys2Proof.Machine

/-! ## What an access changes before it is performed (R305, R312, R357, R358) -/

/-- Two states that differ at most in what translating an access, and correcting or retiring the lines that it reads, may change:
memory with its caches and errors, the records of those errors, and the stores of translations. -/
def State.translatedTo (s s' : State) : Prop :=
  s' = { s with
    mem := s'.mem, copies := s'.copies, badLines := s'.badLines, softLines := s'.softLines, softCount := s'.softCount
    retired := s'.retired, lostFrames := s'.lostFrames, events := s'.events, snap := s'.snap, pcie := s'.pcie
    memTlb := s'.memTlb, pageCheck := s'.pageCheck, egress := s'.egress }

theorem State.translatedTo_refl (s : State) : s.translatedTo s := rfl

theorem State.translatedTo_trans {s u v : State} (h1 : s.translatedTo u) (h2 : u.translatedTo v) : s.translatedTo v := by
  unfold State.translatedTo at *
  rw [h2]
  rw [h1]

theorem State.translatedTo_foldl {α : Type} (f : State → α → State) (h : ∀ (s : State) (a : α), s.translatedTo (f s a))
    (as : List α) (s : State) :
    s.translatedTo (as.foldl f s) := by
  induction as generalizing s with
  | nil => exact s.translatedTo_refl
  | cons a as ih => exact State.translatedTo_trans (h s a) (ih _)

theorem State.translatedTo_threads {s u : State} (h : s.translatedTo u) : u.threads = s.threads := by rw [h]
theorem State.translatedTo_thread? {s u : State} (h : s.translatedTo u) (id : ThreadId) : u.thread? id = s.thread? id := by
  unfold State.thread?
  rw [State.translatedTo_threads h]
theorem State.translatedTo_asidOf {s u : State} (h : s.translatedTo u) (t : Thread) : u.asidOf t = s.asidOf t := by rw [h]; rfl

theorem State.countSoft_translatedTo (s : State) (unit : Nat) : s.translatedTo (s.countSoft unit) := by
  unfold State.countSoft
  cases s.softCount.find? (fun c => c.1 == unit) <;> dsimp only <;> split
  · rw [State.event_only]
    rfl
  · rfl
  · rw [State.event_only]
    rfl
  · rfl

theorem State.corrected_translatedTo (s : State) (pa n : Nat) : s.translatedTo (s.corrected pa n) :=
  State.translatedTo_foldl _ (fun s _ => s.countSoft_translatedTo _) _ s

theorem State.retireLine_translatedTo (s : State) (line : Nat) : s.translatedTo (s.retireLine line) := by
  unfold State.retireLine
  dsimp only
  split
  · rw [State.event_only]
    rfl
  · rfl

theorem State.scanned_translatedTo (s : State) (pa n : Nat) : s.translatedTo (s.scanned pa n) := by
  unfold State.scanned
  split
  · exact s.translatedTo_refl
  · exact State.translatedTo_trans (s.corrected_translatedTo pa n)
      (State.translatedTo_foldl _ (fun s l => s.retireLine_translatedTo l) _ _)

theorem State.readNodes_translatedTo (s : State) (asid va : Nat) : s.translatedTo (s.readNodes asid va) := by
  unfold State.readNodes
  split
  · exact s.translatedTo_refl
  · exact State.translatedTo_foldl _ (fun s pa => s.scanned_translatedTo pa 8) _ s

theorem State.putEntry_translatedTo (s : State) (pa : Nat) (e : Word) : s.translatedTo (s.putEntry pa e) := by
  unfold State.putEntry
  dsimp only
  rw [State.dirtied_only]
  split <;> rfl

theorem State.fillCheck_translatedTo (s : State) (core : Option Nat) (asid page size : Nat) (leaf : Word) :
    s.translatedTo (s.fillCheck core asid page size leaf) := by
  cases core <;> rfl

theorem State.fillEgress_translatedTo (s : State) (asid va page size : Nat) (leaf : Word) :
    s.translatedTo (s.fillEgress asid va page size leaf) := by
  unfold State.fillEgress
  split <;> rfl

section
variable {s s₁ : State} {core : Option Nat} {asid va page size : Nat} {n : Need} {leaf : Word}

theorem State.walkFill_translatedTo (h : s.walkFill core asid va n = .ok s₁ page size leaf) : s.translatedTo s₁ := by
  unfold State.walkFill at h
  have nodes := s.readNodes_translatedTo asid va
  cases hw : s.walk asid va with
  | leaf p z e pa =>
    simp only [hw] at h
    split at h
    · cases h
    · injection h with hs
      subst hs
      refine State.translatedTo_trans nodes (State.translatedTo_trans ?_
        (State.translatedTo_trans (u := { (_ : State) with memTlb := _ }) rfl (State.fillCheck_translatedTo _ _ _ _ _ _)))
      split
      · exact State.translatedTo_refl _
      · exact State.putEntry_translatedTo _ _ _
  | page => simp [hw] at h
  | addr => simp [hw] at h
  | table pa => simp [hw] at h
  | wait => simp [hw] at h

theorem State.useHeld_translatedTo {e : TlbEntry} (h : s.useHeld core asid va n e = .ok s₁ page size leaf) : s.translatedTo s₁ := by
  unfold State.useHeld at h
  split at h
  · injection h with hs
    exact hs ▸ s.translatedTo_refl
  · split at h
    · injection h with hs
      exact hs ▸ s.fillCheck_translatedTo _ _ _ _ _
    · cases h

/-- What is translated has been served by a held translation or by a walk. -/
theorem State.translate_ok (h : s.translate core asid va n = .ok s₁ page size leaf) : ∃ u p z l,
    ((∃ e, s.useHeld core asid va n e = .ok u p z l) ∨ s.walkFill core asid va n = .ok u p z l) ∧ s₁ = u.fillEgress asid va p z l := by
  unfold State.translate at h
  split at h
  · cases h
  · split at h
    · cases h
    · dsimp only at h
      split at h
      case h_1 u p z l hx =>
        split at h <;> cases h
        refine ⟨u, _, _, _, ?_, rfl⟩
        split at hx
        · cases hx
        · split at hx
          · exact .inl ⟨_, hx⟩
          · exact .inr hx
      case h_2 hx => exact absurd h (hx _ _ _ _)

theorem State.translate_translatedTo (h : s.translate core asid va n = .ok s₁ page size leaf) : s.translatedTo s₁ := by
  obtain ⟨u, p, z, l, ⟨e, held⟩ | walked, rfl⟩ := State.translate_ok h
  · exact State.translatedTo_trans (State.useHeld_translatedTo held) (u.fillEgress_translatedTo _ _ _ _ _)
  · exact State.translatedTo_trans (State.walkFill_translatedTo walked) (u.fillEgress_translatedTo _ _ _ _ _)

theorem State.checkGlobal_translatedTo {t : Thread} {a : Acc} {lane addr : Nat} {p : Place}
    (h : s.checkGlobal t a lane addr = .ok s₁ p) : s.translatedTo s₁ := by
  unfold State.checkGlobal at h
  split at h
  · cases h
  · cases h
  · rename_i hx
    split at h <;> cases h <;> exact State.translate_translatedTo hx

/-- Only a global address is translated. -/
theorem State.checkElem_translatedTo {t : Thread} {a : Acc} {space : Space} {align k lane addr : Nat} {p : Place}
    (h : s.checkElem t a space align k lane addr = .ok s₁ p) : s.translatedTo s₁ := by
  unfold State.checkElem at h
  dsimp only at h
  split at h
  · cases h
  · cases space with
    | glob => exact State.checkGlobal_translatedTo h
    | sp =>
      dsimp only at h
      split at h <;> cases h
      exact s.translatedTo_refl
    | cw =>
      dsimp only at h
      split at h <;> cases h
      exact s.translatedTo_refl
    | cx =>
      dsimp only at h
      split at h
      · cases h
      · split at h <;> cases h
        exact s.translatedTo_refl

theorem State.checkElems_translatedTo {t : Thread} {a : Acc} {space : Space} {k : Nat} {lanes : List (Nat × Nat)} {es : List Elem}
    (h : State.checkElems t a space k s lanes = .ok s₁ es) : s.translatedTo s₁ := by
  induction lanes generalizing s es with
  | nil =>
    injection h with hs
    exact hs ▸ s.translatedTo_refl
  | cons l rest ih =>
    unfold State.checkElems at h
    split at h
    · cases h
    · cases h
    · rename_i hx
      split at h
      · rename_i hy
        cases h
        exact State.translatedTo_trans (State.checkElem_translatedTo hx) (ih hy)
      · rename_i hy
        exact absurd h (hy _ _)

end

theorem State.correctElems_translatedTo (s : State) (n : Nat) (es : List Elem) : s.translatedTo (s.correctElems n es) := by
  unfold State.correctElems
  split
  · exact s.translatedTo_refl
  · refine State.translatedTo_foldl _ (fun s e => ?_) _ _
    cases e.place
    case hbm pa leaf => exact s.corrected_translatedTo pa n
    all_goals exact s.translatedTo_refl

/-! ## What a load changes (R317, R369) -/

/-- Two states that differ at most in what taking the answers to requests may change: local copies, the remote epoch, and
which requests may still fill copies. -/
def State.tookAnswers (s s' : State) : Prop :=
  s' = { s with remEpoch := s'.remEpoch, remLines := s'.remLines, pends := s'.pends }
    ∧ s'.pends.map Pending.asked' = s.pends.map Pending.asked'

theorem State.tookAnswers_refl (s : State) : s.tookAnswers s := ⟨rfl, rfl⟩

theorem State.tookAnswers_trans {s u v : State} (h1 : s.tookAnswers u) (h2 : u.tookAnswers v) : s.tookAnswers v := by
  obtain ⟨e1, p1⟩ := h1
  obtain ⟨e2, p2⟩ := h2
  refine ⟨?_, p2.trans p1⟩
  rw [e2]
  rw [e1]

theorem State.acquired_tookAnswers (s : State) (acquires : Bool) (sc : Scope) : s.tookAnswers (s.acquired acquires sc) := by
  unfold State.acquired
  split
  · exact ⟨rfl, rfl⟩
  · exact s.tookAnswers_refl

theorem State.staleOthers_tookAnswers (s : State) (tag va n : Nat) : s.tookAnswers (s.staleOthers tag va n) := by
  refine ⟨rfl, ?_⟩
  unfold State.staleOthers
  dsimp only
  rw [List.map_map]
  refine List.map_congr_left (fun p _ => ?_)
  rw [Function.comp_apply]
  split
  · split <;> rfl
  · rfl

theorem State.takeAnswer_tookAnswers (s : State) (asid : Nat) (evict : BitVec 3) (was : Nat) (w : Wanted) (p : Pending) (bs : List Byte) :
    s.tookAnswers (s.takeAnswer asid evict was w p bs) := by
  unfold State.takeAnswer
  dsimp only
  split
  · exact s.tookAnswers_refl
  · refine State.tookAnswers_trans (s.staleOthers_tookAnswers p.tag w.va w.n) ?_
    split <;> exact ⟨rfl, rfl⟩

/-- The answers to the requests of a load are taken, one by one. -/
def State.takeAll (s : State) (o : Owner) (asid : Nat) (evict : BitVec 3) (was : Nat) (ws : List Wanted) : State :=
  ws.foldl (fun s w => match s.pend? o (.bytes (BitVec.ofNat 64 w.va) w.n) with
    | some p => (match p.answer with
      | some (.data bs) => s.takeAnswer asid evict was w p bs
      | _ => s)
    | none => s) s

theorem State.takeAll_tookAnswers (s : State) (o : Owner) (asid : Nat) (evict : BitVec 3) (was : Nat) (ws : List Wanted) :
    s.tookAnswers (s.takeAll o asid evict was ws) := by
  unfold State.takeAll
  induction ws generalizing s with
  | nil => exact s.tookAnswers_refl
  | cons w ws ih =>
    refine State.tookAnswers_trans ?_ (ih _)
    dsimp only
    split
    · split
      · exact s.takeAnswer_tookAnswers _ _ _ _ _ _
      · exact s.tookAnswers_refl
    · exact s.tookAnswers_refl

/-- The device once a load of checked elements has been performed: it may have been an acquire, and its requests are done. -/
def State.loaded (s : State) (o : Owner) (asid : Nat) (ord : MemOrd) (sc : Scope) (evict : BitVec 3) (es : List Elem) : State :=
  let u := s.acquired (ordAcquires ord) sc
  (u.takeAll o asid evict s.remEpoch (u.wanted asid true es)).dropPends o

theorem map_asked'_filter (o : Owner) (ps : List Pending) :
    (ps.filter (fun p => !decide (p.owner = o))).map Pending.asked' = (ps.map Pending.asked').filter (fun p => !decide (p.owner = o)) := by
  rw [List.filter_map]
  rfl

theorem State.loaded_changes (s : State) (o : Owner) (asid : Nat) (ord : MemOrd) (sc : Scope) (evict : BitVec 3) (es : List Elem) :
    let s' := s.loaded o asid ord sc evict es
    s' = { s with remEpoch := s'.remEpoch, remLines := s'.remLines, pends := s'.pends }
      ∧ s'.pends.map Pending.asked' = (s.pends.filter (fun p => !decide (p.owner = o))).map Pending.asked' := by
  have took := State.tookAnswers_trans (s.acquired_tookAnswers (ordAcquires ord) sc)
    ((s.acquired (ordAcquires ord) sc).takeAll_tookAnswers o asid evict s.remEpoch ((s.acquired (ordAcquires ord) sc).wanted asid true es))
  unfold State.loaded
  dsimp only
  generalize State.takeAll _ o asid evict _ _ = u at took ⊢
  obtain ⟨only, pends⟩ := took
  constructor
  · rw [only]
    rfl
  · show (u.pends.filter _).map Pending.asked' = _
    rw [map_asked'_filter, map_asked'_filter, pends]

theorem State.loaded_thread? (s : State) (o : Owner) (asid : Nat) (ord : MemOrd) (sc : Scope) (evict : BitVec 3) (es : List Elem)
    (id : ThreadId) : (s.loaded o asid ord sc evict es).thread? id = s.thread? id := by
  rw [(s.loaded_changes o asid ord sc evict es).1]
  rfl

theorem State.loaded_afterLoad (s : State) (t u : Thread) (hid : u.id = t.id) (asid : Nat) (ord : MemOrd) (sc : Scope) (evict : BitVec 3)
    (es : List Elem) : s.afterLoad ((s.loaded (.thread t.id) asid ord sc evict es).setThread u) t := by
  obtain ⟨only, pends⟩ := s.loaded_changes (.thread t.id) asid ord sc evict es
  refine ⟨?_, pends, fun id hne => ?_⟩
  · rw [only]
    rfl
  · rw [State.thread?_setThread_other _ _ _ (by rw [hid]; exact hne), State.loaded_thread?]

theorem begunImx_id (t : Thread) (hi : Option (BitVec 32)) : (t.begunImx hi).id = t.id := t.begun_id

theorem begunImx_s (t : Thread) (hi : Option (BitVec 32)) (n : SReg) : (t.begunImx hi).s n = t.s n := begun_s t n
theorem begunImx_k (t : Thread) (hi : Option (BitVec 32)) (n : KReg) : (t.begunImx hi).k n = t.k n := begun_k t n
theorem begunImx_v (t : Thread) (hi : Option (BitVec 32)) (n : VReg) : (t.begunImx hi).v n = t.v n := begun_v t n
theorem begunImx_oldV (t : Thread) (hi : Option (BitVec 32)) (n : VReg) : (t.begunImx hi).oldV n = t.oldV n := by
  unfold Thread.oldV
  rw [begunImx_v]

theorem begunImx_badRegs (t : Thread) (hi : Option (BitVec 32)) : (t.begunImx hi).badRegs = t.badRegs := by
  show t.begun.badRegs = _
  rw [t.begun_only]

theorem asidOf_congr (s : State) {t u : Thread} (h : u.id = t.id) : s.asidOf u = s.asidOf t := by
  unfold State.asidOf State.taskOf
  rw [h]

/-- Of a thread, damage depends on its gang and on its registers in error alone. -/
theorem firstBad_congr (s : State) {t u : Thread} (n : Nat) (es : List Elem) (hid : u.id = t.id) (hbad : u.badRegs = t.badRegs) :
    s.firstBad u n es = s.firstBad t n es := by
  unfold State.firstBad State.padBad State.gangOf
  rw [hid, hbad]

/-- A load whose bytes may be read goes on with what `loadedLanes` gives. -/
theorem loadElems_ready {s₁ : State} {t : Thread} {hi : Option (BitVec 32)} {n : Nat} {ord : MemOrd} {sc : Scope} {es : List Elem}
    (h : MayLoad s₁ (t.begunImx hi) n ord sc es) (evict : BitVec 3) (k : State → List (Nat × Nat) → Res) :
    let s₂ := s₁.correctElems n es
    loadElems s₁ (t.begunImx hi) { pc0 := t.pc, hi := hi } n ord sc evict es k =
      k (s₂.loaded (.thread t.id) (s₂.asidOf t) ord sc evict es) (loadedLanes s₂ t n es) := by
  intro s₂
  obtain ⟨answered, whole, released⟩ := h
  have free : (ord == .sc && !s₁.mayRelease (t.begunImx hi) true sc) = false := by
    by_cases hsc : ord = .sc
    · simp [released hsc]
    · simp [hsc]
  have sound : s₁.firstBad (t.begunImx hi) n es = none := by
    rw [firstBad_congr s₁ (t := (t.begunImx hi).begun) n es (Thread.begun_id _).symm (begunImx_badRegs _ none).symm]
    exact whole
  have asid : s₁.asidOf (t.begunImx hi) = s₂.asidOf t :=
    (asidOf_congr s₁ (begunImx_id t hi)).trans (State.translatedTo_asidOf (s₁.correctElems_translatedTo n es) t).symm
  have owner : Owner.thread t.id = .thread (t.begunImx hi).id := by rw [begunImx_id]
  unfold loadElems loadedLanes
  dsimp only
  rw [free, answered, sound, asid, owner]
  rfl

/-! ## An instruction alone or behind an `imx` (R106, R117) -/

/-- An instruction word whose body runs alike alone and behind an `imx`, and which begins no exemption of R337. -/
structure PlainWord (i : Instr) (body : Body) : Prop where
  alone  : ∀ s, exec i s = issue i body s
  behind : plainBody i = body
  single : i.words = 1
  plain  : i ≠ .trapret

/-- Such an instruction, when its body completes. -/
theorem exec_withImx {s s' : State} {t u : Thread} {hi : Option (BitVec 32)} {i : Instr} {body : Body}
    (h : MayRun s t i) (hw : PlainWord i body) (hb : body { pc0 := t.pc, hi := hi } (s.begun t i) (t.begunImx hi) = .ok s' u) :
    exec (withImx hi i) s = .next (s'.setThread (t.atGroup.closed u i)) := by
  cases hi with
  | none => exact (hw.alone s).trans (issue_ok h hw.plain hb)
  | some x =>
    show execImx x i s = _
    unfold execImx
    rw [h.here]
    dsimp only
    unfold issueSized
    rw [gate_go h, hw.behind, hw.single]
    dsimp only
    rw [t.atGroup_pc]
    show Host.Outcome.next ((s.begun t i).settle i t.atGroup _ (body { pc0 := t.pc, hi := some x } (s.begun t i) (t.begunImx (some x)))) = _
    rw [hb]
    show Host.Outcome.next (s'.finish i t.atGroup u 0) = _
    rw [finish_closed (by rw [t.atGroup_ss]; exact h.noStep) hw.plain]

/-- Closing a group leaves what `onlyRegisters` says. -/
theorem closed_onlyRegisters {t u : Thread} {i : Instr} (hl : t.begun.like u) : t.onlyRegisters (t.atGroup.closed u i) i.writes := by
  have heq : u = { t.begun with
      pc := u.pc, regs := u.regs, valid := u.valid, flags := u.flags, seed := u.seed, lq := u.lq
      lqFly := u.lqFly, lqHead := u.lqHead, sq := u.sq, sqHead := u.sqHead } := hl
  rw [t.begun_only] at heq
  have recs : u.executed.trapRec = t.executed.trapRec := by
    rw [← t.atGroup_executed]
    exact Thread.executed_trapRec (by rw [heq]) (by rw [heq])
  have granules : t.atGroup.granulesOf i.writes = t.granulesOf i.writes := by
    rw [t.atGroup_only]
    rfl
  unfold Thread.onlyRegisters
  rw [Thread.closed_eq, recs, granules]
  generalize t.executed.trapRec = tr
  rw [heq]
  rfl

theorem closed_id {t u : Thread} (i : Instr) (hl : t.begun.like u) : (t.atGroup.closed u i).id = t.id := by
  rw [closed_onlyRegisters hl]

/-! ## Loads, performed (R170, R171, R175) -/

theorem withElems_reached {s s₁ : State} {t : Thread} {i : Instr} {hi : Option (BitVec 32)} {a : Acc} {space : Space} {n : Nat}
    {lanes : List (Nat × Nat)} {value : Nat → Option (Nat × Nat)} {es : List Elem}
    (h : Reaches s t i hi a space n lanes value s₁ es) (k : State → List Elem → Res) :
    withElems (s.begun t i) (t.begunImx hi) a space n lanes value k = k s₁ es := by
  unfold withElems
  rw [h.checked]
  dsimp only
  rw [h.unwatched]
  dsimp only
  rw [h.cached, h.unheld]
  rfl

/-- A load whose elements are reached and may be read completes with the thread that its body makes of what was read. -/
theorem load_completes {s s₁ : State} {t : Thread} {hi : Option (BitVec 32)} {i : Instr} {body : Body} {space : Space} {n : Nat}
    {lanes : List (Nat × Nat)} {es : List Elem} {ord : MemOrd} {sc : Scope} {evict : BitVec 3} {result : List (Nat × Nat) → Thread}
    {post : State → Thread → Prop}
    (h : MayRun s t i) (hw : PlainWord i body)
    (hr : Reaches s t i hi .load space n lanes (fun _ => none) s₁ es) (hm : MayLoad s₁ (t.begunImx hi) n ord sc es)
    (hb : body { pc0 := t.pc, hi := hi } (s.begun t i) (t.begunImx hi)
      = withElems (s.begun t i) (t.begunImx hi) .load space n lanes (fun _ => none) (fun s es =>
        loadElems s (t.begunImx hi) { pc0 := t.pc, hi := hi } n ord sc evict es (fun s got => .ok s (result got))))
    (hl : ∀ got, t.begun.like (result got))
    (hq : ∀ s', let u := result (loadedLanes (s₁.correctElems n es) t n es)
      (s₁.correctElems n es).afterLoad s' t → t.onlyRegisters (t.atGroup.closed u i) i.writes → post s' (t.atGroup.closed u i)) :
    Completes (withImx hi i) s t post := by
  rw [withElems_reached hr, loadElems_ready hm] at hb
  have hid := closed_id i (hl (loadedLanes (s₁.correctElems n es) t n es))
  refine ⟨_, _, exec_withImx h hw hb, ?_, hq _ ?_ (closed_onlyRegisters (hl _))⟩
  · rw [← hid]
    refine State.thread?_setThread _ _ t ?_
    rw [hid, State.loaded_thread?, State.translatedTo_thread? (s₁.correctElems_translatedTo n es),
      State.translatedTo_thread? (State.checkElems_translatedTo hr.checked)]
    show (s.readStatus t.atGroup i).thread? t.id = some t
    rw [readStatus_thread?, thread?_id h.here]
    exact h.here
  · exact State.loaded_afterLoad _ _ _ hid _ _ _ _ _

/-! ## Destinations of vector loads (R22, R175) -/

theorem has_d_of_wordWf {i : Instr} (h : i.wordWf = true) : i.classes.d.has i.regs.d = true := by
  unfold Instr.wordWf at h
  cases hf : i.form with
  | none => simp [hf] at h
  | some f =>
    simp only [hf, Bool.and_eq_true, Slots.ok] at h
    obtain ⟨⟨-, ⟨⟨hd, -⟩, -⟩, -⟩, -⟩ := h
    unfold Instr.regs
    rw [hf]
    exact hd

/-- The destination of a vector load is a register or `lq` (R99). -/
theorem vecIn_cases {d : VReg} (h : RClass.vecIn.has d = true) : d < 32 ∨ d = 32 := by
  have : d ≤ 32 := of_decide_eq_true h
  bv_omega

theorem loadV_of_lt (t : Thread) (d : VReg) (x : VecBits) (h : d < 32) : t.loadV d x = t.setV d x := by
  unfold Thread.loadV Thread.setV
  rw [if_neg (by bv_omega), if_neg (by bv_omega)]

theorem loadV_lq (t : Thread) (x : VecBits) : t.loadV 32 x = { t with lq := t.lq ++ [x], lqFly := t.lqFly + 1 } := rfl

theorem like_loadV (t : Thread) (d : VReg) (x : VecBits) : t.like (t.loadV d x) := by
  unfold Thread.loadV
  split
  · rfl
  · exact like_put t _ x

theorem loadV_wroteOnly {t : Thread} (hv : viewsOk t.vwS.toNat t.vwK.toNat t.vwV.toNat = true) {d : VReg} (h : d < 32 ∨ d = 32) (x : VecBits) :
    t.wroteOnly (t.loadV d x) [.v d] := by
  rcases h with h | rfl
  · rw [loadV_of_lt t d x h]
    exact setV_wroteOnly hv d x
  · refine ⟨fun _ _ => rfl, ?_⟩
    rw [loadV_lq]
    simp [Thread.granules, Thread.span]

@[simp] theorem loadV_pc (t : Thread) (d : VReg) (x : VecBits) : (t.loadV d x).pc = t.pc := by
  unfold Thread.loadV
  split
  · rfl
  · exact Thread.put_pc _ _ _ _

/-- What a thread is after a vector load into register `d`, or into a new entry of `lq`. -/
def Thread.gotVector (t t' : Thread) (d : VReg) (x : VecBits) : Prop :=
  t'.flags = t.flags ∧ t'.seed = t.seed ∧ t'.sq = t.sq ∧ t'.lq = t.lq ++ (if d = 32 then [x] else [])
    ∧ t'.lqFly = t.lqFly + (if d = 32 then 1 else 0) ∧ (d ≠ 32 → t'.v d = x)

theorem loadV_gotVector {t : Thread} (hv : viewsOk t.vwS.toNat t.vwK.toNat t.vwV.toNat = true) {d : VReg} (h : d < 32 ∨ d = 32) (x : VecBits) :
    t.gotVector (t.loadV d x) d x := by
  unfold Thread.gotVector
  rcases h with h | rfl
  · have h32 : d ≠ 32 := by bv_omega
    have h33 : d ≠ 33 := by bv_omega
    rw [loadV_of_lt t d x h, if_neg h32, if_neg h32]
    refine ⟨by simp, by simp, ?_, by simp, by simp, fun _ => v_setV hv d x h⟩
    unfold Thread.setV
    rw [if_neg h33, Thread.put_sq]
  · rw [loadV_lq]
    exact ⟨rfl, rfl, rfl, rfl, rfl, fun h => absurd rfl h⟩

theorem closed_gotVector {t u : Thread} {i : Instr} {d : VReg} {x : VecBits} (h : t.begun.gotVector u d x) :
    t.gotVector (t.atGroup.closed u i) d x := by
  unfold Thread.gotVector at *
  rw [t.begun_only] at h
  rw [Thread.closed_eq]
  exact h

/-! ## Bodies of vector loads (R171) -/

/-- What a lane takes of what a load has read: the element read for it, or the one element that `vldb` reads. -/
def laneOf (one : Bool) (got : List (Nat × Nat)) (n : Nat) : Nat := if one then (got.map (·.2)).headD 0 else (got.lookup n).getD 0

/-- The body of a vector load, by the lanes that it reads and the registers that the thread had before it. -/
def loadLanes (t : Thread) (hi : Option (BitVec 32)) (ty : ElemType) (m : MemOp) (k : KReg) (d : VReg) (lanes : List (Nat × Nat))
    (one : Bool) (s : State) : Res :=
  withElems s (t.begunImx hi) .load m.space ty.bytes lanes (fun _ => none) (fun s es =>
    loadElems s (t.begunImx hi) { pc0 := t.pc, hi := hi } ty.bytes m.ord m.scope m.evict es (fun s got =>
      .ok s ((t.begunImx hi).loadV d (lanesBy ty (t.k k) false (t.oldV d) (laneOf one got)))))

section
variable (t : Thread) (hi : Option (BitVec 32)) (ty : ElemType) (m : MemOp) (k : KReg) (d : VReg) (s : State)

theorem effAddr_begunImx : effAddr (t.begunImx hi) m hi = effAddr t m hi := by
  unfold effAddr
  rw [begunImx_s, begunImx_s]

theorem baseAddr_begunImx : baseAddr (t.begunImx hi) m hi = baseAddr t m hi := by
  unfold baseAddr
  rw [begunImx_s]

theorem unitAddr_begunImx : unitAddr (t.begunImx hi) m hi ty = unitAddr t m hi ty := by
  unfold unitAddr
  rw [effAddr_begunImx]

theorem strideAddr_begunImx : strideAddr (t.begunImx hi) m hi = strideAddr t m hi := by
  unfold strideAddr
  rw [baseAddr_begunImx, begunImx_s]

theorem indexAddr_begunImx : indexAddr (t.begunImx hi) m hi = indexAddr t m hi := by
  unfold indexAddr
  rw [baseAddr_begunImx, begunImx_v]

/-- `vld`, `vlds` and `vgat`, whose lanes lie at `addr`. -/
theorem vectorLoad_eq (addr : Thread → Option (BitVec 32) → Nat → Word) (ha : addr (t.begunImx hi) hi = addr t hi) :
    vectorLoad ty m k d addr { pc0 := t.pc, hi := hi } s (t.begunImx hi)
      = loadLanes t hi ty m k d (laneAddrs ty (t.k k) (addr t hi)) false s := by
  unfold vectorLoad
  rw [begunImx_k, begunImx_oldV, ha]
  rfl

theorem bodyVldb_eq : bodyVldb ty m k d { pc0 := t.pc, hi := hi } s (t.begunImx hi)
    = loadLanes t hi ty m k d ((laneAddrs ty (t.k k) (fun _ => effAddr t m hi)).take 1) true s := by
  unfold bodyVldb
  dsimp only
  rw [begunImx_k, begunImx_oldV, effAddr_begunImx]
  rfl

end

/-! ## O26 -/

/-- Every body of that kind keeps the frame of R175 and fills the enabled lanes. -/
theorem loadLanes_fills {s s₁ : State} {t : Thread} {hi : Option (BitVec 32)} {ty : ElemType} {m : MemOp} {k : KReg} {d : VReg}
    {es : List Elem} {i : Instr} {body : Body} {lanes : List (Nat × Nat)} (one : Bool)
    (h : MayRun s t i) (hw : PlainWord i body) (hd : i.writes = [.v d] ∧ i.classes.d = .vecIn ∧ i.regs.d = d)
    (hb : ∀ s, body { pc0 := t.pc, hi := hi } s (t.begunImx hi) = loadLanes t hi ty m k d lanes one s)
    (hr : Reaches s t i hi .load m.space ty.bytes lanes (fun _ => none) s₁ es)
    (hm : MayLoad s₁ (t.begunImx hi) ty.bytes m.ord m.scope es) :
    let s₂ := s₁.correctElems ty.bytes es
    Completes (withImx hi i) s t (fun s' t' => s₂.afterLoad s' t ∧ t.onlyRegisters t' [.v d] ∧ t.wroteOnly t' [.v d]
      ∧ t'.pc = pastImx hi t.pc ∧ t.gotVector t' d (lanesBy ty (t.k k) false (t.oldV d) (laneOf one (loadedLanes s₂ t ty.bytes es)))) := by
  obtain ⟨writes, vecIn, num⟩ := hd
  have dest : d < 32 ∨ d = 32 := vecIn_cases (by rw [← vecIn, ← num]; exact has_d_of_wordWf h.legal)
  have views : viewsOk (t.begunImx hi).vwS.toNat (t.begunImx hi).vwK.toNat (t.begunImx hi).vwV.toNat = true := by
    simpa [Thread.begunImx] using h.views
  refine load_completes h hw hr hm (hb _) (fun got => like_trans (like_pc t.begun _) (like_loadV _ d _)) ?_
  intro s' u after only
  rw [writes] at only
  refine ⟨after, only, ?_, ?_, closed_gotVector (loadV_gotVector views dest _)⟩
  · rw [Thread.closed_eq]
    exact begun_wroteOnly.1 (loadV_wroteOnly views dest _)
  · rw [Thread.closed_eq]
    exact loadV_pc _ d _

/-- Settles O26: it holds, each member by `loadLanes_fills` from its own body and addresses. -/
theorem vectorLoads : Obligations.VectorLoads := by
  unfold Obligations.VectorLoads
  intro s s₁ t hi ty m k d es
  simp only [List.forall_mem_cons]
  refine ⟨fun h _ hr hm => ?vld, fun h _ hr hm => ?vlds, fun h _ hr hm => ?vgat, fun h _ hr hm => ?vldb, List.forall_mem_nil _⟩
  case vld =>
    exact loadLanes_fills false h ⟨fun _ => rfl, rfl, rfl, by simp⟩ ⟨rfl, rfl, rfl⟩
      (fun s => vectorLoad_eq t hi ty m k d s _ (unitAddr_begunImx t hi ty m)) hr hm
  case vlds =>
    exact loadLanes_fills false h ⟨fun _ => rfl, rfl, rfl, by simp⟩ ⟨rfl, rfl, rfl⟩
      (fun s => vectorLoad_eq t hi ty m k d s _ (strideAddr_begunImx t hi m)) hr hm
  case vgat =>
    exact loadLanes_fills false h ⟨fun _ => rfl, rfl, rfl, by simp⟩ ⟨rfl, rfl, rfl⟩
      (fun s => vectorLoad_eq t hi ty m k d s _ (indexAddr_begunImx t hi m)) hr hm
  case vldb =>
    exact loadLanes_fills true h ⟨fun _ => rfl, rfl, rfl, by simp⟩ ⟨rfl, rfl, rfl⟩ (bodyVldb_eq t hi ty m k d) hr hm

end Sys2Proof.Machine
end

section
/-! SUPPORT. A step of a thread (R80, R81, R103, R106, R335 to R337): the words that a fetch finds at a PC, the group that they
make, the breakpoint that stops it, and how the agenda or the default order brings a thread to `stepThread`, from which O40 is
assembled. -/

namespace Sys2Proof.Machine

/-! ## What the correction of errors leaves alone (R357) -/

/-- A corrected error changes counts and the records of R348, and neither memory nor what is held beside it. -/
theorem State.countSoft_only (s : State) (unit : Nat) : s.countSoft unit = { s with
    softCount := (s.countSoft unit).softCount, events := (s.countSoft unit).events
    pcie := (s.countSoft unit).pcie, snap := (s.countSoft unit).snap } := by
  unfold State.countSoft
  cases s.softCount.find? (fun c => c.1 == unit) <;> dsimp only <;> split
  · rw [State.event_only]
  · rfl
  · rw [State.event_only]
  · rfl

theorem State.corrected_mem_copies (s : State) (pa n : Nat) :
    (s.corrected pa n).mem = s.mem ∧ (s.corrected pa n).copies = s.copies := by
  unfold State.corrected
  generalize s.softLines.filter _ = lines
  induction lines generalizing s with
  | nil => exact ⟨rfl, rfl⟩
  | cons l rest ih =>
    obtain ⟨mem, copies⟩ := ih (s.countSoft (8 + stackOf (l * 256)))
    have first := s.countSoft_only (8 + stackOf (l * 256))
    exact ⟨mem.trans (by rw [first]), copies.trans (by rw [first])⟩

theorem State.corrected_copies (s : State) (pa n : Nat) : (s.corrected pa n).copies = s.copies := (s.corrected_mem_copies pa n).2

theorem State.corrected_readWordPA (s : State) (pa n addr : Nat) : (s.corrected pa n).readWordPA addr = s.readWordPA addr := by
  unfold State.readWordPA State.readPA
  rw [(s.corrected_mem_copies pa n).1]

/-! ## One word of code (R129) -/

/-- A word that no running task of the ASID has stored is fetched as memory has it. -/
theorem State.codeWord_unstored {s : State} {asid pa : Nat}
    (h : s.copies.code.all (fun o => !(o.asid == asid && o.word == pa / 8)) = true) :
    s.codeWord asid pa = (s, s.readWordPA pa) := by
  have unstored : s.copies.code.find? (fun o => o.asid == asid && o.word == pa / 8) = none := by
    refine List.find?_eq_none.2 (fun o ho stored => ?_)
    have := List.all_eq_true.1 h o ho
    rw [stored] at this
    cases this
  unfold State.codeWord
  rw [unstored]
  rfl

/-- A word of code is what memory has or what stood there before a store of a running task; finding it changes nothing but what
is held beside memory. -/
theorem State.codeWord_cases (s : State) (asid pa : Nat) :
    (s.codeWord asid pa).1 = { s with copies := (s.codeWord asid pa).1.copies }
    ∧ ((s.codeWord asid pa).2 = s.readWordPA pa
      ∨ ∃ o ∈ s.copies.code, o.asid = asid ∧ o.word = pa / 8 ∧ (s.codeWord asid pa).2 = o.old) := by
  unfold State.codeWord
  cases found : s.copies.code.find? (fun o => o.asid == asid && o.word == pa / 8) with
  | none => exact ⟨rfl, .inl rfl⟩
  | some o =>
    refine ⟨rfl, ?_⟩
    cases Config.oldWord s.copies.drawn with
    | false => exact .inl rfl
    | true =>
      have stored := List.find?_some found
      rw [Bool.and_eq_true, beq_iff_eq, beq_iff_eq] at stored
      exact .inr ⟨o, List.mem_of_find?_eq_some found, stored.1, stored.2, rfl⟩

/-! ## One fetched word (R103 steps 1 and 2) -/

section
variable {s s' : State} {core : Option Nat} {asid : Nat} {va w : Word}

/-- The first word of `State.wordsAt` is the word that a fetch finds there. -/
theorem State.fetchWord_of_wordsAt {ws : List Word} (h : State.wordsAt core asid s va (w :: ws) s') :
    ∃ u, s.fetchWord core asid va = .ok u w ∧ State.wordsAt core asid u (va + 8) ws s' := by
  obtain ⟨aligned, s₁, page, size, leaf, translated, device, sound, resident, unstored, word, rest⟩ := h
  refine ⟨_, ?_, rest⟩
  have found := State.codeWord_unstored (s := s₁.corrected (leafPA page leaf va.toNat) 8) (by rwa [State.corrected_copies])
  rw [State.corrected_readWordPA, word] at found
  simp only [State.fetchWord, aligned, ne_eq, not_true_eq_false, ↓reduceIte, translated, device, sound,
    Bool.false_eq_true, resident, Bool.not_true, found]

/-- A fetch that answers a word has read it at an aligned address through a translation that allows execution. -/
theorem State.fetchWord_ok (h : s.fetchWord core asid va = .ok s' w) : va.toNat % 8 = 0 ∧ ∃ s₁ page size leaf,
    s.translate core asid va.toNat ⟨false, false, true, !s.asidPriv asid⟩ = .ok s₁ page size leaf
    ∧ (s₁.corrected (leafPA page leaf va.toNat) 8).codeWord asid (leafPA page leaf va.toNat) = (s', w) := by
  unfold State.fetchWord at h
  split at h
  · cases h
  next aligned =>
    split at h
    · cases h
    · cases h
    next s₁ page size leaf translated =>
      dsimp only at h
      split at h
      · cases h
      · split at h
        · cases h
        · split at h
          · cases h
          · injection h with state word
            exact ⟨Decidable.not_not.1 aligned, s₁, page, size, leaf, translated, Prod.ext state word⟩

end

/-! ## A group of words (R106, R107) -/

theorem decodeAfterImx_more {hi : BitVec 32} {ws : List Word} (h : decodeAfterImx hi ws = .more) : ws = [] := by
  unfold decodeAfterImx at h
  split at h
  · rfl
  · split at h
    · cases h
    · split at h
      · cases h
      · split at h <;> cases h

theorem decodeImx_more {w : Word} {ws : List Word} (h : decodeImx w ws = .more) : ws = [] := by
  unfold decodeImx at h
  split at h
  · cases h
  · exact decodeAfterImx_more h

theorem decodeTail_more {ws : List Word} (h : decodeTail ws = .more) : ws.length ≤ 1 := by
  unfold decodeTail at h
  split at h
  · exact Nat.zero_le 1
  next w ws =>
    split at h
    · rw [decodeImx_more h]
      exact Nat.le_refl 1
    · split at h
      · cases h
      · split at h <;> cases h

/-- Only fewer than three words can want another. -/
theorem decodeGroup_more {ws : List Word} (h : decodeGroup ws = .more) : ws.length ≤ 2 := by
  unfold decodeGroup at h
  split at h
  · exact Nat.zero_le 2
  next w ws =>
    have tail (more : decodeTail ws = .more) : (w :: ws).length ≤ 2 := Nat.succ_le_succ (decodeTail_more more)
    split at h
    case isTrue uni =>
      split at h
      · cases h
      · split at h
        · split at h <;> cases h
        · exact tail h
    case isFalse =>
      split at h
      case isTrue rep =>
        split at h
        · cases h
        · split at h
          · split at h
            · split at h <;> cases h
            · cases h
          · exact tail h
      case isFalse =>
        split at h
        case isTrue imx =>
          rw [decodeImx_more h]
          exact Nat.le_succ 1
        case isFalse => split at h <;> cases h

/-- Words that make a group, and no fewer of them, are at most three. -/
theorem length_of_group {ws : List Word} (h : ∀ k < ws.length, decodeGroup (ws.take k) = .more) : ws.length ≤ 3 := by
  refine Nat.le_of_not_lt (fun long => ?_)
  have := decodeGroup_more (h 3 long)
  rw [List.length_take] at this
  omega

/-- A fetch that has got some words of a group goes on to the end of the group. -/
theorem State.fetchFrom_group {core : Option Nat} {asid : Nat} {i : Instr} {s₂ : State} (rest : List Word) :
    ∀ (fuel : Nat) (s : State) (va : Word) (got : List Word), rest ≠ [] → rest.length ≤ fuel →
      State.wordsAt core asid s va rest s₂ → decodeGroup (got ++ rest) = .ok i →
      (∀ k < (got ++ rest).length, decodeGroup ((got ++ rest).take k) = .more) →
      State.fetchFrom core asid fuel va got s = .ok s₂ i := by
  induction rest with
  | nil => exact fun _ _ _ _ some => absurd rfl some
  | cons w rest ih =>
    intro fuel s va got _ enough here ok more
    obtain ⟨fuel, rfl⟩ : ∃ n, fuel = n + 1 := Nat.exists_eq_add_one.2 (by rw [List.length_cons] at enough; omega)
    obtain ⟨u, fetched, after⟩ := State.fetchWord_of_wordsAt here
    unfold State.fetchFrom
    rw [fetched]
    dsimp only
    rw [List.append_cons] at ok more
    cases rest with
    | nil =>
      rw [List.append_nil] at ok
      rw [ok, show s₂ = u from after]
    | cons w' rest =>
      have unfinished := more (got ++ [w]).length (by simp)
      rw [List.take_left] at unfinished
      rw [unfinished]
      exact ih fuel u (va + 8) (got ++ [w]) (by simp) (by simpa using enough) after ok more

/-- The group at a thread's PC is the one that its words decode to. -/
theorem State.fetch_group {s s₂ : State} {t : Thread} {ws : List Word} {i : Instr}
    (here : State.wordsAt (s.coreOf t) (s.asidOf t) s t.pc ws s₂) (ok : decodeGroup ws = .ok i)
    (more : ∀ k < ws.length, decodeGroup (ws.take k) = .more) : s.fetch t = .ok s₂ i := by
  have nonempty : ws ≠ [] := by
    rintro rfl
    cases ok
  exact State.fetchFrom_group ws 3 s t.pc [] nonempty (length_of_group more) here ok more

/-! ## Breakpoints (R335 to R337) -/

/-- The first entry that matches the PC is the breakpoint of a group that is not exempt. -/
theorem Thread.breakHit_first {u : Thread} {n : Nat} {e : DebugEntry} (plain : u.skipsBreaks = false)
    (fresh : u.repLeft = 0 ∨ u.resumed = true)
    (entry : u.breaks[n]? = some e) (on : e.ctl = 1) (addr : e.addr = u.pc) (aligned : u.pc.toNat % 8 = 0)
    (first : ∀ j < n, ∀ f, u.breaks[j]? = some f → f.ctl = 1 → f.addr ≠ u.pc) : u.breakHit = some n := by
  obtain ⟨inside, -⟩ := List.getElem?_eq_some_iff.1 entry
  have subject : (u.skipsBreaks || (u.repLeft != 0 && !u.resumed)) = false := by
    rcases fresh with h | h <;> simp [plain, h]
  unfold Thread.breakHit
  rw [subject, if_neg Bool.false_ne_true, List.find?_range_eq_some]
  refine ⟨by simp [entry, DebugEntry.breaksAt, on, addr, aligned], List.mem_range.2 inside, fun j hj => ?_⟩
  cases earlier : u.breaks[j]? with
  | none => rfl
  | some f =>
    have differs := first j hj f earlier
    by_cases hf : f.ctl = 1
    · simp [DebugEntry.breaksAt, differs hf]
    · have off : (f.ctl == 1) = false := beq_false_of_ne hf
      simp only [DebugEntry.breaksAt, off, Bool.false_and, Bool.not_false]

/-! ## A thread before its group (R103, R326) -/

section
variable {s : State} {t : Thread}

@[simp] theorem State.afterDeposits_deferred (s : State) (id : ThreadId) : (s.afterDeposits id).deferred = s.deferred := by
  unfold State.afterDeposits
  split <;> rfl

@[simp] theorem State.acquired_deferred (s : State) (acquires : Bool) (sc : Scope) : (s.acquired acquires sc).deferred = s.deferred := by
  unfold State.acquired
  split <;> rfl

/-- With no write held, nothing lands before the group. -/
theorem State.landFirst_none (h : s.deferred = []) (t : Thread) : s.landFirst t = (s, some t) := by
  unfold State.landFirst
  simp only [h, List.any_nil, Bool.not_false, ↓reduceIte]

/-- A thread with no fence and no held write to wait for comes to its breakpoints and its fetch. -/
theorem State.prepare_free (noneHeld : s.deferred = []) (released : s.fenceWaits t = false) :
    s.prepare t = (s.acquired t.fencing .sys).prepareLanded { t with fencing := false } := by
  unfold State.prepare
  rw [released, State.landFirst_none (by simpa using noneHeld)]
  rfl

theorem State.prepareLanded_break (control : t.hasControl = true) {n : Nat} (hit : (s.repCleared t).breakHit = some n) :
    let u := s.repCleared t
    s.prepareLanded t = .stop (s.takeTrap u u.pc u.pc (s.wordAtPC u) { cause := .brk, detail := 1, which := some n }) := by
  unfold State.prepareLanded
  simp only [control, ↓reduceIte, hit, BitVec.ofNat_eq_ofNat]

theorem State.prepareLanded_run (control : t.hasControl = true) (noBreak : (s.repCleared t).breakHit = none) {s₂ : State} {i : Instr}
    (fetched : s.fetch (s.repCleared t) = .ok s₂ i) : s.prepareLanded t = .run (s₂.setThread (s.repCleared t)) i := by
  unfold State.prepareLanded
  simp only [control, ↓reduceIte, noBreak, fetched]

end

/-! ## The step of a thread (R80, R81, R83) -/

section
variable {s : State} {t : Thread}

/-- A step runs what a thread's own step answers, whether the agenda names the thread or the default order picks it. -/
theorem step_of_stepThread {ran : Host.Outcome State Fault Refusal} (h : stepThread s t = ran) (s₀ : State) :
    ((∃ rest, s₀.agenda = ⟨0, .thread t.id⟩ :: rest ∧ s₀.thread? t.id = some t ∧ { s₀ with agenda := rest } = s) →
      step s₀ = thenWakes ran)
    ∧ ((s₀.agenda = [] ∧ s₀.due = none ∧ ∃ p, s₀.pick = some (p, t) ∧ s₀.turnTo p = s) → step s₀ = ran) := by
  subst h
  constructor
  · rintro ⟨rest, agenda, here, rfl⟩
    have present : State.thread? { s₀ with agenda := rest } t.id = some t := here
    unfold step
    rw [agenda]
    simp only [stepMove, State.passCycles, ↓reduceIte, present]
  · rintro ⟨agenda, idle, p, picked, rfl⟩
    unfold step
    simp only [agenda, idle, picked]

theorem stepThread_stops (issues : (s.afterDeposits t.id).mayIssue t = true) {s₁ : State}
    (stop : (s.afterDeposits t.id).prepare t = .stop s₁) : stepThread s t = .next (s₁.noteStall t) := by
  unfold stepThread
  simp only [issues, Bool.not_true, Bool.false_eq_true, ↓reduceIte, stop]

/-- An outcome of a thread's group, counted where it is a next state (R81, R356). -/
def counted (t : Thread) (i : Instr) (r : Host.Outcome State Fault Refusal) : Host.Outcome State Fault Refusal :=
  match r with
  | .next s => .next (s.noteIssue t i)
  | r => r

theorem stepThread_runs (issues : (s.afterDeposits t.id).mayIssue t = true) {s₁ : State} {i : Instr}
    (run : (s.afterDeposits t.id).prepare t = .run s₁ i) : stepThread s t = counted t i (exec i { s₁ with cur := t.id }) := by
  unfold stepThread
  dsimp only
  rw [issues, run]
  rfl

end

/-! ## O40 -/

/-- Settles O40: it holds. The thread's step is `stepThread` by either way to it; its group is fetched word by word up to the one
that completes it, and its breakpoint is the first entry that matches. -/
theorem stepRunsDecoded : Obligations.StepRunsDecoded := by
  unfold Obligations.StepRunsDecoded
  refine ⟨?runs, ?breaks, ?event, ?fetched⟩
  case runs =>
    intro s s₂ t ws i a b u issues noneHeld released control noBreak here ok more ran
    have free := State.prepare_free ((s.afterDeposits_deferred t.id).trans noneHeld) released
    have run := State.prepareLanded_run (s := b) (t := { t with fencing := false }) control noBreak (State.fetch_group here ok more)
    exact step_of_stepThread (stepThread_runs issues (free.trans run))
  case breaks =>
    intro s t n e a b u issues noneHeld released control plain fresh entry on addr aligned first ran
    have free := State.prepare_free ((s.afterDeposits_deferred t.id).trans noneHeld) released
    have hit := Thread.breakHit_first plain fresh entry on addr aligned first
    have stop := State.prepareLanded_break (s := b) (t := { t with fencing := false }) control hit
    exact step_of_stepThread (stepThread_stops issues (free.trans stop))
  case event => exact fun s c i rest => rfl
  case fetched =>
    intro s s' core asid va w h
    obtain ⟨aligned, s₁, page, size, leaf, translated, found⟩ := State.fetchWord_ok h
    have word := State.codeWord_cases (s₁.corrected (leafPA page leaf va.toNat) 8) asid (leafPA page leaf va.toNat)
    rw [found, State.corrected_readWordPA, State.corrected_copies] at word
    exact ⟨aligned, s₁, page, size, leaf, translated, word⟩

end Sys2Proof.Machine
end
